-- ==== Sys2Proof/Word.lean ====
section
/-! DEFINITION. The words of the machine: the 64-bit register word, the byte, the vector register
and the 64-byte line, and the plainest arithmetic on them (R7, R30, R34). -/

namespace Sys2Proof

/-- A 64-bit word (R30). -/
abbrev Word := BitVec 64
/-- One byte of memory. -/
abbrev Byte := BitVec 8
/-- A 256-bit vector register (R34). -/
abbrev Vec := BitVec 256
/-- A 64-byte line; byte i is bits [8i+7:8i] (R7). -/
abbrev Line := BitVec 512

/-- Bits [hi:lo] of a number, as a number. -/
def bitsOf (n hi lo : Nat) : Nat := (n >>> lo) % 2 ^ (hi + 1 - lo)

/-- `n` with its bits [hi:lo] replaced by `v`. -/
def setBitsOf (n hi lo v : Nat) : Nat :=
  n % 2 ^ lo + (v % 2 ^ (hi + 1 - lo)) * 2 ^ lo + (n >>> (hi + 1)) * 2 ^ (hi + 1)

/-- A number as a word, modulo 2^64. -/
abbrev w64 (n : Nat) : Word := BitVec.ofNat 64 n

end Sys2Proof
end

