-- ==== Sys2Proof/Syntax.lean ====
section
/-! DEFINITION. The commands of the device: one constructor per row of the command table. A core
instruction is a command to the core that executes it, with the operands its encoding carries
(R45, R46); the other rows are port writes, protocol messages, events, packets and pin changes. -/

namespace Sys2Proof

/-- A core, by its LCORE (R63). -/
abbrev CoreNo := Fin 128
/-- A general register number (R30). -/
abbrev GReg := Fin 32
/-- A vector register number (R34). -/
abbrev VReg := Fin 32
/-- A condition register number (R32). -/
abbrev CReg := Fin 8
/-- A 64-byte line of the 52-bit physical address space: its address divided by 64 (R21). -/
abbrev LineAddr := BitVec 46
/-- A node ID (R240). -/
abbrev NodeId := BitVec 16
/-- A Vetos port number (R213). -/
abbrev PortNo := Fin 512
/-- A comet channel: engine × 32 + channel (R311). -/
abbrev ChanNo := Fin 1024

/-- An RI or CI immediate: IMM15, or IMM32 of the extension word (R46). -/
inductive Imm where
  | short (v : BitVec 15)
  | long (v : BitVec 32)
  deriving DecidableEq, Repr

/-- MOVI's immediate: IMM15, or IMM32 with the H field (R46). -/
inductive MovImm where
  | short (v : BitVec 15)
  | long (h : BitVec 2) (v : BitVec 32)
  deriving DecidableEq, Repr

/-- Format M addressing (R49), short and extended forms of each mode. -/
inductive MAddr where
  | disp (a : GReg) (d : BitVec 13)
  | dispX (a : GReg) (d : BitVec 32)
  | index (a b : GReg) (sc : BitVec 2)
  | indexX (a b : GReg) (sc : BitVec 2) (d : BitVec 32)
  | pcrel (d : BitVec 13)
  | pcrelX (d : BitVec 32)
  deriving DecidableEq, Repr

/-- Format LO addressing (R49): base with DISP10 or DISP32. -/
inductive LOAddr where
  | short (b : GReg) (d : BitVec 10)
  | long (b : GReg) (d : BitVec 32)
  deriving DecidableEq, Repr

/-- A BR displacement in words (R46). -/
inductive BDisp where
  | short (d : BitVec 18)
  | long (d : BitVec 32)
  deriving DecidableEq, Repr

/-- A J displacement in words (R46). -/
inductive JDisp where
  | short (d : BitVec 25)
  | long (d : BitVec 32)
  deriving DecidableEq, Repr

/-- A P offset: OFF13 or OFF32 (R57). -/
inductive POff where
  | short (d : BitVec 13)
  | long (d : BitVec 32)
  deriving DecidableEq, Repr

/-- SEXT.B, SEXT.H, SEXT.W (R65). -/
inductive SextSize where
  | b | h | w
  deriving DecidableEq, Repr

/-- The four kinds of SHI (R67). -/
inductive ShiftKind where
  | shl | shr | sar | ror
  deriving DecidableEq, Repr

/-- Vector lane sizes of 8, 16, 32 and 64 bits (R34). -/
inductive Lane where
  | b | h | w | d
  deriving DecidableEq, Repr

/-- Width of a lane in bits. -/
def Lane.bits : Lane → Nat
  | .b => 8
  | .h => 16
  | .w => 32
  | .d => 64

/-- Who makes a request of a home: a core of this node, a comet channel of this node, or a partner
node through its proxy, with the tag, stream, sequence number and class of its message (R195, R224). -/
inductive Requester where
  | core (c : CoreNo)
  | comet (n : ChanNo)
  | node (n : NodeId) (tag : BitVec 14) (stream : BitVec 8) (sseq : BitVec 16) (cls : BitVec 2)
  deriving DecidableEq, Repr

/-- A message of the fabric: the fields of its header granule (R224), the fields of the flit header
that its messages share (R221), its data granules, and the port it arrived on. -/
structure Msg where
  src : NodeId
  dst : NodeId
  sepoch : BitVec 8
  cls : BitVec 2
  vc : Bool
  flow : BitVec 12
  op : BitVec 6
  spec : Bool
  pois : Bool
  tag : BitVec 14
  stat : BitVec 4
  first : Bool
  stream : BitVec 8
  sseq : BitVec 16
  addr : BitVec 52
  sub : BitVec 4
  data : List (BitVec 128)
  port : PortNo
  deriving DecidableEq, Repr

/-- The atomic operations performed at a home (R81, R152). -/
inductive AtomOp where
  | add (v : Word)
  | swap (v : Word)
  | cas (expect new : Word)
  | cas16 (expect new : BitVec 128)
  deriving DecidableEq, Repr

/-- Where a command packet came from: TC3 by the message's source and port of arrival, I3C, or the
service mailbox of this node (R374). -/
inductive Origin where
  | tc3 (src : NodeId) (port : PortNo)
  | i3c
  | mailbox
  deriving DecidableEq, Repr

/-- An accepted request: where its reply goes, the TAG and SEQ that the reply copies, and its
parameters (R379, R382). -/
structure Command where
  origin : Origin
  tag : BitVec 16
  seq : BitVec 32
  params : List Byte
  deriving DecidableEq, Repr

/-- What a training port learns of its peer (R217, R227): the peer's node ID and port, whether the
group is reversed, whether widths and wiring agree, and the credits it advertises per pool. -/
structure TrainInfo where
  peer : NodeId
  pport : PortNo
  rev : Bool
  wired : Bool
  credits : List Nat
  deriving DecidableEq, Repr

/-- How an arriving flit lies in the codewords of its port, and what the link has changed in them (R211,
R220): whether the flit begins in the codeword in which the flit before it ended, at which message bit it
begins, and for each codeword that it is the first to use the symbols in error, as their position (543 is
sent first) and what is added to them. -/
structure Fec where
  shared : Bool
  start : Fin 5140
  errs : List (List (Fin 544 × BitVec 10))
  deriving DecidableEq, Repr

/-- Link-control words of a CTRL flit (R222): the lane swap and shadow requests and the end of a
hitless swap (R232, R233), the reform onto the lanes from a position on, of a width code (R234), an equaliser
request (R451), and the delay measurement (R400). -/
inductive Ctrl where
  | swap (pos : Fin 16)
  | shadow (pos : Fin 16)
  | taken (pos : Fin 16)
  | reform (pos : Fin 16) (width : Fin 6)
  | equalise (pos : Fin 17)
  | delay
  deriving DecidableEq, Repr

/-- A CTRL flit as it arrives (R220, R222): what the FEC decoder met, its bits and its link-control
word. -/
structure CtrlFlit where
  fec : Fec
  bits : BitVec 2048
  word : Ctrl
  deriving DecidableEq, Repr

/-- The fatal causes of R336, with the unit each names. -/
inductive FatalCause where
  | moonSecond (m : Fin 4)
  | sliceNoSpare (n : Fin 64)
  | directory (n : Fin 64)
  | refclk
  | unlock (d : Fin 4)
  | therm (cluster : Option (Fin 16))
  deriving DecidableEq, Repr

/-- The commands, in the order of the command table. -/
inductive Instr where
  /-- ALU operation that writes gA + gB to gD (R65). -/
  | add (c : CoreNo) (d a b : GReg)
  /-- ALU operation that writes gA − gB to gD (R65). -/
  | sub (c : CoreNo) (d a b : GReg)
  /-- ALU operation that writes gA and gB to gD (R65). -/
  | and (c : CoreNo) (d a b : GReg)
  /-- ALU operation that writes gA or gB to gD (R65). -/
  | or (c : CoreNo) (d a b : GReg)
  /-- ALU operation that writes gA xor gB to gD (R65). -/
  | xor (c : CoreNo) (d a b : GReg)
  /-- ALU operation that writes gA and not gB to gD (R65). -/
  | andn (c : CoreNo) (d a b : GReg)
  /-- Shifts gA left by gB[5:0] (R65). -/
  | shl (c : CoreNo) (d a b : GReg)
  /-- Logical right shift of gA by gB[5:0] (R65). -/
  | shr (c : CoreNo) (d a b : GReg)
  /-- Arithmetic right shift of gA by gB[5:0] (R65). -/
  | sar (c : CoreNo) (d a b : GReg)
  /-- Rotates gA right by gB[5:0] (R65). -/
  | ror (c : CoreNo) (d a b : GReg)
  /-- Writes the low 64 bits of gA × gB to gD (R65). -/
  | mul (c : CoreNo) (d a b : GReg)
  /-- Writes the high 64 bits of the signed 128-bit product (R65). -/
  | mulh (c : CoreNo) (d a b : GReg)
  /-- Writes the high 64 bits of the unsigned 128-bit product (R65). -/
  | mulhu (c : CoreNo) (d a b : GReg)
  /-- Signed division rounded toward zero; never faults (R66). -/
  | div (c : CoreNo) (d a b : GReg)
  /-- Unsigned division; never faults (R66). -/
  | divu (c : CoreNo) (d a b : GReg)
  /-- Signed remainder with the sign of gA; never faults (R66). -/
  | rem (c : CoreNo) (d a b : GReg)
  /-- Unsigned remainder; never faults (R66). -/
  | remu (c : CoreNo) (d a b : GReg)
  /-- Writes the signed minimum of gA and gB (R65). -/
  | min (c : CoreNo) (d a b : GReg)
  /-- Writes the signed maximum of gA and gB (R65). -/
  | max (c : CoreNo) (d a b : GReg)
  /-- Writes the unsigned minimum of gA and gB (R65). -/
  | minu (c : CoreNo) (d a b : GReg)
  /-- Writes the unsigned maximum of gA and gB (R65). -/
  | maxu (c : CoreNo) (d a b : GReg)
  /-- Counts the leading zeros of gA (R65). -/
  | clz (c : CoreNo) (d : GReg) (a : GReg)
  /-- Counts the trailing zeros of gA (R65). -/
  | ctz (c : CoreNo) (d : GReg) (a : GReg)
  /-- Counts the one bits of gA (R65). -/
  | popc (c : CoreNo) (d : GReg) (a : GReg)
  /-- SEXT.B, SEXT.H or SEXT.W: sign-extends gA from 8, 16 or 32 bits; the size is a parameter (R65). -/
  | sext (c : CoreNo) (z : SextSize) (d : GReg) (a : GReg)
  /-- Adds the sign-extended immediate to gA (R67). -/
  | addi (c : CoreNo) (d : GReg) (a : GReg) (im : Imm)
  /-- ANDs gA with the zero-extended immediate (R67). -/
  | andi (c : CoreNo) (d : GReg) (a : GReg) (im : Imm)
  /-- ORs gA with the zero-extended immediate (R67). -/
  | ori (c : CoreNo) (d : GReg) (a : GReg) (im : Imm)
  /-- XORs gA with the zero-extended immediate (R67). -/
  | xori (c : CoreNo) (d : GReg) (a : GReg) (im : Imm)
  /-- Shifts or rotates gA by an immediate amount; the kind is selected by IMM15[7:6] (R67). -/
  | shi (c : CoreNo) (d : GReg) (a : GReg) (k : ShiftKind) (n : BitVec 6)
  /-- Loads an immediate into gD, sign-extended, or into its high half when H = 0b01 (R46). -/
  | movi (c : CoreNo) (d : GReg) (im : MovImm)
  /-- Multiplies gA by the sign-extended immediate (R67). -/
  | muli (c : CoreNo) (d : GReg) (a : GReg) (im : Imm)
  /-- Sets a condition register from a 64-bit compare of gA with gB (R68). -/
  | cmp (c : CoreNo) (cd : CReg) (a : GReg) (b : GReg)
  /-- Sets a condition register from a 32-bit compare (R68). -/
  | cmpW (c : CoreNo) (cd : CReg) (a : GReg) (b : GReg)
  /-- Sets Z and N from gA and gB; B is cleared (R68). -/
  | tst (c : CoreNo) (cd : CReg) (a : GReg) (b : GReg)
  /-- Compares gA with the sign-extended immediate (R68). -/
  | cmpi (c : CoreNo) (cd : CReg) (a : GReg) (im : Imm)
  /-- Compares gA with the zero-extended immediate (R68). -/
  | cmpui (c : CoreNo) (cd : CReg) (a : GReg) (im : Imm)
  /-- Selects gA or gB by a condition on a c register (R68). -/
  | csel (c : CoreNo) (d a b : GReg) (cr : CReg) (cond : BitVec 4)
  /-- Extracts a zero-extended bit field of gA (R68). -/
  | extu (c : CoreNo) (d a b : GReg)
  /-- Extracts a sign-extended bit field of gA (R68). -/
  | exts (c : CoreNo) (d a b : GReg)
  /-- Inserts the low bits of gA into a field of gD (R68). -/
  | ins (c : CoreNo) (d a b : GReg)
  /-- Reverses the 8 bytes of gA (R68). -/
  | bswap (c : CoreNo) (d : GReg) (a : GReg)
  /-- Conditional branch on a condition register (R69). -/
  | bc (c : CoreNo) (cr : CReg) (cond : BitVec 4) (disp : BDisp)
  /-- Unconditional PC-relative jump (R69). -/
  | jmp (c : CoreNo) (disp : JDisp)
  /-- Pushes the return address to the stack and the HRS and jumps; handles HRS overflow by R54 (R53). -/
  | call (c : CoreNo) (disp : JDisp)
  /-- Jumps to the address in gA (R69). -/
  | jmpr (c : CoreNo) (a : GReg)
  /-- Calls the address in gA by R53 (R69). -/
  | callr (c : CoreNo) (a : GReg)
  /-- Loads the return address and checks it against the HRS; pops and returns, or faults (R53). -/
  | ret (c : CoreNo)
  /-- Loads 1 byte, zero-extended (R70). -/
  | ldB (c : CoreNo) (d : GReg) (m : MAddr)
  /-- Loads 2 bytes, zero-extended (R70). -/
  | ldH (c : CoreNo) (d : GReg) (m : MAddr)
  /-- Loads 4 bytes, zero-extended (R70). -/
  | ldW (c : CoreNo) (d : GReg) (m : MAddr)
  /-- Loads 8 bytes (R70). -/
  | ldD (c : CoreNo) (d : GReg) (m : MAddr)
  /-- Loads 1 byte, sign-extended (R70). -/
  | ldBs (c : CoreNo) (d : GReg) (m : MAddr)
  /-- Loads 2 bytes, sign-extended (R70). -/
  | ldHs (c : CoreNo) (d : GReg) (m : MAddr)
  /-- Loads 4 bytes, sign-extended (R70). -/
  | ldWs (c : CoreNo) (d : GReg) (m : MAddr)
  /-- Loads 16 bytes into gD and gD+1 (R70). -/
  | ld16 (c : CoreNo) (d : GReg) (m : MAddr)
  /-- Stores the low byte of gD (R70). -/
  | stB (c : CoreNo) (d : GReg) (m : MAddr)
  /-- Stores the low 2 bytes of gD (R70). -/
  | stH (c : CoreNo) (d : GReg) (m : MAddr)
  /-- Stores the low 4 bytes of gD (R70). -/
  | stW (c : CoreNo) (d : GReg) (m : MAddr)
  /-- Stores the 8 bytes of gD (R70). -/
  | stD (c : CoreNo) (d : GReg) (m : MAddr)
  /-- Stores gD and gD+1 as one 16-byte single-copy-atomic unit (R70). -/
  | st16 (c : CoreNo) (d : GReg) (m : MAddr)
  /-- Places a non-temporal 8-byte store in the combining buffer (R72). -/
  | stnt (c : CoreNo) (d : GReg) (m : MAddr)
  /-- Loads 8 bytes with acquire ordering (R170). -/
  | lda (c : CoreNo) (d : GReg) (m : MAddr)
  /-- Stores 8 bytes with release ordering (R170). -/
  | stl (c : CoreNo) (d : GReg) (m : MAddr)
  /-- Load-op: adds a memory operand to gA (R71). -/
  | addM (c : CoreNo) (d : GReg) (a : GReg) (m : LOAddr)
  /-- Load-op: subtracts a memory operand from gA (R71). -/
  | subM (c : CoreNo) (d : GReg) (a : GReg) (m : LOAddr)
  /-- Load-op: ANDs a memory operand with gA (R71). -/
  | andM (c : CoreNo) (d : GReg) (a : GReg) (m : LOAddr)
  /-- Load-op: ORs a memory operand with gA (R71). -/
  | orM (c : CoreNo) (d : GReg) (a : GReg) (m : LOAddr)
  /-- Load-op: XORs a memory operand with gA (R71). -/
  | xorM (c : CoreNo) (d : GReg) (a : GReg) (m : LOAddr)
  /-- Load-op: compares gA with a memory operand into a c register (R71). -/
  | cmpM (c : CoreNo) (d : GReg) (a : GReg) (m : LOAddr)
  /-- Load-op: multiplies gA by a memory operand (R71). -/
  | mulM (c : CoreNo) (d : GReg) (a : GReg) (m : LOAddr)
  /-- Per-lane vector integer add (R74). -/
  | vadd (c : CoreNo) (z : Lane) (d a b : VReg)
  /-- Per-lane vector integer subtract (R74). -/
  | vsub (c : CoreNo) (z : Lane) (d a b : VReg)
  /-- Per-lane vector multiply, low half (R74). -/
  | vmul (c : CoreNo) (z : Lane) (d a b : VReg)
  /-- Vector bitwise AND (R74). -/
  | vand (c : CoreNo) (z : Lane) (d a b : VReg)
  /-- Vector bitwise OR (R74). -/
  | vor (c : CoreNo) (z : Lane) (d a b : VReg)
  /-- Vector bitwise XOR (R74). -/
  | vxor (c : CoreNo) (z : Lane) (d a b : VReg)
  /-- Per-lane left shift by the matching lane of vB (R74). -/
  | vshl (c : CoreNo) (z : Lane) (d a b : VReg)
  /-- Per-lane logical right shift (R74). -/
  | vshr (c : CoreNo) (z : Lane) (d a b : VReg)
  /-- Per-lane arithmetic right shift (R74). -/
  | vsar (c : CoreNo) (z : Lane) (d a b : VReg)
  /-- Per-lane signed minimum (R74). -/
  | vmin (c : CoreNo) (z : Lane) (d a b : VReg)
  /-- Per-lane signed maximum (R74). -/
  | vmax (c : CoreNo) (z : Lane) (d a b : VReg)
  /-- Per-lane unsigned minimum (R74). -/
  | vminu (c : CoreNo) (z : Lane) (d a b : VReg)
  /-- Per-lane unsigned maximum (R74). -/
  | vmaxu (c : CoreNo) (z : Lane) (d a b : VReg)
  /-- Floating-point add, per lane or scalar; raises flags or FP_EXC (R35). -/
  | fadd (c : CoreNo) (sc : Bool) (z : Lane) (d a b : VReg)
  /-- Floating-point subtract, per lane or scalar (R35). -/
  | fsub (c : CoreNo) (sc : Bool) (z : Lane) (d a b : VReg)
  /-- Floating-point multiply, per lane or scalar (R35). -/
  | fmul (c : CoreNo) (sc : Bool) (z : Lane) (d a b : VReg)
  /-- Floating-point divide, per lane or scalar (R35). -/
  | fdiv (c : CoreNo) (sc : Bool) (z : Lane) (d a b : VReg)
  /-- Floating-point square root, per lane or scalar (R35). -/
  | fsqrt (c : CoreNo) (sc : Bool) (z : Lane) (d : VReg) (a : VReg)
  /-- Fused multiply-add with one rounding (R35). -/
  | fma (c : CoreNo) (sc : Bool) (z : Lane) (d a b : VReg)
  /-- Floating-point minimum (R35). -/
  | fmin (c : CoreNo) (sc : Bool) (z : Lane) (d a b : VReg)
  /-- Floating-point maximum (R35). -/
  | fmax (c : CoreNo) (sc : Bool) (z : Lane) (d a b : VReg)
  /-- Compares lane 0 of two vectors into a c register (R74). -/
  | fcmp (c : CoreNo) (z : Lane) (d a b : VReg)
  /-- Converts between floating-point sizes (R74). -/
  | cvtFpFp (c : CoreNo) (z : Lane) (src : Lane) (d : VReg) (a : VReg)
  /-- Converts floating point to signed integer, saturating (R74). -/
  | cvtFpSigned (c : CoreNo) (z : Lane) (d : VReg) (a : VReg)
  /-- Converts signed integer to floating point (R74). -/
  | cvtSignedFp (c : CoreNo) (z : Lane) (d : VReg) (a : VReg)
  /-- Converts floating point to unsigned integer, saturating (R74). -/
  | cvtFpUnsigned (c : CoreNo) (z : Lane) (d : VReg) (a : VReg)
  /-- Moves a vector lane to a g register (R74). -/
  | vext (c : CoreNo) (z : Lane) (d : GReg) (a : VReg) (lane : Fin 32)
  /-- Moves a g register into a vector lane (R74). -/
  | vins (c : CoreNo) (z : Lane) (d : VReg) (a : GReg) (lane : Fin 32)
  /-- Broadcasts a g register into every lane (R74). -/
  | vbcast (c : CoreNo) (z : Lane) (d : VReg) (a : GReg)
  /-- VLDL.B/H/W/D: loads lane 0 and clears the rest of vD; the size is a parameter (R74). -/
  | vldl (c : CoreNo) (z : Lane) (d : VReg) (a : GReg)
  /-- VSTL.B/H/W/D: stores lane 0 of vD; the size is a parameter (R74). -/
  | vstl (c : CoreNo) (z : Lane) (d : VReg) (a : GReg)
  /-- Stores all 32 bytes of vD (R74). -/
  | vst (c : CoreNo) (d : VReg) (a : GReg)
  /-- Loads 32 bytes into vD (R74). -/
  | vld (c : CoreNo) (d : VReg) (m : MAddr)
  /-- Block copy by elements; interruptible at element boundaries (R75). -/
  | bcpy (c : CoreNo)
  /-- Block fill with a pattern (R75). -/
  | bset (c : CoreNo)
  /-- Block compare; writes c0 on completion (R76). -/
  | bcmp (c : CoreNo)
  /-- Block scan for a byte; writes c0 on completion (R76). -/
  | bscn (c : CoreNo)
  /-- Atomic add at the home (R81). -/
  | aadd (c : CoreNo) (d a b : GReg) (acq : Bool) (rel : Bool)
  /-- Atomic swap at the home (R81). -/
  | aswp (c : CoreNo) (d a b : GReg) (acq : Bool) (rel : Bool)
  /-- Atomic compare-and-swap at the home (R81). -/
  | acas (c : CoreNo) (d a b : GReg) (acq : Bool) (rel : Bool)
  /-- Full barrier; drains the combining buffer and reports a latched fabric store error (R84). -/
  | sync (c : CoreNo)
  /-- Orders younger accesses after older loads and PINs (R84). -/
  | lsync (c : CoreNo)
  /-- Orders younger stores after older stores (R84). -/
  | ssync (c : CoreNo)
  /-- Waits for older instructions and refetches younger ones (R84). -/
  | isync (c : CoreNo)
  /-- Waits for fabric store completions and reports a latched fabric store error (R84). -/
  | fsync (c : CoreNo)
  /-- Issues and performs every combining-buffer line (R84). -/
  | drain (c : CoreNo)
  /-- Holds issue of younger instructions until older control transfers resolve (R84). -/
  | specbar (c : CoreNo)
  /-- Invalidates a line in every cache, discarding modified data (R85). -/
  | cinv (c : CoreNo) (a : GReg)
  /-- Writes a modified line back to DRAM; copies stay valid (R85). -/
  | ccln (c : CoreNo) (a : GReg)
  /-- Writes a line back and invalidates every copy (R85). -/
  | cfls (c : CoreNo) (a : GReg)
  /-- Invalidates a line in the L1I of every core (R85). -/
  | icinv (c : CoreNo) (a : GReg)
  /-- Removes matching TLB entries of the current VMID on this core (R86). -/
  | tlbinv (c : CoreNo) (a : GReg) (b : GReg)
  /-- Removes matching TLB entries on every core and engine TLB (R160). -/
  | tlbinvb (c : CoreNo) (a : GReg) (b : GReg)
  /-- Removes every entry of a VMID, or of all VMIDs, on every core (R160). -/
  | tlbinva (c : CoreNo) (a : GReg) (b : GReg)
  /-- Walks and locks a translation in the L2 TLB (R87). -/
  | tlblock (c : CoreNo) (d : GReg) (a : GReg)
  /-- Unlocks a matching L2 TLB entry (R87). -/
  | tlbunlock (c : CoreNo) (d : GReg) (a : GReg)
  /-- Port read, issued when oldest, after permission and alignment checks (R88). -/
  | pin (c : CoreNo) (d : GReg) (a : GReg) (w : Bool) (o : POff)
  /-- Port write issued at retirement into the target block's queue (R89). -/
  | pout (c : CoreNo) (d : GReg) (a : GReg) (w : Bool) (o : POff)
  /-- Reads a system register (R91). -/
  | mfs (c : CoreNo) (d : GReg) (n : BitVec 12)
  /-- Writes a system register, context-synchronising (R41). -/
  | mts (c : CoreNo) (d : GReg) (n : BitVec 12)
  /-- Writes PSTATE with the TE and ML limits of the current level (R38). -/
  | mtsPstate (c : CoreNo) (d : GReg)
  /-- Writes HRSCTL under the DEPTH and PL0 rules (R55). -/
  | mtsHrsctl (c : CoreNo) (d : GReg)
  /-- HRSCTL.DROP operation that removes the oldest HRS entries (R55). -/
  | drop (c : CoreNo) (d : GReg)
  /-- Writes PPBASE and empties the core's bitmap granule cache (R62). -/
  | mtsPpbase (c : CoreNo) (d : GReg)
  /-- Writes VDTB and drops cached VDT descriptors (R122). -/
  | mtsVdtb (c : CoreNo) (d : GReg)
  /-- Writes PKR with synchronisation (R94). -/
  | mtsPkr (c : CoreNo) (d : GReg)
  /-- Writes the core timer deadline and re-evaluates vector 0x40 (R398). -/
  | mtsTbCmp (c : CoreNo) (d : GReg)
  /-- Writes PSBBASE and rereads the ring's RIDX (R421). -/
  | mtsPsbbase (c : CoreNo) (d : GReg)
  /-- Takes the SCALL exception (R92). -/
  | scall (c : CoreNo)
  /-- Takes the HCALL exception (R92). -/
  | hcall (c : CoreNo)
  /-- Takes the MCALL exception (R92). -/
  | mcall (c : CoreNo)
  /-- Restores PC, sp and PSTATE from the exception frame (R93). -/
  | xret (c : CoreNo)
  /-- Takes the BREAK exception (R92). -/
  | brk (c : CoreNo)
  /-- Places the core in C1, or in C6 when C6EN is set, until a wake condition (R96). -/
  | wait (c : CoreNo)
  /-- Waits as WAIT, also until a TB deadline (R96). -/
  | waitt (c : CoreNo) (d : GReg) (a : GReg)
  /-- The WAITT deadline is reached; gD := 0 and the wait ends (R96). -/
  | waittDeadline (c : CoreNo)
  /-- Reads TB into gD (R95). -/
  | rdtb (c : CoreNo) (d : GReg)
  /-- Writes PKR without serialising (R94). -/
  | wrpkr (c : CoreNo) (a : GReg)
  /-- Reads PKR into gD (R92). -/
  | rdpkr (c : CoreNo) (d : GReg)
  /-- An eligible interrupt is accepted at a boundary and delivered (R116). -/
  | interrupt (c : CoreNo)
  /-- A programmable counter passes 2^48 − 1; OVF is set, a sample may be armed and the counter may reload
  (R416). -/
  | counterOverflow (c : CoreNo) (n : Fin 8)
  /-- The sampled instruction retires and its record is written to the sampling ring (R421). -/
  | sampleRecord (c : CoreNo)
  /-- TB reaches TB_CMP and vector 0x40 becomes pending (R397). -/
  | coreTimer (c : CoreNo)
  /-- A failed retirement check discards the instruction and younger ones, which run again (R341). -/
  | coreReplay (c : CoreNo)
  /-- A persistent core fault starts the transfer of the core's state to the cluster spare (R342). -/
  | eclipseMove (c : CoreNo)
  /-- The spare core takes the identity and resumes at the fenced boundary (R342). -/
  | eclipseResume (c : CoreNo)
  /-- A PIN or POUT has had no response for 2 µs (R90). -/
  | portTimeout (c : CoreNo) (isOut : Bool) (d : GReg) (a : GReg) (w : Bool) (o : POff)
  /-- CORE_PREDCTL.FLUSH clears every predictor table (R105). -/
  | predFlush (c : CoreNo)
  /-- A write to CORE_MDTB sets the MDT and drops cached MDT descriptors (R122). -/
  | coreMdtbWrite (c : CoreNo) (v : Word)
  /-- Sets an edge vector pending on a target core or on every other core (R136). -/
  | coreIpi (c : CoreNo) (v : BitVec 32)
  /-- A write to a register that has no row of its own, by its Access codes (R9). -/
  | registerWrite (c : CoreNo) (port : BitVec 32) (w : Bool) (v : Word)
  /-- A shared-read request served at the home (R197). -/
  | rdS (r : Requester) (addr : LineAddr) (spec : Bool)
  /-- A read-for-ownership request served at the home (R197). -/
  | rdX (r : Requester) (addr : LineAddr)
  /-- An upgrade request from a sharer (R197). -/
  | upg (r : Requester) (addr : LineAddr)
  /-- The write-back of an M line, or a stale WB that is discarded (R197). -/
  | wb (r : Requester) (addr : LineAddr) (data : Line)
  /-- The eviction notice of a clean line (R197). -/
  | evc (r : Requester) (addr : LineAddr)
  /-- An uncached or non-coherent read served at the home (R197). -/
  | rdCur (r : Requester) (addr : LineAddr)
  /-- A byte-masked line write that invalidates every copy (R197). -/
  | wrLine (r : Requester) (addr : LineAddr) (mask : BitVec 64) (data : Line)
  /-- An atomic performed at the home after the recall of every copy (R204). -/
  | atom (r : Requester) (addr : Word) (op : AtomOp)
  /-- A CINV request served at the home (R197). -/
  | homeCinv (r : Requester) (addr : LineAddr)
  /-- A CCLN request served at the home (R197). -/
  | homeCcln (r : Requester) (addr : LineAddr)
  /-- A CFLS request served at the home (R197). -/
  | homeCfls (r : Requester) (addr : LineAddr)
  /-- A recall-to-share that reaches a partner proxy, which answers with its holding (R201). -/
  | rclS (m : Msg)
  /-- A recall-and-invalidate that reaches a partner proxy (R201). -/
  | rclI (m : Msg)
  /-- A back-invalidation that reaches a partner proxy (R200). -/
  | binv (m : Msg)
  /-- A partner owner sends current data if modified and keeps its state (R197). -/
  | snpCur (m : Msg)
  /-- A partner owner writes back modified data and keeps the line exclusive (R197). -/
  | snpCln (m : Msg)
  /-- A data response accepted by the requester, which grants a state by STAT (R225). -/
  | data (m : Msg)
  /-- A completion without data; for a REMOTE vport it returns a credit (R225). -/
  | cmpResponse (m : Msg)
  /-- A snoop answer at the home; the first is used, later ones are ignored (R201). -/
  | snpr (m : Msg)
  /-- A refusal that ends the request by STAT: FABRIC_NAK, or a resend after RETRY_BUSY (R225). -/
  | nak (m : Msg)
  /-- A TC0 message that writes a mailbox slot of a paired REMOTE vport (R284). -/
  | msg (m : Msg)
  /-- A TC3 command packet that arrives for this node, or its reply (R375). -/
  | cmd (m : Msg)
  /-- A liveness probe that the switch answers with PROBE_R (R245). -/
  | probe (m : Msg)
  /-- An answer to a probe, which returns the entry to ALIVE (R244). -/
  | probeR (m : Msg)
  /-- A time-sync message that steps or steers TB in FOLLOW mode (R401). -/
  | tsync (m : Msg)
  /-- A DATA flit arrives; it is accepted or retried, then delivered, forwarded or discarded (R237). -/
  | dataFlit (p : PortNo) (e : Fec) (f : BitVec 2048)
  /-- An IDLE flit that carries only link fields, acknowledgements and credits (R227). -/
  | idleFlit (p : PortNo) (e : Fec) (f : BitVec 2048)
  /-- A CTRL flit that carries a lane-swap, reform, shadow or equaliser request (R222). -/
  | ctrlFlit (p : PortNo) (k : CtrlFlit)
  /-- A flit with NAK makes the transmitter resend every unacknowledged flit (R229). -/
  | linkNak (p : PortNo) (ack : BitVec 8)
  /-- The oldest unacknowledged flit has waited 4 µs and is resent; the retry limit may take the port DOWN
  (R229). -/
  | replayTimeout (p : PortNo)
  /-- 200 ns pass with flits unacknowledged and an acknowledgement is sent (R228). -/
  | ackTimer (p : PortNo)
  /-- A message has waited 8 SWITCH cycles for a flit to fill and is sent (R223). -/
  | flitFillTimeout
  /-- An (SRC, STREAM) pair is forgotten 2 ms after its last message (R236). -/
  | orderingStateExpiry (src : NodeId) (stream : BitVec 8)
  /-- A training phase completes and the next starts; phase 6 brings the port UP (R217). -/
  | trainingPhaseDone (p : PortNo) (info : TrainInfo)
  /-- A phase exceeds its limit and the port goes DOWN; after two failures it falls back to NRZ (R217). -/
  | trainingLimit (p : PortNo)
  /-- 10 ms after a DOWN, training starts again (R217). -/
  | trainingRetry (p : PortNo)
  /-- A lane counts over 10,000 corrected symbols in 1 ms and the spare starts to shadow it (R232). -/
  | laneSuspect (g : Fin 32) (pos : Fin 16)
  /-- The shadowing spare has run 1 ms cleanly and takes over the position (R232). -/
  | laneSpared (g : Fin 32)
  /-- A lane loses CDR lock or fails; the spare takes it through one retry, or the port reforms or goes DOWN
  (R233). -/
  | laneLost (g : Fin 32) (pos : Fin 17)
  /-- Every 1 ms the STANDBY spare moves SHIDX to the next position (R231). -/
  | standbyRotate (g : Fin 32)
  /-- A group reference clock is lost and every port of the group goes DOWN (R456). -/
  | grefclkLoss (g : Fin 32)
  /-- SILENCE µs pass with a request to a node outstanding, and the node becomes SUSPECT (R244). -/
  | suspect (n : NodeId)
  /-- PINT µs pass and a PROBE is sent to a SUSPECT node; after NPROBE it becomes DEAD (R244). -/
  | probeInterval (n : NodeId)
  /-- A tide flit is released when its flow's bucket holds a token (R252). -/
  | tokenBucketRelease (f : Fin 4096)
  /-- A tide copy has waited 2 µs in one member's queue and is discarded (R253). -/
  | tideCopyTimeout (f : Fin 4096) (p : PortNo)
  /-- The copy of the new active bank ends and held staging commands run (R263). -/
  | bankCopyDone
  /-- A fabric request has had no response for 1 ms and ends with FABRIC_TIMEOUT (R464). -/
  | fabricTimeout (tag : BitVec 14)
  /-- 1 µs after a NAK with STAT 0x4, the request is resent (R225). -/
  | retryBusyResend (tag : BitVec 14)
  /-- A hold window ends and the deferred snoops are served (R202). -/
  | holdWindowEnd (addr : LineAddr)
  /-- A partner snoop unanswered for 10 µs is sent again (R201). -/
  | snoopResend (addr : LineAddr) (n : NodeId)
  /-- A partner snoop unanswered for 100 µs is logged (R201). -/
  | partnerSlow (addr : LineAddr) (n : NodeId)
  /-- Every slice has finished the reclaim; DONE is set, it is logged and the reply is sent (R207). -/
  | reclaimComplete
  /-- WIN_CMD LOAD places the staged entry at INDEX (R276). -/
  | winLoad (ix : Fin 32768)
  /-- WIN_CMD INSERT places the staged entry at a free or least recently used index (R276). -/
  | winInsert
  /-- WIN_CMD INVALIDATE removes the entry at INDEX (R275). -/
  | winInvalidate (ix : Fin 32768)
  /-- WIN_CMD OP 0x4 removes every entry of a vport (R275). -/
  | winInvalidateVport (v : Fin 4096)
  /-- A read of the window-miss queue head that removes it (R278). -/
  | winMqRead
  /-- VP_CMD CREATE reads the parameter block and makes a vport ACTIVE or FROZEN (R280). -/
  | vpCreate (v : Fin 4096)
  /-- VP_CMD DESTROY frees a vport and returns its pools to vport 0 (R281). -/
  | vpDestroy (v : Fin 4096)
  /-- VP_CMD FREEZE quiesces a vport and writes its blob (R286). -/
  | vpFreeze (v : Fin 4096)
  /-- VP_CMD RESTORE loads a blob into a FROZEN vport (R286). -/
  | vpRestore (v : Fin 4096)
  /-- VP_CMD THAW returns a FROZEN vport to ACTIVE (R286). -/
  | vpThaw (v : Fin 4096)
  /-- The manager writes mailbox indices and the tenant's vector is raised (R283). -/
  | vpMdbWrite (v : Fin 4096) (x : BitVec 32)
  /-- The tenant writes mailbox indices; a REMOTE vport may send a MSG (R283). -/
  | vtDbWrite (c : CoreNo) (k : Fin 16) (x : BitVec 32)
  /-- CMT_CTL.EN from 0 to 1 places a channel in IDLE (R326). -/
  | cmtEn (n : ChanNo)
  /-- CMT_CTL.EN = 0 drops the channel at once (R331). -/
  | cmtDrop (n : ChanNo)
  /-- CMT_CTL.HOLD asks for a stop at the next hold point, or lets a HELD channel continue (R330). -/
  | cmtHold (n : ChanNo) (h : Bool)
  /-- CMT_CTL.GO starts an IDLE channel at CMT_PROG (R326). -/
  | cmtGo (n : ChanNo)
  /-- CMT_CTL.RING adds 1 to DBCNT (R323). -/
  | cmtRing (n : ChanNo)
  /-- CMT_CTL.RESUME retries the failed access of a HALTED channel (R329). -/
  | cmtResume (n : ChanNo)
  /-- CMT_CTL.SKIP continues a HALTED channel with the next instruction (R329). -/
  | cmtSkip (n : ChanNo)
  /-- A comet channel copies bytes (R320). -/
  | cmtMove (n : ChanNo)
  /-- A comet channel gathers or scatters by a list of pairs (R321). -/
  | cmtGather (n : ChanNo)
  /-- A comet channel repeats a body by a loop counter (R322). -/
  | cmtLoop (n : ChanNo)
  /-- A comet channel waits for a doorbell, a delay or a value (R323). -/
  | cmtWait (n : ChanNo)
  /-- The WAIT condition is met: a doorbell is counted, a delay expires, or a 1 µs value test passes (R323).
  -/
  | cmtWaitEnd (n : ChanNo)
  /-- After prior writes complete, writes or adds a flag and may raise a vector (R324). -/
  | cmtSignal (n : ChanNo)
  /-- After prior writes complete, sets DONE and returns the channel to IDLE (R324). -/
  | cmtEndProg (n : ChanNo)
  /-- 5 µs after a WINDOW_MISS, a channel retries its access (R327). -/
  | windowMissRetry (n : ChanNo)
  /-- A channel with HOLD reaches a hold point, its writes are performed, and it becomes HELD (R330). -/
  | holdPoint (n : ChanNo)
  /-- Every access of a dropped channel has completed and QUIET becomes 1 (R331). -/
  | quiet (n : ChanNo)
  /-- A periodic event generator reaches its event time and fires its consumers (R403). -/
  | pegEvent (n : Fin 16)
  /-- A write to PEG_BASE or PEG_CFG sets each affected generator's next event (R404). -/
  | pegCfgWrite (n : Option (Fin 16)) (v : Word)
  /-- Spreads the phases of the selected generators, or refuses with SERR (R405). -/
  | stagger (x : BitVec 16)
  /-- A 32-bit low-half read of TB_VAL or CAP_HEAD loads the reader's latch (R396). -/
  | tbValRead (c : Option CoreNo) (n : Option (Fin 16))
  /-- A read of the capture queue head that pops it (R408). -/
  | capHeadRead (n : Fin 16)
  /-- A change of SRC or EDGE empties the capture queue (R407). -/
  | capCfgWrite (n : Fin 16) (v : BitVec 32)
  /-- A TIME_IN pin edge is stamped into the capture channels that select it (R407). -/
  | timeIn (n : Fin 4) (rise : Bool)
  /-- A PPS_IN edge is captured, steers a ROOT node and steps a waiting TIME_SET (R402). -/
  | ppsIn (rise : Bool)
  /-- WIDTH ticks after an event, TIME_OUT falls (R409). -/
  | timeOutPulseEnd (n : Fin 4)
  /-- TB reaches a multiple of 10^9 and PPS_OUT rises (R410). -/
  | ppsOutRise
  /-- 100,000,000 ticks after its rise, PPS_OUT falls (R410). -/
  | ppsOutFall
  /-- Once per interval a TSYNC is sent on every UP port (R399). -/
  | tsyncInterval
  /-- No TSYNC has been accepted for 8 intervals; the rate is held and LOCK cleared (R401). -/
  | tsyncHold
  /-- Every 1 ms a port measures its one-way delay (R400). -/
  | portDelayMeasure (p : PortNo) (d : BitVec 32)
  /-- A DRAM channel fails; reconstruction, a rebuild or an UNCORR rewrite starts (R301). -/
  | channelFailed (q : Fin 4) (ch : Fin 17) (cause : Fin 4)
  /-- A frame is rebuilt onto the spare and RPTR advances (R302). -/
  | rebuildFrame (q : Fin 4)
  /-- The rebuild ends and the spare becomes IN_SERVICE (R302). -/
  | rebuildDone (q : Fin 4)
  /-- The check-only rewrite of a failed channel with UNCORR lines ends (R303). -/
  | uncorrRewriteDone (q : Fin 4)
  /-- DRAM is written with zeros, INIT is set, and waiting accesses proceed (R305). -/
  | dramInitDone
  /-- Every 1 ms the DRAM temperature is read; a step change starts a write-path update (R287). -/
  | mr4Read (q : Fin 4) (ch : Fin 17) (step : Bool)
  /-- Every 64 ms ZQ start and latch run per rank (R451). -/
  | zqCalibration (q : Fin 4) (ch : Fin 17) (ok : Bool)
  /-- Every 16 ms the write delays are updated with a channel pause (R451). -/
  | writePathUpdate (q : Fin 4) (ch : Fin 17) (ok : Bool) (drift : BitVec 8)
  /-- A receiver whose margin falls asks the peer for a transmitter equaliser change (R451). -/
  | equaliserUpdate (p : PortNo) (pos : Fin 17)
  /-- 16 corrections in one bit position within 1 s replace a column, or disable a way (R339). -/
  | columnRepair (a : BitVec 8) (u : BitVec 16) (sub : BitVec 16) (col : BitVec 16) (way : BitVec 16)
  /-- The column copy ends and reads switch to the redundant column (R307). -/
  | columnRepairDone (a : BitVec 8) (u : BitVec 16) (sub : BitVec 16) (col : BitVec 16)
  /-- A failing slice starts its migration to the spare slice (R345). -/
  | sliceMigration (n : Fin 64)
  /-- The copy ends and the mesh maps the slice number to the spare (R345). -/
  | sliceMigrated
  /-- A moon core misses 5 heartbeats or reports an error, and its tasks move to their standbys (R346). -/
  | moonLost (n : Fin 4) (err : Bool)
  /-- A moon core finishes its change to the new image, and the next starts or the update stops (R347). -/
  | moonCoreChange (ok : Bool)
  /-- A fatal cause is detected and the device halts with FAULT_N low (R335). -/
  | fatal (cause : FatalCause)
  /-- 1 ms after its first event a corrected record takes its SEQ and goes to the ring (R351). -/
  | mergeWindowClose
  /-- Software advances RIDX and held records enter the ring (R351). -/
  | fltLogIdxWrite (v : Word)
  /-- A write with EN 0 to 1 writes the held records in SEQ order (R351). -/
  | fltLogRingWrite (v : Word)
  /-- SVC_KEY.SET stores the shifted words as the rack key (R381). -/
  | keySet
  /-- SVC_KEY.ERASE erases the rack key from both copies (R381). -/
  | keyErase
  /-- Shifts one 8-byte word of the rack key in (R381). -/
  | svcKeywWrite (v : Word)
  /-- Software advances WIDX and the device reads the request entries (R393). -/
  | svcReqidxWrite (v : Word)
  /-- Software advances RIDX and held replies are written (R393). -/
  | svcRspidxWrite (v : Word)
  /-- A private write delivers one command packet (R377). -/
  | i3cPrivateWrite (data : List Byte)
  /-- A private read returns the oldest pending reply (R377). -/
  | i3cPrivateRead (whole : Bool)
  /-- CCC that assigns the dynamic address (R376). -/
  | entdaa (a : BitVec 7)
  /-- CCC that resets the dynamic address (R376). -/
  | rstdaa
  /-- CCC that sets the dynamic address from the static address (R376). -/
  | setdasa (a : BitVec 7)
  /-- CCC that returns the provisioned ID (R376). -/
  | getpid
  /-- CCC that returns 0x06 (R376). -/
  | getbcr
  /-- CCC that returns 0x00 (R376). -/
  | getdcr
  /-- CCC that returns the target status (R376). -/
  | getstatus
  /-- CCC that enables in-band interrupts (R376). -/
  | enec
  /-- CCC that disables in-band interrupts (R376). -/
  | disec
  /-- CCC that reports a maximum write length of 224 (R376). -/
  | getmwl
  /-- CCC that reports a maximum read length of 224 (R376). -/
  | getmrl
  /-- Returns the node identity, with no MAC check (R387). -/
  | identify (k : Command)
  /-- Writes FAB_GCFG; the ports that change go DOWN and retrain (R215). -/
  | portSet (k : Command)
  /-- Returns the state and error counts of a port (R386). -/
  | portStatus (k : Command)
  /-- Stages route records into the shadow bank (R388). -/
  | nodeRouteStage (k : Command)
  /-- Flips the node-table banks and applies SELF and REVIVE (R262). -/
  | nodeRouteCommit (k : Command)
  /-- Installs a tide flow entry after the admission checks (R255). -/
  | tideAdmit (k : Command)
  /-- Removes a tide flow entry and its reservation (R256). -/
  | tideRelease (k : Command)
  /-- Writes a reach entry after its checks (R266). -/
  | reachGrant (k : Command)
  /-- Removes a reach, waits out its transactions and writes back its lines (R269). -/
  | reachRevoke (k : Command)
  /-- Declares a partner dead and starts its reclaim (R208). -/
  | partnerDead (k : Command)
  /-- Saves the current calibration into the user record (R448). -/
  | calSave (k : Command)
  /-- Marks record entries stale and sets PEND (R449). -/
  | calRestoreFactory (k : Command)
  /-- Writes image data into the slot that is not booted (R389). -/
  | fwStage (k : Command)
  /-- Checks the staged slot, writes its commit word and may start a live activation (R389). -/
  | fwCommit (k : Command)
  /-- Confirms the slot in trial (R361). -/
  | bootConfirm (k : Command)
  /-- Retires a unit onto its spare (R390). -/
  | repairRetire (k : Command)
  /-- Returns the spare and repair status (R386). -/
  | repairStatus (k : Command)
  /-- Returns device monitor counts without clearing them (R427). -/
  | monRead (k : Command)
  /-- Steps TB now, or waits for the next PPS_IN edge (R391). -/
  | timeSet (k : Command)
  /-- No PPS_IN edge has come within 2 s and the waiting TIME_SET is refused (R391). -/
  | timeSetTimeout
  /-- Burns the life-cycle fuses and schedules a WARM reset (R371). -/
  | lcAdvance (k : Command)
  /-- 10 ms after LC_ADVANCE, a WARM reset applies the new state and wipes (R371). -/
  | lcAdvanceReset
  /-- Raises the rollback floor or refuses the write (R373). -/
  | bootFloorWrite (v : BitVec 32)
  /-- The floor fuses are burnt and BUSY clears (R373). -/
  | fuseBurnDone
  /-- PWR_GOOD rises and a COLD reset runs (R428). -/
  | pwrGoodRise (sa0 : Bool)
  /-- PWR_GOOD falls and the device enters OFF (R439). -/
  | pwrGoodFall
  /-- COLD_RST_N held low starts a COLD reset (R429). -/
  | coldRstN (low : Bool)
  /-- WARM_RST_N held low starts a WARM reset (R430). -/
  | warmRstN (low : Bool)
  /-- CORE_PKGCTL.WARM starts a WARM reset (R430). -/
  | warm
  /-- After the reset ends, the boot flow selects a slot, loads images and starts the monitor (R364). -/
  | bootFlowStart
  /-- TAMPER_N held low wipes the secure part (R309). -/
  | tamperN (low : Bool)
  /-- The secure-part wipe ends and the held accesses proceed (R309). -/
  | wipeDone
  /-- CORE_CLCTL.CRST drains and resets the cores of a cluster, which become HELD (R431). -/
  | clusterReset (n : Fin 16)
  /-- CORE_CLCTL.RST drains and resets one core, which becomes HELD (R431). -/
  | coreReset (c : CoreNo)
  /-- CORE_PRST.GO takes one port DOWN and retrains it (R219). -/
  | portReset (p : PortNo)
  /-- CORE_START.REL releases a HELD core at CORE_START.PC (R432). -/
  | rel (c : CoreNo) (v : Word)
  /-- CORE_PKGCTL.PS1 arms package standby or refuses it (R436). -/
  | ps1
  /-- CORE_PKGCTL.CANCEL disarms PS1 (R436). -/
  | cancel
  /-- The last cluster is off and an armed device enters PS1 (R437). -/
  | ps1Entry
  /-- A wake condition ends PS1 and the device resumes (R438). -/
  | ps1Exit
  /-- Every in-service core is in C6 and the cluster powers off (R435). -/
  | clusterOff (n : Fin 16)
  /-- A wake condition powers a C6 core, restoring its cluster if it is off (R434). -/
  | c6Wake (c : CoreNo)
  /-- Every 100 µs over a limit, FACT falls by one step (R440). -/
  | frequencyDownStep (n : Fin 16) (temp : BitVec 8)
  /-- Every 1 ms within the limits, FACT rises by one step toward FREQ (R440). -/
  | frequencyUpStep (n : Fin 16) (temp : BitVec 8)
  /-- TRST_N low holds the TAP in Test-Logic-Reset (R460). -/
  | trstN (low : Bool)
  /-- Boundary-scan EXTEST; it holds the device in COLD reset (R460). -/
  | extest (d : Nat)
  /-- Returns the 32-bit identity code (R460). -/
  | idcode
  /-- Boundary-scan SAMPLE/PRELOAD (R460). -/
  | samplePreload (d : Nat)
  /-- One-bit bypass register (R460). -/
  | bypass (b : Bool)
  /-- Returns a fresh unlock nonce (R370). -/
  | unlockChal
  /-- Checks an unlock key and signature and opens the TAP (R370). -/
  | unlockResp (key : Nat) (sig : Nat)
  /-- One 64-bit debug memory access (R460). -/
  | dbgMem (wr : Bool) (a : Word) (v : Word)
  /-- One 64-bit debug port access (R460). -/
  | dbgPort (wr : Bool) (a : BitVec 32) (v : Word)
  /-- Debug-halts a core (R460). -/
  | dbgHalt (c : CoreNo)
  /-- Resumes a debug-halted core (R460). -/
  | dbgResume (c : CoreNo)
  /-- Steps a debug-halted core by one instruction (R460). -/
  | dbgStep (c : CoreNo)
  /-- Reads or writes a register of a core that runs no instruction (R460). -/
  | dbgReg (c : CoreNo) (sel : BitVec 12) (wr : Bool) (v : Word)
  /-- The signal from the peer disappears from a running port, for example when the peer resets or the cable
  is pulled, and the port goes DOWN with REASON 0x1 and its flits fail over (R235). -/
  | noSignal (p : PortNo)
  deriving DecidableEq, Repr

end Sys2Proof
end

