-- ==== Sys2Proof/WellFormed.lean ====
section
/-! DEFINITION. Which instructions are well formed (R47, R33, R46, R74): a term whose encoding has a
reserved or forbidden field value raises ILLEGAL_INSTR. The other commands have no ill-formed term. -/

namespace Sys2Proof

/-- A condition code that is not reserved (R33). -/
def condOk (c : BitVec 4) : Bool := !(decide (12 ≤ c.toNat) && decide (c.toNat ≤ 14))

/-- An even register of a pair (R47). -/
def pairOk (d : GReg) : Bool := decide (d.val % 2 = 0)

/-- A floating-point lane size: 16, 32 or 64 bits (R74). -/
def fpLane : Lane → Bool
  | .b => false
  | _ => true

/-- A lane-size field that must be 0b00 (R74). -/
def laneZero : Lane → Bool
  | .b => true
  | _ => false

/-- Whether a command is well formed. -/
def Instr.wellFormed : Instr → Bool
  | .ld16 _ d _ | .st16 _ d _ => pairOk d
  | .bc _ _ cond _ => condOk cond
  | .csel _ _ _ _ _ cond => condOk cond
  | .movi _ _ (.long h _) => decide (h.toNat < 2)
  | .cmpM _ d _ _ => decide (d.val < 8)
  | .fcmp _ z d _ _ => fpLane z && decide (d.val < 8)
  | .vand _ z _ _ _ | .vor _ z _ _ _ | .vxor _ z _ _ _ => laneZero z
  | .fadd _ _ z _ _ _ | .fsub _ _ z _ _ _ | .fmul _ _ z _ _ _ | .fdiv _ _ z _ _ _
  | .fma _ _ z _ _ _ | .fmin _ _ z _ _ _ | .fmax _ _ z _ _ _ | .fsqrt _ _ z _ _
  | .cvtFpSigned _ z _ _ | .cvtSignedFp _ z _ _ | .cvtFpUnsigned _ z _ _ => fpLane z
  | .cvtFpFp _ z src _ _ => fpLane z && fpLane src
  | _ => true

end Sys2Proof
end

