-- ==== Sys2Proof/Decode.lean ====
section
/-! DEFINITION. The words of core instructions: the formats, extension words and opcode map of R45 to
R49, with the FN values of R65 to R92, and the ILLEGAL_INSTR cases of R47. The opcode table gives its rows
no bits, so no word of that table spells a command; what a core fetches is not a row of it. -/

namespace Sys2Proof

/-! Fields of a base word (R45). -/

/-- Bits [lo + n - 1 : lo] of a base word, as a number. -/
def field (w : BitVec 32) (lo n : Nat) : Nat := (w.extractLsb' lo n).toNat

/-- OP and E. -/
def opOf (w : BitVec 32) : Nat := field w 26 6
def extOf (w : BitVec 32) : Bool := w.getLsbD 0

/-- D, A and B, as general registers; a vector register has the same fields. -/
def dOf (w : BitVec 32) : GReg := Fin.ofNat 32 (field w 21 5)
def aOf (w : BitVec 32) : GReg := Fin.ofNat 32 (field w 16 5)
def bOf (w : BitVec 32) : GReg := Fin.ofNat 32 (field w 11 5)

/-- cD of formats C and CI, and cA of format BR. -/
def cOf (w : BitVec 32) : CReg := Fin.ofNat 8 (field w 23 3)

/-- FN of formats RRR and C. -/
def fnOf (w : BitVec 32) : Nat := field w 1 10

/-- The lane size of format V, or a size by its code. -/
def laneOf : Nat → Lane
  | 0 => .b
  | 1 => .h
  | 2 => .w
  | _ => .d

/-- `i`, where what its fields must satisfy holds (R47). -/
def only (ok : Bool) (i : Instr) : Option Instr := if ok then some i else none

/-! Operands with an extension word (R46, R49); `x` is the word that follows. -/

/-- An RI or CI immediate. -/
def immOf (w x : BitVec 32) : Option Imm :=
  if extOf w then if field w 1 15 = 0 then some (.long x) else none
  else some (.short (w.extractLsb' 1 15))

/-- MOVI's immediate: with E = 1, bits [2:1] are H. -/
def movImmOf (w x : BitVec 32) : Option MovImm :=
  if extOf w then if field w 3 13 = 0 then some (.long (w.extractLsb' 1 2) x) else none
  else some (.short (w.extractLsb' 1 15))

/-- The address of format M. -/
def memOf (w x : BitVec 32) : Option MAddr :=
  let e := extOf w
  match field w 14 2 with
  | 0 =>
    if e then if field w 1 13 = 0 then some (.dispX (aOf w) x) else none
    else some (.disp (aOf w) (w.extractLsb' 1 13))
  | 1 =>
    let b := Fin.ofNat 32 (field w 9 5)
    let sc := w.extractLsb' 7 2
    if field w 1 6 ≠ 0 then none
    else if e then some (.indexX (aOf w) b sc x) else some (.index (aOf w) b sc)
  | 2 =>
    if aOf w ≠ 0 then none
    else if e then if field w 1 13 = 0 then some (.pcrelX x) else none
    else some (.pcrel (w.extractLsb' 1 13))
  | _ => none

/-- The address of format LO. -/
def loOf (w x : BitVec 32) : Option LOAddr :=
  if extOf w then if field w 1 10 = 0 then some (.long (bOf w) x) else none
  else some (.short (bOf w) (w.extractLsb' 1 10))

/-- The displacement of format BR. -/
def bDispOf (w x : BitVec 32) : Option BDisp :=
  if extOf w then if field w 1 18 = 0 then some (.long x) else none
  else some (.short (w.extractLsb' 1 18))

/-- The displacement of format J. -/
def jDispOf (w x : BitVec 32) : Option JDisp :=
  if extOf w then if field w 1 25 = 0 then some (.long x) else none
  else some (.short (w.extractLsb' 1 25))

/-- The offset of format P. -/
def pOffOf (w x : BitVec 32) : Option POff :=
  if extOf w then if field w 1 13 = 0 then some (.long x) else none
  else some (.short (w.extractLsb' 1 13))

/-! The groups of opcodes. -/

/-- ALU (R65). -/
def decAlu (c : CoreNo) (w : BitVec 32) : Option Instr :=
  let d := dOf w
  let a := aOf w
  let b := bOf w
  let one (i : Instr) : Option Instr := only (decide (b = 0)) i
  match fnOf w with
  | 0x000 => some (.add c d a b)
  | 0x001 => some (.sub c d a b)
  | 0x002 => some (.and c d a b)
  | 0x003 => some (.or c d a b)
  | 0x004 => some (.xor c d a b)
  | 0x005 => some (.andn c d a b)
  | 0x008 => some (.shl c d a b)
  | 0x009 => some (.shr c d a b)
  | 0x00A => some (.sar c d a b)
  | 0x00B => some (.ror c d a b)
  | 0x010 => some (.mul c d a b)
  | 0x011 => some (.mulh c d a b)
  | 0x012 => some (.mulhu c d a b)
  | 0x014 => some (.div c d a b)
  | 0x015 => some (.divu c d a b)
  | 0x016 => some (.rem c d a b)
  | 0x017 => some (.remu c d a b)
  | 0x018 => some (.min c d a b)
  | 0x019 => some (.max c d a b)
  | 0x01A => some (.minu c d a b)
  | 0x01B => some (.maxu c d a b)
  | 0x030 => one (.clz c d a)
  | 0x031 => one (.ctz c d a)
  | 0x032 => one (.popc c d a)
  | 0x034 => one (.sext c .b d a)
  | 0x035 => one (.sext c .h d a)
  | 0x036 => one (.sext c .w d a)
  | _ => none

/-- SHI (R67): IMM15[7:6] the kind, IMM15[5:0] the amount. -/
def decShi (c : CoreNo) (w : BitVec 32) : Option Instr :=
  let n : BitVec 6 := w.extractLsb' 1 6
  if extOf w ∨ field w 9 7 ≠ 0 then none
  else
    match field w 7 2 with
    | 0 => some (.shi c (dOf w) (aOf w) .shl n)
    | 1 => some (.shi c (dOf w) (aOf w) .shr n)
    | 2 => some (.shi c (dOf w) (aOf w) .sar n)
    | _ => some (.shi c (dOf w) (aOf w) .ror n)

/-- CMP (R68). -/
def decCmp (c : CoreNo) (w : BitVec 32) : Option Instr :=
  if field w 21 2 ≠ 0 then none
  else
    match fnOf w with
    | 0 => some (.cmp c (cOf w) (aOf w) (bOf w))
    | 1 => some (.cmpW c (cOf w) (aOf w) (bOf w))
    | 2 => some (.tst c (cOf w) (aOf w) (bOf w))
    | _ => none

/-- CSEL (R68): FN[9:7] the c register, FN[6:3] COND, FN[2:0] zero. -/
def decCsel (c : CoreNo) (w : BitVec 32) : Option Instr :=
  only (decide (field w 1 3 = 0) && condOk (w.extractLsb' 4 4))
    (.csel c (dOf w) (aOf w) (bOf w) (Fin.ofNat 8 (field w 8 3)) (w.extractLsb' 4 4))

/-- BITS (R68). -/
def decBits (c : CoreNo) (w : BitVec 32) : Option Instr :=
  match fnOf w with
  | 0 => some (.extu c (dOf w) (aOf w) (bOf w))
  | 1 => some (.exts c (dOf w) (aOf w) (bOf w))
  | 2 => some (.ins c (dOf w) (aOf w) (bOf w))
  | 3 => only (decide (bOf w = 0)) (.bswap c (dOf w) (aOf w))
  | _ => none

/-- The loads and stores of format M (R70). -/
def decMem (c : CoreNo) (w : BitVec 32) (m : MAddr) : Option Instr :=
  let d := dOf w
  match opOf w with
  | 0x10 => some (.ldB c d m)
  | 0x11 => some (.ldH c d m)
  | 0x12 => some (.ldW c d m)
  | 0x13 => some (.ldD c d m)
  | 0x14 => some (.ldBs c d m)
  | 0x15 => some (.ldHs c d m)
  | 0x16 => some (.ldWs c d m)
  | 0x17 => only (pairOk d) (.ld16 c d m)
  | 0x18 => some (.stB c d m)
  | 0x19 => some (.stH c d m)
  | 0x1A => some (.stW c d m)
  | 0x1B => some (.stD c d m)
  | 0x1C => only (pairOk d) (.st16 c d m)
  | 0x1D => some (.stnt c d m)
  | 0x1E => some (.lda c d m)
  | 0x1F => some (.stl c d m)
  | _ => none

/-- The load-ops of format LO (R71); CMP.M writes c register D[2:0], and D[4:3] must be zero. -/
def decLo (c : CoreNo) (w : BitVec 32) (m : LOAddr) : Option Instr :=
  let d := dOf w
  let a := aOf w
  match opOf w with
  | 0x20 => some (.addM c d a m)
  | 0x21 => some (.subM c d a m)
  | 0x22 => some (.andM c d a m)
  | 0x23 => some (.orM c d a m)
  | 0x24 => some (.xorM c d a m)
  | 0x25 => only (decide (d.val < 8)) (.cmpM c d a m)
  | 0x26 => some (.mulM c d a m)
  | _ => none

/-- The atomics (R81): FN[1:0] the ordering, FN[9:2] zero. -/
def decAtomic (c : CoreNo) (w : BitVec 32) : Option Instr :=
  let acq := w.getLsbD 1
  let rel := w.getLsbD 2
  if field w 3 8 ≠ 0 then none
  else
    match opOf w with
    | 0x28 => some (.aadd c (dOf w) (aOf w) (bOf w) acq rel)
    | 0x29 => some (.aswp c (dOf w) (aOf w) (bOf w) acq rel)
    | 0x2A => some (.acas c (dOf w) (aOf w) (bOf w) acq rel)
    | _ => none

/-- What a floating-point operation of FN `f` (0x20 to 0x27) is, in its lane or scalar form. -/
def decFp (c : CoreNo) (sc : Bool) (w : BitVec 32) (z : Lane) (f : Nat) : Option Instr :=
  let d := dOf w
  let a := aOf w
  let b := bOf w
  match f with
  | 0x20 => only (fpLane z) (.fadd c sc z d a b)
  | 0x21 => only (fpLane z) (.fsub c sc z d a b)
  | 0x22 => only (fpLane z) (.fmul c sc z d a b)
  | 0x23 => only (fpLane z) (.fdiv c sc z d a b)
  | 0x24 => only (fpLane z && decide (b = 0)) (.fsqrt c sc z d a)
  | 0x25 => only (fpLane z) (.fma c sc z d a b)
  | 0x26 => only (fpLane z) (.fmin c sc z d a b)
  | 0x27 => only (fpLane z) (.fmax c sc z d a b)
  | _ => none

/-- VEC (R74): lane size in bits [10:9], FN in bits [8:1]. -/
def decVec (c : CoreNo) (w : BitVec 32) : Option Instr :=
  let z := laneOf (field w 9 2)
  let d := dOf w
  let a := aOf w
  let b := bOf w
  match field w 1 8 with
  | 0x00 => some (.vadd c z d a b)
  | 0x01 => some (.vsub c z d a b)
  | 0x02 => some (.vmul c z d a b)
  | 0x04 => only (laneZero z) (.vand c z d a b)
  | 0x05 => only (laneZero z) (.vor c z d a b)
  | 0x06 => only (laneZero z) (.vxor c z d a b)
  | 0x08 => some (.vshl c z d a b)
  | 0x09 => some (.vshr c z d a b)
  | 0x0A => some (.vsar c z d a b)
  | 0x0C => some (.vmin c z d a b)
  | 0x0D => some (.vmax c z d a b)
  | 0x0E => some (.vminu c z d a b)
  | 0x0F => some (.vmaxu c z d a b)
  | 0x28 => only (fpLane z && decide (d.val < 8)) (.fcmp c z d a b)
  | 0x40 => only (fpLane z && fpLane (laneOf (b.val % 4))) (.cvtFpFp c z (laneOf (b.val % 4)) d a)
  | 0x41 => only (fpLane z) (.cvtFpSigned c z d a)
  | 0x42 => only (fpLane z) (.cvtSignedFp c z d a)
  | 0x43 => only (fpLane z) (.cvtFpUnsigned c z d a)
  | 0x50 => some (.vext c z d a b)
  | 0x51 => some (.vins c z d a b)
  | 0x52 => some (.vbcast c z d a)
  | 0xE0 => only (laneZero z) (.vldl c .b d a)
  | 0xE1 => only (laneZero z) (.vldl c .h d a)
  | 0xE2 => only (laneZero z) (.vldl c .w d a)
  | 0xE3 => only (laneZero z) (.vldl c .d d a)
  | 0xE8 => only (laneZero z) (.vstl c .b d a)
  | 0xE9 => only (laneZero z) (.vstl c .h d a)
  | 0xEA => only (laneZero z) (.vstl c .w d a)
  | 0xEB => only (laneZero z) (.vstl c .d d a)
  | 0xEF => only (laneZero z) (.vst c d a)
  | f => if f < 0x80 then decFp c false w z f else decFp c true w z (f - 0x80)

/-- SYS (R91): SYSNUM in bits [15:4], FN in bits [3:1]. -/
def decSys (c : CoreNo) (w : BitVec 32) : Option Instr :=
  if aOf w ≠ 0 then none
  else
    match field w 1 3 with
    | 0 => some (.mfs c (dOf w) (w.extractLsb' 4 12))
    | 1 => some (.mts c (dOf w) (w.extractLsb' 4 12))
    | _ => none

/-- BAR (R84). -/
def decBar (c : CoreNo) (w : BitVec 32) : Option Instr :=
  match field w 1 15 with
  | 1 => some (.sync c)
  | 2 => some (.lsync c)
  | 3 => some (.ssync c)
  | 4 => some (.isync c)
  | 5 => some (.fsync c)
  | 6 => some (.drain c)
  | 7 => some (.specbar c)
  | _ => none

/-- MAINT (R85, R86). -/
def decMaint (c : CoreNo) (w : BitVec 32) : Option Instr :=
  let d := dOf w
  let a := aOf w
  let b := bOf w
  let line := decide (d = 0) && decide (b = 0)
  match fnOf w with
  | 0x000 => only line (.cinv c a)
  | 0x001 => only line (.ccln c a)
  | 0x002 => only line (.cfls c a)
  | 0x003 => only line (.icinv c a)
  | 0x010 => only (decide (d = 0)) (.tlbinv c a b)
  | 0x011 => only (decide (d = 0)) (.tlbinvb c a b)
  | 0x012 => only (decide (d = 0)) (.tlbinva c a b)
  | 0x013 => some (.tlblock c d a)
  | 0x014 => some (.tlbunlock c d a)
  | _ => none

/-- PRIV (R92): the fields not named as operands must be zero. -/
def decPriv (c : CoreNo) (w : BitVec 32) : Option Instr :=
  let d0 := decide (dOf w = 0)
  let a0 := decide (aOf w = 0)
  let b0 := decide (bOf w = 0)
  match fnOf w with
  | 0x000 => only (d0 && a0 && b0) (.scall c)
  | 0x001 => only (d0 && a0 && b0) (.hcall c)
  | 0x002 => only (d0 && a0 && b0) (.mcall c)
  | 0x003 => only (d0 && a0 && b0) (.xret c)
  | 0x004 => only (d0 && a0 && b0) (.brk c)
  | 0x008 => only (d0 && a0 && b0) (.wait c)
  | 0x009 => only b0 (.waitt c (dOf w) (aOf w))
  | 0x00C => only (a0 && b0) (.rdtb c (dOf w))
  | 0x010 => only (d0 && b0) (.wrpkr c (aOf w))
  | 0x011 => only (a0 && b0) (.rdpkr c (dOf w))
  | _ => none

/-- The opcodes whose format allows only E = 0 (R45). -/
def shortOp (op : Nat) : Bool :=
  [0x01, 0x09, 0x0C, 0x0D, 0x28, 0x29, 0x2A, 0x2C, 0x2D, 0x2E, 0x2F, 0x33, 0x34, 0x38, 0x3A, 0x3C, 0x3D,
   0x3E].contains op

/-- The instruction of core `c` in base word `w`, followed in memory by `x`; none where the word
raises ILLEGAL_INSTR (R47). The opcode map is that of R48. -/
def decodeYalic (c : CoreNo) (w x : BitVec 32) : Option Instr :=
  let d := dOf w
  let a := aOf w
  let bare := decide (field w 1 25 = 0)
  if shortOp (opOf w) && extOf w then none
  else
    match opOf w with
    | 0x01 => decAlu c w
    | 0x02 => (immOf w x).map (.addi c d a)
    | 0x03 => (immOf w x).map (.andi c d a)
    | 0x04 => (immOf w x).map (.ori c d a)
    | 0x05 => (immOf w x).map (.xori c d a)
    | 0x06 => decShi c w
    | 0x07 =>
      match movImmOf w x with
      | some (.long h v) => only (decide (a = 0) && decide (h.toNat < 2)) (.movi c d (.long h v))
      | some i => only (decide (a = 0)) (.movi c d i)
      | none => none
    | 0x08 => (immOf w x).map (.muli c d a)
    | 0x09 => decCmp c w
    | 0x0A => if field w 21 2 ≠ 0 then none else (immOf w x).map (.cmpi c (cOf w) a)
    | 0x0B => if field w 21 2 ≠ 0 then none else (immOf w x).map (.cmpui c (cOf w) a)
    | 0x0C => decCsel c w
    | 0x0D => decBits c w
    | 0x28 => decAtomic c w
    | 0x29 => decAtomic c w
    | 0x2A => decAtomic c w
    | 0x2C => only bare (.bcpy c)
    | 0x2D => only bare (.bset c)
    | 0x2E => only bare (.bcmp c)
    | 0x2F => only bare (.bscn c)
    | 0x30 =>
      let cond : BitVec 4 := w.extractLsb' 19 4
      if condOk cond then (bDispOf w x).map (.bc c (cOf w) cond) else none
    | 0x31 => (jDispOf w x).map (.jmp c)
    | 0x32 => (jDispOf w x).map (.call c)
    | 0x33 =>
      if d ≠ 0 ∨ bOf w ≠ 0 then none
      else
        match fnOf w with
        | 0 => some (.jmpr c a)
        | 1 => some (.callr c a)
        | _ => none
    | 0x34 => only bare (.ret c)
    | 0x38 => decVec c w
    | 0x39 => (memOf w x).map (.vld c d)
    | 0x3A => decSys c w
    | 0x3B =>
      (pOffOf w x).map (fun o =>
        if w.getLsbD 15 then .pout c d a (w.getLsbD 14) o else .pin c d a (w.getLsbD 14) o)
    | 0x3C => if d ≠ 0 ∨ a ≠ 0 then none else decBar c w
    | 0x3D => decMaint c w
    | 0x3E => decPriv c w
    | op =>
      if 0x10 ≤ op ∧ op < 0x20 then (memOf w x).bind (decMem c w)
      else if 0x20 ≤ op ∧ op < 0x28 then (loOf w x).bind (decLo c w)
      else none

/-- The bytes that an instruction word takes: 4, or 8 with an extension word (R43). -/
def lengthOf (w : BitVec 32) : Nat := if extOf w then 8 else 4

/-- The command that a word of the opcode table spells: none, since no row has bits. -/
def decodeTableWord (_nbits _w : Nat) : Option Instr := none

end Sys2Proof
end

