-- ==== Sys2Proof/Machine/Flags.lean ====
section
/-! DEFINITION. Condition flags (R32), condition codes (R33) and the integer operations of R65 to
R68. A condition register value has Z in bit 0, N in bit 1, B in bit 2 and U in bit 3. -/

namespace Sys2Proof.Machine

/-- The four flags as a number. -/
def mkFlags (z n b u : Bool) : Nat :=
  (if z then 1 else 0) + (if n then 2 else 0) + (if b then 4 else 0) + (if u then 8 else 0)

/-- The flags of an integer compare; U is 0 (R32). -/
def cmpFlags {w : Nat} (a b : BitVec w) : Nat :=
  mkFlags (decide (a = b)) (BitVec.slt a b) (BitVec.ult a b) false

/-- The flags of TST (R68). -/
def tstFlags (a b : Word) : Nat := mkFlags (decide (a &&& b = 0)) ((a &&& b).getLsbD 63) false false

/-- Whether a condition code holds on a condition register value (R33). With U set every ordering
condition is false. -/
def condHolds (cr : Nat) (cond : BitVec 4) : Bool :=
  let z := cr.testBit 0
  let n := cr.testBit 1
  let b := cr.testBit 2
  let u := cr.testBit 3
  match cond.toNat with
  | 0 => z
  | 1 => !z
  | 2 => n && !u
  | 3 => !n && !u
  | 4 => (n || z) && !u
  | 5 => (!n && !z) && !u
  | 6 => b && !u
  | 7 => !b && !u
  | 8 => (b || z) && !u
  | 9 => (!b && !z) && !u
  | 10 => u
  | 11 => !u
  | 15 => true
  | _ => false

/-- High half of the signed product (R65). -/
def mulHi (a b : Word) : Word := BitVec.ofInt 64 (a.toInt * b.toInt / 2 ^ 64)

/-- High half of the unsigned product (R65). -/
def mulHiU (a b : Word) : Word := BitVec.ofNat 64 (a.toNat * b.toNat / 2 ^ 64)

/-- Signed quotient, rounded toward zero; by zero it is 0 (R66). -/
def divS (a b : Word) : Word :=
  if b = 0 then 0 else BitVec.ofInt 64 (Int.tdiv a.toInt b.toInt)

/-- Unsigned quotient; by zero it is 0 (R66). -/
def divU (a b : Word) : Word := BitVec.ofNat 64 (a.toNat / b.toNat)

/-- Signed remainder with the sign of the dividend; by zero it is the dividend (R66). -/
def remS (a b : Word) : Word :=
  if b = 0 then a else BitVec.ofInt 64 (Int.tmod a.toInt b.toInt)

/-- Unsigned remainder; by zero it is the dividend (R66). -/
def remU (a b : Word) : Word := BitVec.ofNat 64 (a.toNat % b.toNat)

/-- Leading zeros of the low `n` bits. -/
def clzBits (a : Word) : Nat → Nat
  | 0 => 0
  | n + 1 => if a.getLsbD n then 0 else clzBits a n + 1

/-- Trailing zeros among the bits from 64 − n up. -/
def ctzBits (a : Word) : Nat → Nat
  | 0 => 0
  | n + 1 => if a.getLsbD (63 - n) then 0 else ctzBits a n + 1

/-- One bits among the low `n`. -/
def popBits (a : Word) : Nat → Nat
  | 0 => 0
  | n + 1 => (if a.getLsbD n then 1 else 0) + popBits a n

/-- The 8 bytes of a word reversed (R68). -/
def bswap (a : Word) : Word :=
  (List.range 8).foldl (fun acc i =>
    acc ||| ((a.extractLsb' (8 * i) 8).setWidth 64 <<< (56 - 8 * i))) 0

/-- Position and width of the bit field that gB names, cut at bit 63 (R68). -/
def fieldOf (b : Word) : Nat × Nat :=
  let lsb := b.toNat % 64
  (lsb, min (b.toNat / 256 % 64 + 1) (64 - lsb))

/-- EXTU (R68). -/
def extU (a b : Word) : Word :=
  let (lsb, w) := fieldOf b
  BitVec.ofNat 64 (a.toNat / 2 ^ lsb % 2 ^ w)

/-- EXTS (R68): the top bit of the cut field is its sign. -/
def extS (a b : Word) : Word :=
  let (lsb, w) := fieldOf b
  BitVec.ofInt 64 (((BitVec.ofNat w (a.toNat / 2 ^ lsb)).toInt))

/-- INS (R68): the field of `d` is replaced by the low bits of `a`. -/
def insField (d a b : Word) : Word :=
  let (lsb, w) := fieldOf b
  let m := BitVec.ofNat 64 ((2 ^ w - 1) * 2 ^ lsb)
  (d &&& ~~~m) ||| ((a <<< lsb) &&& m)

end Sys2Proof.Machine
end

