-- ==== Sys2Proof/Machine/Bits.lean ====
section
/-! DEFINITION. Bit fields, byte order and line helpers (R6, R7). -/

namespace Sys2Proof.Machine

/-- Bytes to a number, little-endian (R7). -/
def leNat : List Byte → Nat
  | [] => 0
  | b :: bs => b.toNat + 256 * leNat bs

/-- The low `n` bytes of a number, little-endian (R7). -/
def natLe (v : Nat) : Nat → List Byte
  | 0 => []
  | n + 1 => BitVec.ofNat 8 v :: natLe (v / 256) n

/-- Bytes to a number, big-endian. -/
def beNat (bs : List Byte) : Nat := leNat bs.reverse

/-- A number as `n` bytes, big-endian. -/
def natBe (v n : Nat) : List Byte := (natLe v n).reverse

/-- Bit `i` of a number. -/
def bit (v i : Nat) : Bool := v.testBit i

/-- A Boolean as 0 or 1. -/
def b2n (b : Bool) : Nat := if b then 1 else 0

/-- A number as a Boolean. -/
def n2b (n : Nat) : Bool := decide (n ≠ 0)

/-- The low `w` bits of a number, sign-extended to an integer. -/
def sextN (w v : Nat) : Int :=
  if bit v (w - 1) then (v % 2 ^ w : Int) - 2 ^ w else (v % 2 ^ w : Int)

/-- An integer as a word, modulo 2^64. -/
def wInt (i : Int) : Word := BitVec.ofInt 64 i

/-- The 64 bytes of a line. -/
def lineBytes (l : Line) : List Byte := natLe l.toNat 64

/-- Bytes as a line, the first byte lowest. -/
def bytesLine (bs : List Byte) : Line := BitVec.ofNat 512 (leNat bs)

/-- The bit mask of the bytes that a byte mask names. -/
def maskBits (mask : BitVec 64) : Nat → Nat
  | 0 => 0
  | n + 1 => maskBits mask n + (if mask.getLsbD n then 255 * 2 ^ (8 * n) else 0)

/-- `old` with the bytes that the mask names taken from `new`. -/
def mergeLine (old new : Line) (mask : BitVec 64) : Line :=
  let m := BitVec.ofNat 512 (maskBits mask 64)
  (old &&& ~~~m) ||| (new &&& m)

/-- `n` bytes of a line from byte offset `o`. -/
def lineSlice (l : Line) (o n : Nat) : Nat := (l.toNat >>> (8 * o)) % 2 ^ (8 * n)

/-- The mask of `n` bytes from byte offset `o` of a line. -/
def maskOf (o n : Nat) : BitVec 64 := BitVec.ofNat 64 ((2 ^ n - 1) * 2 ^ o)

/-- The list `0, 1, …, n-1`. -/
def upto (n : Nat) : List Nat := List.range n

/-- A list without later repeats of an element. -/
def addNew {α : Type} [DecidableEq α] (l : List α) (x : α) : List α :=
  if x ∈ l then l else l ++ [x]

end Sys2Proof.Machine
end

