-- ==== Sys2Proof/Machine/Crypto.lean ====
section
/-! DEFINITION. The published algorithms that the manual names: IEEE 802.3 CRC-32 and the CRC-32C of
RFC 3720 (R291), SHA-256 and SHA-384 (FIPS 180-4), HMAC-SHA-256 (R380) and the verification of ECDSA
P-384 signatures (FIPS 186-4, R355, R370). -/

namespace Sys2Proof.Machine

/-- One byte into a reflected 32-bit CRC, bit by bit. -/
def crcBits (poly : Nat) : Nat → Nat → Nat
  | c, 0 => c
  | c, n + 1 => crcBits poly (if c % 2 = 1 then (c / 2) ^^^ poly else c / 2) n

/-- A reflected CRC with initial value and final exclusive or of all ones. -/
def crcOf (poly : Nat) (bs : List Byte) : Nat :=
  (bs.foldl (fun c b => crcBits poly (c ^^^ b.toNat) 8) 0xFFFFFFFF) ^^^ 0xFFFFFFFF

/-- IEEE 802.3 CRC-32. -/
def crc32 (bs : List Byte) : Nat := crcOf 0xEDB88320 bs

/-- CRC-32C: polynomial 0x1EDC_6F41, reflected (R291). -/
def crc32c (bs : List Byte) : Nat := crcOf 0x82F63B78 bs

/-- The constants of a SHA-2 function: word bits, rounds, the four rotation triples (the last entry
of a small sigma is a shift), the round constants and the initial hash. -/
structure Sha where
  w : Nat
  big0 : Nat × Nat × Nat
  big1 : Nat × Nat × Nat
  sm0 : Nat × Nat × Nat
  sm1 : Nat × Nat × Nat
  k : List Nat
  h : List Nat

/-- Rotation right of a `w`-bit word. -/
def rotr (w x n : Nat) : Nat := ((x >>> n) ||| (x <<< (w - n))) % 2 ^ w

/-- The exclusive or of three rotations. -/
def rot3 (w : Nat) (r : Nat × Nat × Nat) (x : Nat) : Nat :=
  rotr w x r.1 ^^^ rotr w x r.2.1 ^^^ rotr w x r.2.2

/-- The exclusive or of two rotations and a shift. -/
def rot2 (w : Nat) (r : Nat × Nat × Nat) (x : Nat) : Nat :=
  rotr w x r.1 ^^^ rotr w x r.2.1 ^^^ (x >>> r.2.2)

/-- The message schedule, newest word first: `n` more words. -/
def Sha.schedule (p : Sha) : List Nat → Nat → List Nat
  | ws, 0 => ws
  | ws, n + 1 =>
    let x := (rot2 p.w p.sm1 (ws.getD 1 0) + ws.getD 6 0 + rot2 p.w p.sm0 (ws.getD 14 0) +
      ws.getD 15 0) % 2 ^ p.w
    p.schedule (x :: ws) n

/-- One round on the eight working variables. -/
def Sha.round (p : Sha) (v : List Nat) (kw : Nat) : List Nat :=
  let a := v.getD 0 0
  let b := v.getD 1 0
  let c := v.getD 2 0
  let d := v.getD 3 0
  let e := v.getD 4 0
  let f := v.getD 5 0
  let g := v.getD 6 0
  let h := v.getD 7 0
  let ch := (e &&& f) ^^^ ((e ^^^ (2 ^ p.w - 1)) &&& g)
  let maj := (a &&& b) ^^^ (a &&& c) ^^^ (b &&& c)
  let t1 := h + rot3 p.w p.big1 e + ch + kw
  let t2 := rot3 p.w p.big0 a + maj
  [(t1 + t2) % 2 ^ p.w, a, b, c, (d + t1) % 2 ^ p.w, e, f, g]

/-- One block of sixteen words. -/
def Sha.block (p : Sha) (h : List Nat) (ws : List Nat) : List Nat :=
  let sched := (p.schedule ws.reverse (p.k.length - 16)).reverse
  let v := (p.k.zip sched).foldl (fun v x => p.round v (x.1 + x.2)) h
  (h.zip v).map (fun x => (x.1 + x.2) % 2 ^ p.w)

/-- A list in groups of `n`, at most `k` of them. -/
def groupsOf {α : Type} (n : Nat) : Nat → List α → List (List α)
  | 0, _ => []
  | k + 1, l => if l.isEmpty then [] else l.take n :: groupsOf n k (l.drop n)

/-- The padded message (FIPS 180-4 section 5.1). -/
def Sha.pad (p : Sha) (m : List Byte) : List Byte :=
  let blk := 2 * p.w
  let len := p.w / 4
  let z := (blk - (m.length + 1 + len) % blk) % blk
  m ++ [0x80] ++ List.replicate z 0 ++ natBe (8 * m.length) len

/-- The final hash words. -/
def Sha.hash (p : Sha) (m : List Byte) : List Nat :=
  let bs := p.pad m
  let words := (groupsOf (p.w / 8) bs.length bs).map beNat
  (groupsOf 16 words.length words).foldl p.block p.h

/-- The integer `k`-th root of `n` by Newton's iteration downwards from `x`, in at most `f` steps. -/
def iroot (k n : Nat) : Nat → Nat → Nat
  | 0, x => x
  | f + 1, x =>
    let y := ((k - 1) * x + n / x ^ (k - 1)) / k
    if y < x then iroot k n f y else x

/-- The first `w` bits of the fraction of the `k`-th root of a prime below 512. -/
def rootFrac (k w q : Nat) : Nat := iroot k (q * 2 ^ (k * w)) 40 (2 ^ (w + 5)) % 2 ^ w

/-- The first eighty primes. -/
def primes80 : List Nat :=
  (List.range 410).filter (fun q => decide (2 ≤ q) &&
    [2, 3, 5, 7, 11, 13, 17, 19].all (fun d => decide (q = d) || decide (q % d ≠ 0)))

/-- SHA-256: the round constants are fractions of cube roots, the initial hash of square roots, of the
first primes (FIPS 180-4 sections 4.2.2 and 5.3.3). -/
def sha256c : Sha :=
  { w := 32, big0 := (2, 13, 22), big1 := (6, 11, 25), sm0 := (7, 18, 3), sm1 := (17, 19, 10),
    k := (primes80.take 64).map (rootFrac 3 32)
    h := (primes80.take 8).map (rootFrac 2 32) }

/-- SHA-384 without its truncation; its initial hash is of the ninth to sixteenth primes (FIPS 180-4
sections 4.2.3 and 5.3.4). -/
def sha384c : Sha :=
  { w := 64, big0 := (28, 34, 39), big1 := (14, 18, 41), sm0 := (1, 8, 7), sm1 := (19, 61, 6),
    k := primes80.map (rootFrac 3 64)
    h := ((primes80.drop 8).take 8).map (rootFrac 2 64) }

/-- SHA-256 of a message, 32 bytes. -/
def sha256 (m : List Byte) : List Byte := (sha256c.hash m).flatMap (fun x => natBe x 4)

/-- SHA-384 of a message, 48 bytes. -/
def sha384 (m : List Byte) : List Byte := ((sha384c.hash m).take 6).flatMap (fun x => natBe x 8)

/-- HMAC-SHA-256 with a key of at most 64 bytes (RFC 2104). -/
def hmac256 (key m : List Byte) : List Byte :=
  let k := key ++ List.replicate (64 - key.length) 0
  sha256 (k.map (fun b => b ^^^ 0x5C) ++ sha256 (k.map (fun b => b ^^^ 0x36) ++ m))

/-- The field prime of P-384. -/
def p384 : Nat := 2 ^ 384 - 2 ^ 128 - 2 ^ 96 + 2 ^ 32 - 1

/-- The order of P-384. -/
def n384 : Nat :=
  0xffffffffffffffffffffffffffffffffffffffffffffffffc7634d81f4372ddf581a0db248b0a77aecec196accc52973

/-- The coefficient b of P-384. -/
def b384 : Nat :=
  0xb3312fa7e23ee7e4988e056be3f82d19181d9c6efe8141120314088f5013875ac656398d8a2ed19d2a85c8edd3ec2aef

/-- The base point of P-384. -/
def gx384 : Nat :=
  0xaa87ca22be8b05378eb1c71ef320ad746e1d3b628ba79b9859f741e082542a385502f25dbf55296c3a545e3872760ab7
def gy384 : Nat :=
  0x3617de4a96262c6f5d9e98bf9292dc29f8f41dbd289a147ce9da3113b5f0b8c00a60b1ce1d7e819d7a431d7c90ea0e5f

/-- x^e modulo m by `n` bits of e. -/
def powMod (m x e : Nat) : Nat → Nat
  | 0 => 1
  | n + 1 =>
    let r := powMod m (x * x % m) (e / 2) n
    if e % 2 = 1 then r * x % m else r

/-- The inverse modulo a prime of at most 384 bits. -/
def invMod (m x : Nat) : Nat := powMod m (x % m) (m - 2) 384

/-- The difference modulo the field prime. -/
def subP (a b : Nat) : Nat := (a + p384 - b % p384) % p384

/-- A point of the curve in Jacobian coordinates: X / Z² and Y / Z³; Z = 0 is the point at
infinity. -/
structure EcPoint where
  x : Nat
  y : Nat
  z : Nat
  deriving DecidableEq, Repr

/-- Twice a point (a = −3). -/
def ecDouble (p : EcPoint) : EcPoint :=
  let d := p.z * p.z % p384
  let g := p.y * p.y % p384
  let b := p.x * g % p384
  let a := 3 * (subP p.x d * ((p.x + d) % p384)) % p384
  let x := subP (a * a) (8 * b)
  ⟨x, subP (a * subP (4 * b) x) (8 * (g * g)), 2 * (p.y * p.z) % p384⟩

/-- The sum of two points. -/
def ecAdd (p q : EcPoint) : EcPoint :=
  if p.z = 0 then q
  else if q.z = 0 then p
  else
    let e := p.z * p.z % p384
    let f := q.z * q.z % p384
    let u := p.x * f % p384
    let h := subP (q.x * e % p384) u
    let s := p.y * (f * q.z % p384) % p384
    let r := subP (q.y * (e * p.z % p384) % p384) s
    if h = 0 then (if r = 0 then ecDouble p else ⟨0, 1, 0⟩)
    else
      let h2 := h * h % p384
      let h3 := h2 * h % p384
      let v := u * h2 % p384
      let x := subP (subP (r * r) h3) (2 * v)
      ⟨x, subP (r * subP v x) (s * h3), h * (p.z * q.z % p384) % p384⟩

/-- A multiple of a point by the low `n` bits of k. -/
def ecMul (k : Nat) (p : EcPoint) : Nat → EcPoint
  | 0 => ⟨0, 1, 0⟩
  | n + 1 =>
    let r := ecMul (k / 2) (ecDouble p) n
    if k % 2 = 1 then ecAdd r p else r

/-- Whether a signature r then s, 48 bytes each, on a SHA-384 digest verifies with an uncompressed
SEC1 point. -/
def ecdsaOk (pub digest sig : List Byte) : Bool :=
  let x := beNat ((pub.drop 1).take 48)
  let y := beNat ((pub.drop 49).take 48)
  let r := beNat (sig.take 48)
  let s := beNat ((sig.drop 48).take 48)
  let curve := decide (x < p384) && decide (y < p384) &&
    decide (y * y % p384 = subP (x * x * x + b384) (3 * x))
  if pub.length = 97 ∧ sig.length = 96 ∧ pub.head? = some 4 ∧ curve ∧ 0 < r ∧ r < n384 ∧ 0 < s ∧
      s < n384 then
    let w := invMod n384 s
    let e := beNat digest
    let q := ecAdd (ecMul (e * w % n384) ⟨gx384, gy384, 1⟩ 384) (ecMul (r * w % n384) ⟨x, y, 1⟩ 384)
    -- the affine x-coordinate of the sum, modulo the order, is r
    decide (q.z ≠ 0) && decide (q.x * invMod p384 (q.z * q.z) % p384 % n384 = r)
  else false

end Sys2Proof.Machine
end

