-- ==== Sys2Proof/Config.lean ====
section
/-! DEFINITION. What an implementation fixes and the free values: constants with no body, so that
no proof can see what they are. Each is named in a row of the assumption log. -/

namespace Sys2Proof

/-- The n-th free value: a step that needs a value the spec leaves open reads the counter
`State.free`, applies this constant to it, and advances the counter. -/
opaque Config.freeValue (n : Nat) : Nat

/-- The payload and sign of a NaN result, by the operands: IEEE 754 leaves them open (R34). -/
opaque Config.nanPayload (width a b c : Nat) : Nat
/-- The result of FMIN and FMAX with a NaN operand, which the spec does not state (R74). -/
opaque Config.minMaxNan (width a b : Nat) : Nat
/-- Which zero FMIN and FMAX return for operands +0 and −0, which the spec does not state (R74). -/
opaque Config.minMaxZero (width a b : Nat) : Bool
/-- Whether tininess is found after rounding, which IEEE 754 leaves to the implementation (R34). -/
opaque Config.tinyAfter : Bool
/-- Whether a flush of a subnormal result by FZ raises underflow, inexact, both or neither; the
spec does not state it. Bits [4:3] are used, in the order of FPCS.FLG. -/
opaque Config.flushFlags : Nat
/-- Whether a flush of a subnormal operand by FZ raises flags, which the spec does not state. -/
opaque Config.flushInFlags : Nat
/-- Whether 0 × infinity + quiet NaN raises invalid, which IEEE 754 leaves open. -/
opaque Config.fmaInvalid : Bool

/-- Granule 0 of a CTRL flit that carries a link-control word of this kind for this position: the spec
does not give its bits (R222). -/
opaque Config.ctrlWord (kind pos : Nat) : BitVec 128

end Sys2Proof
end

