-- ==== Sys2Proof/Machine/Registers.lean ====
section
/-! DEFINITION. The registers of the device: one constructor per register table of the manual
(R8), with the register's place (system register number of R40, core-local port, or device port of
R24), its width, and every field's bits, access code (R9) and reset values (R12). The text was made
from the manual's own register tables. A register of n units is one constructor with an index. -/

namespace Sys2Proof.Machine

/-- Access codes of R9. -/
inductive Acc where
  | rw | ro | wo | w1c | w1s | rc | rsvd
  deriving DecidableEq, Repr

/-- A Cold or Warm entry of R12. -/
inductive Init where
  | val (n : Nat)
  | keep
  | fuse
  | undef
  deriving DecidableEq, Repr

/-- One row of a register table: bits, access, reset values, and whether the Meaning says PL3 only. -/
structure Fld where
  hi : Nat
  lo : Nat
  acc : Acc
  cold : Init
  warm : Init
  pl3 : Bool
  deriving DecidableEq, Repr

/-- Where a register is reached: a system register number (with the number of registers of the
series), a core-local port, or a device port with its strides and counts, outermost first. -/
inductive Place where
  | sys (num count : Nat)
  | localPort (base : Nat) (dims : List (Nat × Nat))
  | port (base : Nat) (dims : List (Nat × Nat))
  deriving DecidableEq, Repr

/-- Every register of the manual. -/
inductive Reg where
  /-- CREG, register of all condition registers (02_yalic_programming_model.md). -/
  | creg
  /-- FPCS, floating-point control and status (02_yalic_programming_model.md). -/
  | fpcs
  /-- PSTATE, processor state (02_yalic_programming_model.md). -/
  | pstate
  /-- HRSCTL, return-stack control (02_yalic_programming_model.md). -/
  | hrsctl
  /-- HRSENT, return-stack entry access (02_yalic_programming_model.md). -/
  | hrsent
  /-- PPBASE, port permission bitmap base (02_yalic_programming_model.md). -/
  | ppbase
  /-- CORE_ID, identity of the issuing core (02_yalic_programming_model.md). -/
  | coreId
  /-- CORE_PREDCTL, prediction and speculation control (04_core_pipeline_and_speculation.md). -/
  | corePredctl
  /-- VDTB, vector descriptor table base (05_exceptions_and_privilege.md). -/
  | vdtb
  /-- CORE_MDTB, monitor descriptor table base (05_exceptions_and_privilege.md). -/
  | coreMdtb
  /-- EPC, exception program counter (05_exceptions_and_privilege.md). -/
  | epc
  /-- EADDR, exception address (05_exceptions_and_privilege.md). -/
  | eaddr
  /-- ECAUSE, exception cause (05_exceptions_and_privilege.md). -/
  | ecause
  /-- STK, entry stack pointers (05_exceptions_and_privilege.md). -/
  | stk
  /-- SLIM, stack limits (05_exceptions_and_privilege.md). -/
  | slim
  /-- CORE_IPEND, pending interrupts (05_exceptions_and_privilege.md). -/
  | coreIpend
  /-- CORE_IPI, inter-core interrupt (05_exceptions_and_privilege.md). -/
  | coreIpi
  /-- ASID, address-space identifier (06_address_translation.md). -/
  | asid
  /-- VMID, virtual-machine identifier (06_address_translation.md). -/
  | vmid
  /-- FTB, frame-table base (06_address_translation.md). -/
  | ftb
  /-- FTMASK, frame-table geometry (06_address_translation.md). -/
  | ftmask
  /-- PKR, protection-key rights (06_address_translation.md). -/
  | pkr
  /-- FLT_RCL_RING, list of lines lost by reclaim (08_coherence_and_directories.md). -/
  | fltRclRing
  /-- FLT_RCL_IDX, list indices (08_coherence_and_directories.md). -/
  | fltRclIdx
  /-- FLT_RCL_STAT, reclaim status (08_coherence_and_directories.md). -/
  | fltRclStat
  /-- FLT_RCL_INT, reclaim interrupt (08_coherence_and_directories.md). -/
  | fltRclInt
  /-- FAB_GCFG, lane-group configuration (09_vetos_links_and_ports.md). -/
  | fabGcfg
  /-- FAB_GSTAT, lane-group sparing status (09_vetos_links_and_ports.md). -/
  | fabGstat
  /-- NODE_SELF, node identity (09_vetos_links_and_ports.md). -/
  | nodeSelf
  /-- NODE_ENT, node-table entry (09_vetos_links_and_ports.md). -/
  | nodeEnt
  /-- NODE_LCTL, liveness timing (09_vetos_links_and_ports.md). -/
  | nodeLctl
  /-- FAB_PSTAT, port state (09_vetos_links_and_ports.md). -/
  | fabPstat
  /-- FAB_PERR, link error counts (09_vetos_links_and_ports.md). -/
  | fabPerr
  /-- TIDE_FLOWA, tide flow entry (10_tide_class_and_routing.md). -/
  | tideFlowa
  /-- TIDE_FLOWB, tide flow entry (10_tide_class_and_routing.md). -/
  | tideFlowb
  /-- TIDE_PRES, tide reservation of a port (10_tide_class_and_routing.md). -/
  | tidePres
  /-- NODE_RBSTAT, route rebuild status (10_tide_class_and_routing.md). -/
  | nodeRbstat
  /-- NODE_SHSEL, shadow view select (10_tide_class_and_routing.md). -/
  | nodeShsel
  /-- NODE_SHENT, shadow node-table entry (10_tide_class_and_routing.md). -/
  | nodeShent
  /-- REACH_A, reach region (11_reaches_windows_and_vports.md). -/
  | reachA
  /-- REACH_B, reach target (11_reaches_windows_and_vports.md). -/
  | reachB
  /-- REACH_C, reach attributes (11_reaches_windows_and_vports.md). -/
  | reachC
  /-- WIN_A, window entry word A (11_reaches_windows_and_vports.md). -/
  | winA
  /-- WIN_B, window entry word B (11_reaches_windows_and_vports.md). -/
  | winB
  /-- WIN_STG0, window staging word A (11_reaches_windows_and_vports.md). -/
  | winStg0
  /-- WIN_STG1, window staging word B (11_reaches_windows_and_vports.md). -/
  | winStg1
  /-- WIN_CMD, window command (11_reaches_windows_and_vports.md). -/
  | winCmd
  /-- WIN_MQ, window-miss queue head (11_reaches_windows_and_vports.md). -/
  | winMq
  /-- WIN_MINT, window-miss interrupt (11_reaches_windows_and_vports.md). -/
  | winMint
  /-- VP_ARG, vport command argument (11_reaches_windows_and_vports.md). -/
  | vpArg
  /-- VP_CMD, vport command (11_reaches_windows_and_vports.md). -/
  | vpCmd
  /-- VP_STAT, vport status (11_reaches_windows_and_vports.md). -/
  | vpStat
  /-- VP_INT, vport interrupts (11_reaches_windows_and_vports.md). -/
  | vpInt
  /-- VP_MDB, manager doorbell (11_reaches_windows_and_vports.md). -/
  | vpMdb
  /-- VT_DB, tenant doorbell (11_reaches_windows_and_vports.md). -/
  | vtDb
  /-- MEMQ_MODE, memory protection mode (12_main_memory_and_scratchpad.md). -/
  | memqMode
  /-- MEMQ_SCRUB, patrol scrub (12_main_memory_and_scratchpad.md). -/
  | memqScrub
  /-- MEMQ_CERR, channel error counts (12_main_memory_and_scratchpad.md). -/
  | memqCerr
  /-- MEMQ_STAT, quadrant repair status (12_main_memory_and_scratchpad.md). -/
  | memqStat
  /-- SPD_POLICY, secure-region policy (12_main_memory_and_scratchpad.md). -/
  | spdPolicy
  /-- SPD_STAT, scratchpad status (12_main_memory_and_scratchpad.md). -/
  | spdStat
  /-- CMT_CTL, channel control (13_comet_engines.md). -/
  | cmtCtl
  /-- CMT_CFG, channel configuration (13_comet_engines.md). -/
  | cmtCfg
  /-- CMT_PROG, program address (13_comet_engines.md). -/
  | cmtProg
  /-- CMT_STAT, channel status (13_comet_engines.md). -/
  | cmtStat
  /-- CMT_FADDR, failing address (13_comet_engines.md). -/
  | cmtFaddr
  /-- CMT_INT, channel interrupt (13_comet_engines.md). -/
  | cmtInt
  /-- CMT_X, address bases (13_comet_engines.md). -/
  | cmtX
  /-- CMT_FTB, engine frame-table base (06_address_translation.md). -/
  | cmtFtb
  /-- CMT_FTMASK, engine frame-table geometry (06_address_translation.md). -/
  | cmtFtmask
  /-- FLT_FATAL, cause of the latest fatal error (14_fault_containment_and_live_repair.md). -/
  | fltFatal
  /-- FLT_CLSPARE, cluster spare status (14_fault_containment_and_live_repair.md). -/
  | fltClspare
  /-- FLT_SLSTAT, spare-slice status (14_fault_containment_and_live_repair.md). -/
  | fltSlstat
  /-- FLT_MOON, moon-core status (14_fault_containment_and_live_repair.md). -/
  | fltMoon
  /-- FLT_LOG_RING, event-log ring (14_fault_containment_and_live_repair.md). -/
  | fltLogRing
  /-- FLT_LOG_IDX, event-log indices (14_fault_containment_and_live_repair.md). -/
  | fltLogIdx
  /-- FLT_LOG_CTL, event-log control (14_fault_containment_and_live_repair.md). -/
  | fltLogCtl
  /-- LC_STATE, life-cycle and debug state (15_secure_boot_and_life_cycle.md). -/
  | lcState
  /-- BOOT_STAT, boot outcome (15_secure_boot_and_life_cycle.md). -/
  | bootStat
  /-- BOOT_FLOOR, rollback floor (15_secure_boot_and_life_cycle.md). -/
  | bootFloor
  /-- SVC_KEY, rack-key control (16_composition_commands.md). -/
  | svcKey
  /-- SVC_KEYW, rack-key word (16_composition_commands.md). -/
  | svcKeyw
  /-- SVC_REQ, request ring (16_composition_commands.md). -/
  | svcReq
  /-- SVC_RSP, reply ring (16_composition_commands.md). -/
  | svcRsp
  /-- SVC_REQIDX, request indices (16_composition_commands.md). -/
  | svcReqidx
  /-- SVC_RSPIDX, reply indices (16_composition_commands.md). -/
  | svcRspidx
  /-- SVC_INT, reply interrupt (16_composition_commands.md). -/
  | svcInt
  /-- SVC_CSTAT, command statistics (16_composition_commands.md). -/
  | svcCstat
  /-- TB_VAL, current timebase (17_timebase_and_timers.md). -/
  | tbVal
  /-- TB_CMP, core timer compare (17_timebase_and_timers.md). -/
  | tbCmp
  /-- TB_SYNC, timebase discipline (17_timebase_and_timers.md). -/
  | tbSync
  /-- TB_PDLY, port delay (17_timebase_and_timers.md). -/
  | tbPdly
  /-- PEG_BASE, generator period base (17_timebase_and_timers.md). -/
  | pegBase
  /-- PEG_CTL, stagger command (17_timebase_and_timers.md). -/
  | pegCtl
  /-- PEG_CFG, generator configuration (17_timebase_and_timers.md). -/
  | pegCfg
  /-- CAP_CFG, capture configuration (17_timebase_and_timers.md). -/
  | capCfg
  /-- CAP_HEAD, capture queue head (17_timebase_and_timers.md). -/
  | capHead
  /-- CAP_INT, capture interrupt (17_timebase_and_timers.md). -/
  | capInt
  /-- TOUT_CFG, TIME_OUT pin configuration (17_timebase_and_timers.md). -/
  | toutCfg
  /-- PMC_CYC, cycle counter (18_performance_monitoring.md). -/
  | pmcCyc
  /-- PMC, programmable counters (18_performance_monitoring.md). -/
  | pmc
  /-- PMSEL, counter selection (18_performance_monitoring.md). -/
  | pmsel
  /-- PSBBASE, sampling-buffer base (18_performance_monitoring.md). -/
  | psbbase
  /-- PMC_DUMP, counter dump control (18_performance_monitoring.md). -/
  | pmcDump
  /-- MON_SEL, monitor selection (18_performance_monitoring.md). -/
  | monSel
  /-- MON_CNT, monitor count (18_performance_monitoring.md). -/
  | monCnt
  /-- CORE_CLCTL, cluster control (19_resets_and_power_states.md). -/
  | coreClctl
  /-- CORE_CLSTAT, cluster status (19_resets_and_power_states.md). -/
  | coreClstat
  /-- CORE_START, core start address (19_resets_and_power_states.md). -/
  | coreStart
  /-- CORE_PRST, port reset (19_resets_and_power_states.md). -/
  | corePrst
  /-- CORE_PKGCTL, package control (19_resets_and_power_states.md). -/
  | corePkgctl
  /-- CAL_GSTAT, lane-group calibration status (20_analogue_shell_and_calibration.md). -/
  | calGstat
  /-- CAL_MSTAT, channel calibration status (20_analogue_shell_and_calibration.md). -/
  | calMstat
  /-- CAL_REC, user record status (20_analogue_shell_and_calibration.md). -/
  | calRec
  deriving DecidableEq, Repr

/-- Where each register lies. -/
def Reg.place : Reg → Place
  | .creg => .sys 0x1e 1
  | .fpcs => .sys 0x1c 1
  | .pstate => .sys 0x0 1
  | .hrsctl => .sys 0x18 1
  | .hrsent => .sys 0x19 1
  | .ppbase => .sys 0x1d 1
  | .coreId => .localPort 0x0 []
  | .corePredctl => .localPort 0x10 []
  | .vdtb => .sys 0x4 1
  | .coreMdtb => .localPort 0x20 []
  | .epc => .sys 0x1 1
  | .eaddr => .sys 0x3 1
  | .ecause => .sys 0x2 1
  | .stk => .sys 0x8 4
  | .slim => .sys 0xc 4
  | .coreIpend => .localPort 0x40 [(0x4, 6)]
  | .coreIpi => .localPort 0x60 []
  | .asid => .sys 0x10 1
  | .vmid => .sys 0x11 1
  | .ftb => .sys 0x12 1
  | .ftmask => .sys 0x13 1
  | .pkr => .sys 0x14 1
  | .fltRclRing => .port 0x900800 []
  | .fltRclIdx => .port 0x900808 []
  | .fltRclStat => .port 0x900810 []
  | .fltRclInt => .port 0x900818 []
  | .fabGcfg => .port 0x200000 [(0x1000, 32)]
  | .fabGstat => .port 0x200008 [(0x1000, 32)]
  | .nodeSelf => .port 0x4f0000 []
  | .nodeEnt => .port 0x400000 [(0x8, 65536)]
  | .nodeLctl => .port 0x4f0008 []
  | .fabPstat => .port 0x200100 [(0x1000, 32), (0x40, 16)]
  | .fabPerr => .port 0x200108 [(0x1000, 32), (0x40, 16)]
  | .tideFlowa => .port 0x4c0000 [(0x10, 4096)]
  | .tideFlowb => .port 0x4c0008 [(0x10, 4096)]
  | .tidePres => .port 0x4d0000 [(0x8, 512)]
  | .nodeRbstat => .port 0x4f0010 []
  | .nodeShsel => .port 0x4f0020 []
  | .nodeShent => .port 0x4f0028 []
  | .reachA => .port 0x500000 [(0x20, 4096)]
  | .reachB => .port 0x500008 [(0x20, 4096)]
  | .reachC => .port 0x500010 [(0x20, 4096)]
  | .winA => .port 0x580000 [(0x10, 32768)]
  | .winB => .port 0x580008 [(0x10, 32768)]
  | .winStg0 => .port 0x520020 []
  | .winStg1 => .port 0x520028 []
  | .winCmd => .port 0x520000 []
  | .winMq => .port 0x520008 []
  | .winMint => .port 0x520010 []
  | .vpArg => .port 0x520100 []
  | .vpCmd => .port 0x520108 []
  | .vpStat => .port 0x540000 [(0x40, 4096)]
  | .vpInt => .port 0x540008 [(0x40, 4096)]
  | .vpMdb => .port 0x540010 [(0x40, 4096)]
  | .vtDb => .port 0x521000 [(0x10, 16)]
  | .memqMode => .port 0x1f0000 []
  | .memqScrub => .port 0x100008 [(0x10000, 4)]
  | .memqCerr => .port 0x100100 [(0x10000, 4), (0x8, 16)]
  | .memqStat => .port 0x100000 [(0x10000, 4)]
  | .spdPolicy => .port 0xa00000 []
  | .spdStat => .port 0xa00008 []
  | .cmtCtl => .port 0x600000 [(0x200, 1024)]
  | .cmtCfg => .port 0x600008 [(0x200, 1024)]
  | .cmtProg => .port 0x600010 [(0x200, 1024)]
  | .cmtStat => .port 0x600018 [(0x200, 1024)]
  | .cmtFaddr => .port 0x600020 [(0x200, 1024)]
  | .cmtInt => .port 0x600028 [(0x200, 1024)]
  | .cmtX => .port 0x600030 [(0x200, 1024), (0x8, 2)]
  | .cmtFtb => .port 0x680000 []
  | .cmtFtmask => .port 0x680008 []
  | .fltFatal => .port 0x900400 []
  | .fltClspare => .port 0x900100 [(0x8, 16)]
  | .fltSlstat => .port 0x900200 []
  | .fltMoon => .port 0x900300 []
  | .fltLogRing => .port 0x900000 []
  | .fltLogIdx => .port 0x900008 []
  | .fltLogCtl => .port 0x900010 []
  | .lcState => .port 0xb00000 []
  | .bootStat => .port 0xb00008 []
  | .bootFloor => .port 0xb00010 []
  | .svcKey => .port 0xc00030 []
  | .svcKeyw => .port 0xc00038 []
  | .svcReq => .port 0xc00000 []
  | .svcRsp => .port 0xc00010 []
  | .svcReqidx => .port 0xc00008 []
  | .svcRspidx => .port 0xc00018 []
  | .svcInt => .port 0xc00020 []
  | .svcCstat => .port 0xc00028 []
  | .tbVal => .port 0x700000 []
  | .tbCmp => .sys 0x20 1
  | .tbSync => .port 0x700010 []
  | .tbPdly => .port 0x704000 [(0x8, 512)]
  | .pegBase => .port 0x701000 []
  | .pegCtl => .port 0x701008 []
  | .pegCfg => .port 0x701100 [(0x8, 16)]
  | .capCfg => .port 0x702000 [(0x20, 16)]
  | .capHead => .port 0x702008 [(0x20, 16)]
  | .capInt => .port 0x702018 [(0x20, 16)]
  | .toutCfg => .port 0x701800 [(0x4, 4)]
  | .pmcCyc => .sys 0x30 1
  | .pmc => .sys 0x38 8
  | .pmsel => .sys 0x40 8
  | .psbbase => .sys 0x31 1
  | .pmcDump => .port 0x880000 [(0x8, 128)]
  | .monSel => .port 0x800000 [(0x1000, 64)]
  | .monCnt => .port 0x800008 [(0x1000, 64)]
  | .coreClctl => .port 0x10000 [(0x1000, 16)]
  | .coreClstat => .port 0x10008 [(0x1000, 16)]
  | .coreStart => .port 0x10100 [(0x1000, 16), (0x8, 8)]
  | .corePrst => .port 0x10f08 []
  | .corePkgctl => .port 0x10f00 []
  | .calGstat => .port 0x200010 [(0x1000, 32)]
  | .calMstat => .port 0x100200 [(0x10000, 4), (0x8, 17)]
  | .calRec => .port 0xb00020 []

/-- The width of each register in bits. -/
def Reg.width : Reg → Nat
  | .coreId | .corePredctl | .coreIpend | .coreIpi | .fltRclInt | .fabGstat | .nodeSelf | .nodeLctl | .nodeShsel | .winMint | .vpInt | .vpMdb | .vtDb | .memqMode | .spdPolicy | .cmtCtl | .cmtInt | .lcState | .bootFloor | .svcInt | .pegBase | .pegCtl | .capCfg | .capInt | .toutCfg | .corePrst => 32
  | _ => 64

/-- The fields of each register, from its highest bit down. RSVD rows are left out: a bit in no
field reads zero and ignores writes (R9). -/
def Reg.fields : Reg → List Fld
  | .creg => [⟨31, 0, .rw, .undef, .undef, false⟩]
  | .fpcs => [⟨12, 12, .rw, (.val 0), (.val 0), false⟩,
      ⟨11, 10, .rw, (.val 0), (.val 0), false⟩,
      ⟨9, 5, .rw, (.val 0), (.val 0), false⟩,
      ⟨4, 0, .rw, (.val 0), (.val 0), false⟩]
  | .pstate => [⟨9, 9, .rw, (.val 0), (.val 0), false⟩,
      ⟨8, 8, .rw, (.val 0), (.val 0), false⟩,
      ⟨7, 4, .rw, (.val 15), (.val 15), false⟩,
      ⟨1, 0, .ro, (.val 3), (.val 3), false⟩]
  | .hrsctl => [⟨29, 24, .wo, (.val 0), (.val 0), false⟩,
      ⟨20, 16, .rw, (.val 0), (.val 0), false⟩,
      ⟨13, 8, .rw, (.val 0), (.val 0), false⟩,
      ⟨3, 3, .rw, (.val 0), (.val 0), false⟩,
      ⟨2, 2, .rw, (.val 0), (.val 0), false⟩,
      ⟨1, 1, .rw, (.val 0), (.val 0), false⟩,
      ⟨0, 0, .rw, (.val 0), (.val 0), false⟩]
  | .hrsent => [⟨63, 0, .rw, .undef, .undef, false⟩]
  | .ppbase => [⟨51, 10, .rw, .undef, .undef, false⟩,
      ⟨1, 1, .rw, (.val 0), (.val 0), false⟩,
      ⟨0, 0, .rw, (.val 0), (.val 0), false⟩]
  | .coreId => [⟨22, 16, .ro, .fuse, .keep, false⟩,
      ⟨6, 3, .ro, .fuse, .keep, false⟩,
      ⟨2, 0, .ro, .fuse, .keep, false⟩]
  | .corePredctl => [⟨7, 7, .rw, (.val 0), (.val 0), false⟩,
      ⟨6, 6, .rw, (.val 0), (.val 0), false⟩,
      ⟨5, 5, .rw, (.val 0), (.val 0), false⟩,
      ⟨4, 4, .rw, (.val 0), (.val 0), false⟩,
      ⟨0, 0, .wo, (.val 0), (.val 0), false⟩]
  | .vdtb => [⟨51, 13, .rw, .undef, .undef, false⟩]
  | .coreMdtb => [⟨51, 13, .rw, .undef, .undef, true⟩,
      ⟨0, 0, .rw, (.val 0), (.val 0), true⟩]
  | .epc => [⟨63, 0, .rw, .undef, .undef, false⟩]
  | .eaddr => [⟨63, 0, .rw, .undef, .undef, false⟩]
  | .ecause => [⟨31, 31, .rw, (.val 0), (.val 0), false⟩,
      ⟨30, 30, .rw, (.val 0), (.val 0), false⟩,
      ⟨29, 29, .rw, (.val 0), (.val 0), false⟩,
      ⟨28, 28, .rw, (.val 0), (.val 0), false⟩,
      ⟨25, 24, .rw, (.val 0), (.val 0), false⟩,
      ⟨23, 16, .rw, (.val 0), (.val 0), false⟩,
      ⟨15, 8, .rw, (.val 0), (.val 0), false⟩,
      ⟨7, 0, .rw, (.val 0), (.val 0), false⟩]
  | .stk => [⟨63, 0, .rw, .undef, .undef, false⟩]
  | .slim => [⟨63, 0, .rw, (.val 0), (.val 0), false⟩]
  | .coreIpend => [⟨31, 0, .w1c, (.val 0), (.val 0), false⟩]
  | .coreIpi => [⟨23, 23, .wo, (.val 0), (.val 0), false⟩,
      ⟨22, 16, .wo, (.val 0), (.val 0), false⟩,
      ⟨7, 0, .wo, (.val 0), (.val 0), false⟩]
  | .asid => [⟨15, 0, .rw, (.val 0), (.val 0), false⟩]
  | .vmid => [⟨15, 0, .rw, (.val 0), (.val 0), false⟩]
  | .ftb => [⟨51, 7, .rw, .undef, .undef, false⟩]
  | .ftmask => [⟨32, 32, .rw, (.val 0), (.val 0), false⟩,
      ⟨31, 28, .rw, (.val 0), (.val 0), false⟩,
      ⟨27, 0, .rw, .undef, .undef, false⟩]
  | .pkr => [⟨31, 0, .rw, (.val 0), (.val 0), false⟩]
  | .fltRclRing => [⟨51, 12, .rw, .undef, .undef, false⟩,
      ⟨4, 1, .rw, (.val 0), (.val 0), false⟩,
      ⟨0, 0, .rw, (.val 0), (.val 0), false⟩]
  | .fltRclIdx => [⟨63, 32, .rw, (.val 0), (.val 0), false⟩,
      ⟨31, 0, .ro, (.val 0), (.val 0), false⟩]
  | .fltRclStat => [⟨63, 32, .ro, (.val 0), (.val 0), false⟩,
      ⟨31, 16, .ro, (.val 0), (.val 0), false⟩,
      ⟨3, 3, .w1c, (.val 0), (.val 0), false⟩,
      ⟨2, 2, .w1c, (.val 0), (.val 0), false⟩,
      ⟨1, 1, .ro, (.val 0), (.val 0), false⟩]
  | .fltRclInt => [⟨22, 16, .rw, (.val 0), (.val 0), false⟩,
      ⟨7, 0, .rw, (.val 0), (.val 0), false⟩]
  | .fabGcfg => [⟨49, 49, .ro, (.val 0), .keep, false⟩,
      ⟨48, 48, .ro, (.val 0), .keep, false⟩,
      ⟨47, 0, .ro, (.val 0), .keep, false⟩]
  | .fabGstat => [⟨31, 16, .ro, (.val 0), .keep, false⟩,
      ⟨15, 12, .ro, (.val 0), .keep, false⟩,
      ⟨11, 8, .ro, (.val 0), (.val 0), false⟩,
      ⟨5, 4, .ro, (.val 0), .keep, false⟩]
  | .nodeSelf => [⟨31, 24, .ro, (.val 0), .keep, false⟩,
      ⟨15, 0, .ro, (.val 65535), (.val 65535), false⟩]
  | .nodeEnt => [⟨47, 40, .ro, (.val 0), (.val 0), false⟩,
      ⟨37, 36, .ro, (.val 0), (.val 0), false⟩,
      ⟨19, 19, .ro, (.val 0), (.val 0), false⟩,
      ⟨18, 10, .ro, (.val 0), (.val 0), false⟩,
      ⟨9, 9, .ro, (.val 0), (.val 0), false⟩,
      ⟨8, 0, .ro, (.val 0), (.val 0), false⟩]
  | .nodeLctl => [⟨31, 24, .rw, (.val 4), (.val 4), false⟩,
      ⟨23, 12, .rw, (.val 500), (.val 500), false⟩,
      ⟨11, 0, .rw, (.val 50), (.val 50), false⟩]
  | .fabPstat => [⟨63, 48, .ro, (.val 65535), .keep, false⟩,
      ⟨47, 39, .ro, (.val 0), .keep, false⟩,
      ⟨15, 12, .ro, (.val 0), (.val 7), false⟩,
      ⟨11, 11, .ro, (.val 0), .keep, false⟩,
      ⟨10, 10, .ro, (.val 0), .keep, false⟩,
      ⟨9, 7, .ro, (.val 0), (.val 0), false⟩,
      ⟨2, 0, .ro, (.val 0), (.val 1), false⟩]
  | .fabPerr => [⟨63, 48, .rc, (.val 0), (.val 0), false⟩,
      ⟨47, 32, .rc, (.val 0), (.val 0), false⟩,
      ⟨31, 16, .rc, (.val 0), (.val 0), false⟩,
      ⟨15, 0, .rc, (.val 0), (.val 0), false⟩]
  | .tideFlowa => [⟨63, 48, .ro, (.val 0), (.val 0), false⟩,
      ⟨47, 32, .ro, (.val 0), (.val 0), false⟩,
      ⟨31, 24, .ro, (.val 0), (.val 0), false⟩,
      ⟨19, 18, .ro, (.val 0), (.val 0), false⟩,
      ⟨17, 9, .ro, (.val 0), (.val 0), false⟩,
      ⟨8, 0, .ro, (.val 0), (.val 0), false⟩]
  | .tideFlowb => [⟨63, 56, .ro, (.val 0), (.val 0), false⟩,
      ⟨51, 32, .ro, (.val 0), (.val 0), false⟩,
      ⟨31, 16, .ro, (.val 0), (.val 0), false⟩,
      ⟨1, 1, .ro, (.val 0), (.val 0), false⟩,
      ⟨0, 0, .ro, (.val 0), (.val 0), false⟩]
  | .tidePres => [⟨43, 24, .ro, (.val 0), (.val 0), false⟩,
      ⟨23, 16, .ro, (.val 0), (.val 0), false⟩,
      ⟨12, 0, .ro, (.val 0), (.val 0), false⟩]
  | .nodeRbstat => [⟨47, 32, .ro, (.val 0), (.val 0), false⟩,
      ⟨31, 16, .ro, (.val 0), (.val 0), false⟩,
      ⟨2, 2, .ro, (.val 0), (.val 0), false⟩,
      ⟨1, 1, .ro, (.val 0), (.val 0), false⟩,
      ⟨0, 0, .ro, (.val 0), (.val 0), false⟩]
  | .nodeShsel => [⟨15, 0, .rw, (.val 0), (.val 0), false⟩]
  | .nodeShent => [⟨19, 19, .ro, (.val 0), (.val 0), false⟩,
      ⟨18, 10, .ro, (.val 0), (.val 0), false⟩,
      ⟨9, 9, .ro, (.val 0), (.val 0), false⟩,
      ⟨8, 0, .ro, (.val 0), (.val 0), false⟩]
  | .reachA => [⟨63, 63, .ro, (.val 0), (.val 0), false⟩,
      ⟨56, 51, .ro, (.val 0), (.val 0), false⟩,
      ⟨50, 21, .ro, (.val 0), (.val 0), false⟩]
  | .reachB => [⟨63, 48, .ro, (.val 0), (.val 0), false⟩,
      ⟨45, 16, .ro, (.val 0), (.val 0), false⟩]
  | .reachC => [⟨43, 32, .ro, (.val 0), (.val 0), false⟩,
      ⟨31, 24, .ro, (.val 0), (.val 0), false⟩,
      ⟨7, 6, .ro, (.val 0), (.val 0), false⟩,
      ⟨5, 5, .ro, (.val 0), (.val 0), false⟩,
      ⟨4, 4, .ro, (.val 0), (.val 0), false⟩]
  | .winA => [⟨63, 63, .ro, (.val 0), (.val 0), false⟩,
      ⟨62, 62, .ro, (.val 0), (.val 0), false⟩,
      ⟨61, 61, .ro, (.val 0), (.val 0), false⟩,
      ⟨60, 60, .ro, (.val 0), (.val 0), false⟩,
      ⟨59, 59, .ro, (.val 0), (.val 0), false⟩,
      ⟨58, 58, .ro, (.val 0), (.val 0), false⟩,
      ⟨57, 52, .ro, (.val 0), (.val 0), false⟩,
      ⟨51, 12, .ro, (.val 0), (.val 0), false⟩,
      ⟨11, 0, .ro, (.val 0), (.val 0), false⟩]
  | .winB => [⟨63, 48, .ro, (.val 0), (.val 0), false⟩,
      ⟨40, 12, .ro, (.val 0), (.val 0), false⟩]
  | .winStg0 => [⟨63, 63, .rw, .undef, .undef, false⟩,
      ⟨62, 62, .rw, .undef, .undef, false⟩,
      ⟨61, 61, .rw, .undef, .undef, false⟩,
      ⟨60, 60, .rw, .undef, .undef, false⟩,
      ⟨59, 59, .rw, .undef, .undef, false⟩,
      ⟨58, 58, .rw, .undef, .undef, false⟩,
      ⟨57, 52, .rw, .undef, .undef, false⟩,
      ⟨51, 12, .rw, .undef, .undef, false⟩,
      ⟨11, 0, .rw, .undef, .undef, false⟩]
  | .winStg1 => [⟨63, 48, .rw, .undef, .undef, false⟩,
      ⟨40, 12, .rw, .undef, .undef, false⟩]
  | .winCmd => [⟨63, 63, .ro, (.val 0), (.val 0), false⟩,
      ⟨62, 60, .ro, (.val 0), (.val 0), false⟩,
      ⟨46, 32, .rw, (.val 0), (.val 0), false⟩,
      ⟨3, 0, .wo, (.val 0), (.val 0), false⟩]
  | .winMq => [⟨63, 63, .rc, (.val 0), (.val 0), false⟩,
      ⟨62, 62, .rc, (.val 0), (.val 0), false⟩,
      ⟨61, 61, .rc, (.val 0), (.val 0), false⟩,
      ⟨60, 60, .rc, (.val 0), (.val 0), false⟩,
      ⟨55, 40, .rc, (.val 0), (.val 0), false⟩,
      ⟨39, 0, .rc, (.val 0), (.val 0), false⟩]
  | .winMint => [⟨22, 16, .rw, (.val 0), (.val 0), false⟩,
      ⟨7, 0, .rw, (.val 0), (.val 0), false⟩]
  | .vpArg => [⟨51, 6, .rw, .undef, .undef, false⟩]
  | .vpCmd => [⟨63, 63, .ro, (.val 0), (.val 0), false⟩,
      ⟨62, 59, .ro, (.val 0), (.val 0), false⟩,
      ⟨27, 16, .rw, (.val 0), (.val 0), false⟩,
      ⟨3, 0, .wo, (.val 0), (.val 0), false⟩]
  | .vpStat => [⟨63, 62, .ro, (.val 0), (.val 0), false⟩,
      ⟨61, 61, .ro, (.val 0), (.val 0), false⟩,
      ⟨60, 60, .ro, (.val 0), (.val 0), false⟩,
      ⟨59, 59, .w1c, (.val 0), (.val 0), false⟩,
      ⟨52, 48, .ro, (.val 0), (.val 0), false⟩,
      ⟨15, 0, .ro, (.val 0), (.val 0), false⟩]
  | .vpInt => [⟨31, 24, .rw, (.val 0), (.val 0), false⟩,
      ⟨23, 16, .rw, (.val 0), (.val 0), false⟩,
      ⟨15, 8, .rw, (.val 0), (.val 0), false⟩,
      ⟨7, 0, .rw, (.val 0), (.val 0), false⟩]
  | .vpMdb => [⟨31, 24, .ro, (.val 0), (.val 0), false⟩,
      ⟨23, 16, .ro, (.val 0), (.val 0), false⟩,
      ⟨15, 8, .rw, (.val 0), (.val 0), false⟩,
      ⟨7, 0, .rw, (.val 0), (.val 0), false⟩]
  | .vtDb => [⟨31, 24, .ro, (.val 0), (.val 0), false⟩,
      ⟨23, 16, .ro, (.val 0), (.val 0), false⟩,
      ⟨15, 8, .rw, (.val 0), (.val 0), false⟩,
      ⟨7, 0, .rw, (.val 0), (.val 0), false⟩]
  | .memqMode => [⟨1, 1, .ro, (.val 0), .keep, false⟩,
      ⟨0, 0, .ro, (.val 1), .keep, false⟩]
  | .memqScrub => [⟨57, 32, .ro, (.val 0), .keep, false⟩,
      ⟨31, 16, .ro, (.val 0), .keep, false⟩,
      ⟨15, 8, .rw, (.val 16), .keep, false⟩,
      ⟨4, 1, .rw, (.val 0), .keep, false⟩,
      ⟨0, 0, .rw, (.val 0), (.val 0), false⟩]
  | .memqCerr => [⟨63, 48, .rc, (.val 0), (.val 0), false⟩,
      ⟨47, 32, .rc, (.val 0), (.val 0), false⟩,
      ⟨31, 16, .rc, (.val 0), (.val 0), false⟩,
      ⟨15, 0, .rc, (.val 0), (.val 0), false⟩]
  | .memqStat => [⟨57, 32, .ro, (.val 0), .keep, false⟩,
      ⟨23, 20, .ro, (.val 0), .keep, false⟩,
      ⟨19, 16, .ro, (.val 0), .keep, false⟩,
      ⟨11, 10, .ro, (.val 0), .keep, false⟩,
      ⟨9, 9, .ro, (.val 0), .keep, false⟩]
  | .spdPolicy => [⟨2, 2, .ro, .fuse, .fuse, false⟩,
      ⟨1, 0, .ro, .fuse, .fuse, false⟩]
  | .spdStat => [⟨63, 48, .ro, (.val 0), .keep, false⟩,
      ⟨43, 42, .ro, (.val 0), .keep, false⟩,
      ⟨41, 41, .ro, (.val 0), (.val 0), false⟩,
      ⟨31, 16, .rc, (.val 0), (.val 0), false⟩,
      ⟨15, 8, .rc, (.val 0), (.val 0), false⟩,
      ⟨7, 0, .ro, (.val 0), .keep, false⟩]
  | .cmtCtl => [⟨5, 5, .wo, (.val 0), (.val 0), false⟩,
      ⟨4, 4, .wo, (.val 0), (.val 0), false⟩,
      ⟨3, 3, .rw, (.val 0), (.val 0), false⟩,
      ⟨2, 2, .wo, (.val 0), (.val 0), false⟩,
      ⟨1, 1, .wo, (.val 0), (.val 0), false⟩,
      ⟨0, 0, .rw, (.val 0), (.val 0), false⟩]
  | .cmtCfg => [⟨51, 40, .ro, (.val 0), (.val 0), false⟩,
      ⟨31, 16, .rw, (.val 0), (.val 0), false⟩,
      ⟨14, 14, .rw, (.val 0), (.val 0), false⟩,
      ⟨11, 8, .rw, (.val 3), (.val 3), false⟩,
      ⟨2, 2, .rw, (.val 0), (.val 0), false⟩,
      ⟨1, 1, .ro, (.val 1), (.val 1), false⟩]
  | .cmtProg => [⟨63, 5, .rw, .undef, .undef, false⟩]
  | .cmtStat => [⟨63, 48, .rc, (.val 0), (.val 0), false⟩,
      ⟨47, 40, .ro, (.val 0), (.val 0), false⟩,
      ⟨31, 29, .ro, (.val 0), (.val 0), false⟩,
      ⟨28, 28, .ro, (.val 0), (.val 0), false⟩,
      ⟨10, 10, .ro, (.val 1), (.val 1), false⟩,
      ⟨9, 9, .w1c, (.val 0), (.val 0), false⟩,
      ⟨8, 8, .w1c, (.val 0), (.val 0), false⟩,
      ⟨2, 0, .ro, (.val 0), (.val 0), false⟩]
  | .cmtFaddr => [⟨63, 0, .ro, (.val 0), (.val 0), false⟩]
  | .cmtInt => [⟨22, 16, .rw, (.val 0), (.val 0), false⟩,
      ⟨7, 0, .rw, (.val 0), (.val 0), false⟩]
  | .cmtX => [⟨63, 0, .rw, .undef, .undef, false⟩]
  | .cmtFtb => [⟨51, 7, .rw, .undef, .undef, false⟩]
  | .cmtFtmask => [⟨32, 32, .rw, .undef, .undef, false⟩,
      ⟨31, 28, .rw, .undef, .undef, false⟩,
      ⟨27, 0, .rw, .undef, .undef, false⟩]
  | .fltFatal => [⟨63, 48, .ro, (.val 0), .keep, false⟩,
      ⟨47, 40, .ro, (.val 0), .keep, false⟩,
      ⟨31, 16, .ro, (.val 0), .keep, false⟩,
      ⟨0, 0, .w1c, (.val 0), .keep, false⟩]
  | .fltClspare => [⟨63, 48, .rc, (.val 0), (.val 0), false⟩,
      ⟨7, 4, .ro, (.val 0), .keep, false⟩,
      ⟨1, 0, .ro, (.val 0), .keep, false⟩]
  | .fltSlstat => [⟨29, 24, .ro, (.val 0), .keep, false⟩,
      ⟨15, 8, .ro, (.val 0), .keep, false⟩,
      ⟨1, 0, .ro, (.val 0), .keep, false⟩]
  | .fltMoon => [⟨63, 32, .ro, (.val 0), .keep, false⟩,
      ⟨23, 20, .ro, (.val 0), .keep, false⟩,
      ⟨17, 16, .ro, (.val 0), .keep, false⟩,
      ⟨7, 0, .ro, (.val 0), .keep, false⟩]
  | .fltLogRing => [⟨51, 12, .rw, .undef, .keep, false⟩,
      ⟨4, 1, .rw, (.val 0), .keep, false⟩,
      ⟨0, 0, .rw, (.val 0), (.val 0), false⟩]
  | .fltLogIdx => [⟨63, 32, .rw, (.val 0), .keep, false⟩,
      ⟨31, 0, .ro, (.val 0), .keep, false⟩]
  | .fltLogCtl => [⟨63, 48, .rc, (.val 0), .keep, false⟩,
      ⟨47, 32, .ro, (.val 0), .keep, false⟩,
      ⟨25, 24, .rw, (.val 2), .keep, false⟩,
      ⟨22, 16, .rw, (.val 0), .keep, false⟩,
      ⟨7, 0, .rw, (.val 0), .keep, false⟩]
  | .lcState => [⟨15, 15, .ro, (.val 0), (.val 0), false⟩,
      ⟨9, 8, .ro, .fuse, .fuse, false⟩,
      ⟨2, 0, .ro, .fuse, .fuse, false⟩]
  | .bootStat => [⟨63, 32, .ro, (.val 0), (.val 0), false⟩,
      ⟨23, 20, .ro, (.val 0), (.val 0), false⟩,
      ⟨19, 16, .ro, (.val 0), (.val 0), false⟩,
      ⟨7, 7, .ro, (.val 0), (.val 0), false⟩,
      ⟨6, 6, .ro, (.val 0), (.val 0), false⟩,
      ⟨5, 5, .ro, (.val 0), (.val 0), false⟩,
      ⟨4, 4, .ro, (.val 0), (.val 0), false⟩,
      ⟨1, 1, .ro, (.val 0), (.val 0), false⟩,
      ⟨0, 0, .ro, (.val 0), (.val 0), false⟩]
  | .bootFloor => [⟨31, 31, .ro, (.val 0), (.val 0), false⟩,
      ⟨7, 0, .rw, .fuse, .fuse, true⟩]
  | .svcKey => [⟨63, 63, .ro, (.val 0), .keep, false⟩,
      ⟨62, 62, .wo, (.val 0), (.val 0), true⟩,
      ⟨61, 61, .wo, (.val 0), (.val 0), true⟩]
  | .svcKeyw => [⟨63, 0, .wo, (.val 0), (.val 0), true⟩]
  | .svcReq => [⟨51, 12, .rw, .undef, .undef, false⟩,
      ⟨4, 1, .rw, (.val 0), (.val 0), false⟩,
      ⟨0, 0, .rw, (.val 0), (.val 0), false⟩]
  | .svcRsp => [⟨51, 12, .rw, .undef, .undef, false⟩,
      ⟨4, 1, .rw, (.val 0), (.val 0), false⟩,
      ⟨0, 0, .rw, (.val 0), (.val 0), false⟩]
  | .svcReqidx => [⟨63, 32, .rw, (.val 0), (.val 0), false⟩,
      ⟨31, 0, .ro, (.val 0), (.val 0), false⟩]
  | .svcRspidx => [⟨63, 32, .ro, (.val 0), (.val 0), false⟩,
      ⟨31, 0, .rw, (.val 0), (.val 0), false⟩]
  | .svcInt => [⟨22, 16, .rw, (.val 0), (.val 0), false⟩,
      ⟨7, 0, .rw, (.val 0), (.val 0), false⟩]
  | .svcCstat => [⟨63, 32, .ro, (.val 0), (.val 0), false⟩,
      ⟨31, 16, .rc, (.val 0), (.val 0), false⟩,
      ⟨15, 0, .rc, (.val 0), (.val 0), false⟩]
  | .tbVal => [⟨63, 0, .ro, (.val 0), .keep, false⟩]
  | .tbCmp => [⟨63, 0, .rw, (.val 9223372036854775807), (.val 9223372036854775807), false⟩]
  | .tbSync => [⟨63, 40, .ro, (.val 0), (.val 0), false⟩,
      ⟨39, 32, .ro, (.val 255), (.val 255), false⟩,
      ⟨31, 31, .ro, (.val 0), (.val 0), false⟩,
      ⟨30, 30, .ro, (.val 0), (.val 0), false⟩,
      ⟨29, 29, .ro, (.val 0), (.val 0), false⟩,
      ⟨28, 28, .rw, (.val 0), .keep, false⟩,
      ⟨27, 27, .rw, (.val 0), .keep, false⟩,
      ⟨26, 26, .rw, (.val 0), .keep, false⟩,
      ⟨25, 17, .rw, (.val 0), .keep, false⟩,
      ⟨16, 16, .rw, (.val 0), .keep, false⟩,
      ⟨15, 7, .rw, (.val 0), .keep, false⟩,
      ⟨6, 4, .rw, (.val 3), .keep, false⟩,
      ⟨1, 0, .rw, (.val 0), .keep, false⟩]
  | .tbPdly => [⟨63, 63, .ro, (.val 0), (.val 0), false⟩,
      ⟨31, 0, .ro, (.val 0), (.val 0), false⟩]
  | .pegBase => [⟨31, 0, .rw, (.val 1000000), .keep, false⟩]
  | .pegCtl => [⟨16, 16, .ro, (.val 0), (.val 0), false⟩,
      ⟨15, 0, .wo, (.val 0), (.val 0), false⟩]
  | .pegCfg => [⟨63, 63, .rw, (.val 0), .keep, false⟩,
      ⟨55, 48, .rw, (.val 1), .keep, false⟩,
      ⟨39, 0, .rw, (.val 0), .keep, false⟩]
  | .capCfg => [⟨19, 19, .w1c, (.val 0), (.val 0), false⟩,
      ⟨18, 16, .ro, (.val 0), (.val 0), false⟩,
      ⟨9, 8, .rw, (.val 1), (.val 1), false⟩,
      ⟨7, 0, .rw, (.val 0), (.val 0), false⟩]
  | .capHead => [⟨63, 63, .rc, (.val 1), (.val 1), false⟩,
      ⟨62, 62, .rc, (.val 0), (.val 0), false⟩,
      ⟨61, 0, .rc, (.val 0), (.val 0), false⟩]
  | .capInt => [⟨22, 16, .rw, (.val 0), (.val 0), false⟩,
      ⟨7, 0, .rw, (.val 0), (.val 0), false⟩]
  | .toutCfg => [⟨31, 31, .rw, (.val 0), (.val 0), false⟩,
      ⟨30, 30, .rw, (.val 0), (.val 0), false⟩,
      ⟨19, 16, .rw, (.val 0), (.val 0), false⟩,
      ⟨15, 0, .rw, (.val 100), (.val 100), false⟩]
  | .pmcCyc => [⟨63, 0, .rw, (.val 0), (.val 0), false⟩]
  | .pmc => [⟨47, 0, .rw, (.val 0), (.val 0), false⟩]
  | .pmsel => [⟨63, 63, .rw, (.val 0), (.val 0), false⟩,
      ⟨62, 62, .rw, (.val 0), (.val 0), false⟩,
      ⟨61, 61, .rw, (.val 0), (.val 0), false⟩,
      ⟨60, 60, .rw, (.val 0), (.val 0), false⟩,
      ⟨59, 59, .rw, (.val 0), (.val 0), false⟩,
      ⟨58, 58, .w1c, (.val 0), (.val 0), false⟩,
      ⟨57, 57, .rw, (.val 0), (.val 0), false⟩,
      ⟨55, 52, .rw, (.val 0), (.val 0), false⟩,
      ⟨47, 32, .rw, (.val 0), (.val 0), false⟩,
      ⟨9, 0, .rw, (.val 0), (.val 0), false⟩]
  | .psbbase => [⟨63, 12, .rw, .undef, .undef, false⟩,
      ⟨11, 8, .rw, (.val 0), (.val 0), false⟩,
      ⟨7, 6, .rw, (.val 0), (.val 0), false⟩,
      ⟨2, 2, .rw, (.val 0), (.val 0), false⟩,
      ⟨1, 1, .rw, (.val 0), (.val 0), false⟩,
      ⟨0, 0, .rw, (.val 0), (.val 0), false⟩]
  | .pmcDump => [⟨51, 12, .rw, .undef, .undef, false⟩,
      ⟨11, 8, .rw, (.val 0), (.val 0), false⟩,
      ⟨7, 4, .rw, (.val 0), (.val 0), false⟩,
      ⟨1, 1, .w1c, (.val 0), (.val 0), false⟩,
      ⟨0, 0, .rw, (.val 0), (.val 0), false⟩]
  | .monSel => [⟨63, 63, .rw, (.val 0), (.val 0), false⟩,
      ⟨60, 60, .rw, (.val 0), (.val 0), false⟩,
      ⟨59, 48, .rw, (.val 0), (.val 0), false⟩,
      ⟨47, 32, .rw, (.val 65535), (.val 65535), false⟩,
      ⟨9, 0, .rw, (.val 0), (.val 0), false⟩]
  | .monCnt => [⟨63, 0, .rw, (.val 0), (.val 0), false⟩]
  | .coreClctl => [⟨47, 40, .rw, (.val 29), (.val 29), false⟩,
      ⟨31, 24, .rw, (.val 0), (.val 0), false⟩,
      ⟨15, 8, .wo, (.val 0), (.val 0), false⟩,
      ⟨2, 2, .rw, (.val 0), (.val 0), false⟩,
      ⟨0, 0, .wo, (.val 0), (.val 0), false⟩]
  | .coreClstat => [⟨63, 56, .ro, (.val 0), (.val 0), false⟩,
      ⟨55, 48, .ro, (.val 29), (.val 29), false⟩,
      ⟨41, 41, .ro, (.val 0), (.val 0), false⟩,
      ⟨40, 40, .ro, (.val 0), (.val 0), false⟩,
      ⟨23, 0, .ro, (.val 7190235), (.val 7190235), false⟩]
  | .coreStart => [⟨51, 2, .rw, .undef, .undef, true⟩,
      ⟨0, 0, .wo, (.val 0), (.val 0), true⟩]
  | .corePrst => [⟨31, 31, .wo, (.val 0), (.val 0), false⟩,
      ⟨8, 0, .rw, (.val 0), (.val 0), false⟩]
  | .corePkgctl => [⟨39, 32, .rw, (.val 130), .keep, true⟩,
      ⟨11, 8, .ro, (.val 0), (.val 0), false⟩,
      ⟨2, 2, .wo, (.val 0), (.val 0), true⟩,
      ⟨1, 1, .wo, (.val 0), (.val 0), true⟩,
      ⟨0, 0, .wo, (.val 0), (.val 0), true⟩]
  | .calGstat => [⟨50, 34, .ro, (.val 0), .keep, false⟩,
      ⟨33, 17, .ro, (.val 0), .keep, false⟩,
      ⟨16, 0, .ro, (.val 0), .keep, false⟩]
  | .calMstat => [⟨63, 48, .ro, (.val 0), .keep, false⟩,
      ⟨47, 32, .ro, (.val 0), .keep, false⟩,
      ⟨31, 24, .ro, (.val 0), .keep, false⟩,
      ⟨7, 7, .ro, (.val 0), .keep, false⟩,
      ⟨6, 6, .ro, (.val 0), .keep, false⟩,
      ⟨5, 5, .ro, (.val 0), .keep, false⟩,
      ⟨3, 0, .ro, (.val 0), .keep, false⟩]
  | .calRec => [⟨63, 32, .ro, (.val 0), .keep, false⟩,
      ⟨7, 6, .ro, (.val 0), .keep, false⟩,
      ⟨5, 5, .ro, (.val 0), (.val 0), false⟩,
      ⟨4, 4, .ro, (.val 0), .keep, false⟩,
      ⟨1, 1, .ro, (.val 0), .keep, false⟩,
      ⟨0, 0, .ro, (.val 0), .keep, false⟩]

/-- Every register, in the order of the constructors. -/
def Reg.all : List Reg :=
  [.creg, .fpcs, .pstate, .hrsctl, .hrsent, .ppbase, .coreId, .corePredctl,
   .vdtb, .coreMdtb, .epc, .eaddr, .ecause, .stk, .slim, .coreIpend,
   .coreIpi, .asid, .vmid, .ftb, .ftmask, .pkr, .fltRclRing, .fltRclIdx,
   .fltRclStat, .fltRclInt, .fabGcfg, .fabGstat, .nodeSelf, .nodeEnt, .nodeLctl, .fabPstat,
   .fabPerr, .tideFlowa, .tideFlowb, .tidePres, .nodeRbstat, .nodeShsel, .nodeShent, .reachA,
   .reachB, .reachC, .winA, .winB, .winStg0, .winStg1, .winCmd, .winMq,
   .winMint, .vpArg, .vpCmd, .vpStat, .vpInt, .vpMdb, .vtDb, .memqMode,
   .memqScrub, .memqCerr, .memqStat, .spdPolicy, .spdStat, .cmtCtl, .cmtCfg, .cmtProg,
   .cmtStat, .cmtFaddr, .cmtInt, .cmtX, .cmtFtb, .cmtFtmask, .fltFatal, .fltClspare,
   .fltSlstat, .fltMoon, .fltLogRing, .fltLogIdx, .fltLogCtl, .lcState, .bootStat, .bootFloor,
   .svcKey, .svcKeyw, .svcReq, .svcRsp, .svcReqidx, .svcRspidx, .svcInt, .svcCstat,
   .tbVal, .tbCmp, .tbSync, .tbPdly, .pegBase, .pegCtl, .pegCfg, .capCfg,
   .capHead, .capInt, .toutCfg, .pmcCyc, .pmc, .pmsel, .psbbase, .pmcDump,
   .monSel, .monCnt, .coreClctl, .coreClstat, .coreStart, .corePrst, .corePkgctl, .calGstat,
   .calMstat, .calRec]

/-- A named field: its register and its bits. -/
structure FRef where
  reg : Reg
  hi : Nat
  lo : Nat
  deriving DecidableEq, Repr

namespace F
abbrev creg_C : FRef := ⟨.creg, 31, 0⟩
abbrev fpcs_FZ : FRef := ⟨.fpcs, 12, 12⟩
abbrev fpcs_RM : FRef := ⟨.fpcs, 11, 10⟩
abbrev fpcs_TEN : FRef := ⟨.fpcs, 9, 5⟩
abbrev fpcs_FLG : FRef := ⟨.fpcs, 4, 0⟩
abbrev pstate_TE : FRef := ⟨.pstate, 9, 9⟩
abbrev pstate_BIP : FRef := ⟨.pstate, 8, 8⟩
abbrev pstate_ML : FRef := ⟨.pstate, 7, 4⟩
abbrev pstate_PL : FRef := ⟨.pstate, 1, 0⟩
abbrev hrsctl_DROP : FRef := ⟨.hrsctl, 29, 24⟩
abbrev hrsctl_SEL : FRef := ⟨.hrsctl, 20, 16⟩
abbrev hrsctl_DEPTH : FRef := ⟨.hrsctl, 13, 8⟩
abbrev hrsctl_SKIP : FRef := ⟨.hrsctl, 3, 3⟩
abbrev hrsctl_UW : FRef := ⟨.hrsctl, 2, 2⟩
abbrev hrsctl_UNF : FRef := ⟨.hrsctl, 1, 1⟩
abbrev hrsctl_OVF : FRef := ⟨.hrsctl, 0, 0⟩
abbrev hrsent_ADDR : FRef := ⟨.hrsent, 63, 0⟩
abbrev ppbase_BASE : FRef := ⟨.ppbase, 51, 10⟩
abbrev ppbase_U : FRef := ⟨.ppbase, 1, 1⟩
abbrev ppbase_EN : FRef := ⟨.ppbase, 0, 0⟩
abbrev coreId_LCORE : FRef := ⟨.coreId, 22, 16⟩
abbrev coreId_CLUSTER : FRef := ⟨.coreId, 6, 3⟩
abbrev coreId_CORE : FRef := ⟨.coreId, 2, 0⟩
abbrev corePredctl_PF2_OFF : FRef := ⟨.corePredctl, 7, 7⟩
abbrev corePredctl_PF1_OFF : FRef := ⟨.corePredctl, 6, 6⟩
abbrev corePredctl_MDS_OFF : FRef := ⟨.corePredctl, 5, 5⟩
abbrev corePredctl_ISO : FRef := ⟨.corePredctl, 4, 4⟩
abbrev corePredctl_FLUSH : FRef := ⟨.corePredctl, 0, 0⟩
abbrev vdtb_BASE : FRef := ⟨.vdtb, 51, 13⟩
abbrev coreMdtb_BASE : FRef := ⟨.coreMdtb, 51, 13⟩
abbrev coreMdtb_EN : FRef := ⟨.coreMdtb, 0, 0⟩
abbrev epc_PC : FRef := ⟨.epc, 63, 0⟩
abbrev eaddr_ADDR : FRef := ⟨.eaddr, 63, 0⟩
abbrev ecause_RETRY : FRef := ⟨.ecause, 31, 31⟩
abbrev ecause_FETCH : FRef := ⟨.ecause, 30, 30⟩
abbrev ecause_WR : FRef := ⟨.ecause, 29, 29⟩
abbrev ecause_RSV : FRef := ⟨.ecause, 28, 28⟩
abbrev ecause_FROM : FRef := ⟨.ecause, 25, 24⟩
abbrev ecause_ENT : FRef := ⟨.ecause, 23, 16⟩
abbrev ecause_ORIG : FRef := ⟨.ecause, 15, 8⟩
abbrev ecause_CODE : FRef := ⟨.ecause, 7, 0⟩
abbrev stk_SP : FRef := ⟨.stk, 63, 0⟩
abbrev slim_LIM : FRef := ⟨.slim, 63, 0⟩
abbrev coreIpend_PEND : FRef := ⟨.coreIpend, 31, 0⟩
abbrev coreIpi_ALL : FRef := ⟨.coreIpi, 23, 23⟩
abbrev coreIpi_TARGET : FRef := ⟨.coreIpi, 22, 16⟩
abbrev coreIpi_VECTOR : FRef := ⟨.coreIpi, 7, 0⟩
abbrev asid_ASID : FRef := ⟨.asid, 15, 0⟩
abbrev vmid_VMID : FRef := ⟨.vmid, 15, 0⟩
abbrev ftb_BASE : FRef := ⟨.ftb, 51, 7⟩
abbrev ftmask_GP : FRef := ⟨.ftmask, 32, 32⟩
abbrev ftmask_SZEN : FRef := ⟨.ftmask, 31, 28⟩
abbrev ftmask_M : FRef := ⟨.ftmask, 27, 0⟩
abbrev pkr_KR : FRef := ⟨.pkr, 31, 0⟩
abbrev fltRclRing_BASE : FRef := ⟨.fltRclRing, 51, 12⟩
abbrev fltRclRing_SIZE : FRef := ⟨.fltRclRing, 4, 1⟩
abbrev fltRclRing_EN : FRef := ⟨.fltRclRing, 0, 0⟩
abbrev fltRclIdx_RIDX : FRef := ⟨.fltRclIdx, 63, 32⟩
abbrev fltRclIdx_WIDX : FRef := ⟨.fltRclIdx, 31, 0⟩
abbrev fltRclStat_LOST : FRef := ⟨.fltRclStat, 63, 32⟩
abbrev fltRclStat_NODE : FRef := ⟨.fltRclStat, 31, 16⟩
abbrev fltRclStat_OVF : FRef := ⟨.fltRclStat, 3, 3⟩
abbrev fltRclStat_DONE : FRef := ⟨.fltRclStat, 2, 2⟩
abbrev fltRclStat_BUSY : FRef := ⟨.fltRclStat, 1, 1⟩
abbrev fltRclInt_TARGET : FRef := ⟨.fltRclInt, 22, 16⟩
abbrev fltRclInt_VECTOR : FRef := ⟨.fltRclInt, 7, 0⟩
abbrev fabGcfg_MR : FRef := ⟨.fabGcfg, 49, 49⟩
abbrev fabGcfg_NRZ : FRef := ⟨.fabGcfg, 48, 48⟩
abbrev fabGcfg_W : FRef := ⟨.fabGcfg, 47, 0⟩
abbrev fabGstat_FAIL : FRef := ⟨.fabGstat, 31, 16⟩
abbrev fabGstat_SPOS : FRef := ⟨.fabGstat, 15, 12⟩
abbrev fabGstat_SHIDX : FRef := ⟨.fabGstat, 11, 8⟩
abbrev fabGstat_SST : FRef := ⟨.fabGstat, 5, 4⟩
abbrev nodeSelf_EPOCH : FRef := ⟨.nodeSelf, 31, 24⟩
abbrev nodeSelf_ID : FRef := ⟨.nodeSelf, 15, 0⟩
abbrev nodeEnt_PEPOCH : FRef := ⟨.nodeEnt, 47, 40⟩
abbrev nodeEnt_LIVE : FRef := ⟨.nodeEnt, 37, 36⟩
abbrev nodeEnt_AV : FRef := ⟨.nodeEnt, 19, 19⟩
abbrev nodeEnt_ALT : FRef := ⟨.nodeEnt, 18, 10⟩
abbrev nodeEnt_PV : FRef := ⟨.nodeEnt, 9, 9⟩
abbrev nodeEnt_PRI : FRef := ⟨.nodeEnt, 8, 0⟩
abbrev nodeLctl_NPROBE : FRef := ⟨.nodeLctl, 31, 24⟩
abbrev nodeLctl_SILENCE : FRef := ⟨.nodeLctl, 23, 12⟩
abbrev nodeLctl_PINT : FRef := ⟨.nodeLctl, 11, 0⟩
abbrev fabPstat_PEER : FRef := ⟨.fabPstat, 63, 48⟩
abbrev fabPstat_PPORT : FRef := ⟨.fabPstat, 47, 39⟩
abbrev fabPstat_REASON : FRef := ⟨.fabPstat, 15, 12⟩
abbrev fabPstat_REV : FRef := ⟨.fabPstat, 11, 11⟩
abbrev fabPstat_RATE : FRef := ⟨.fabPstat, 10, 10⟩
abbrev fabPstat_AW : FRef := ⟨.fabPstat, 9, 7⟩
abbrev fabPstat_ST : FRef := ⟨.fabPstat, 2, 0⟩
abbrev fabPerr_REPLAY : FRef := ⟨.fabPerr, 63, 48⟩
abbrev fabPerr_CRCERR : FRef := ⟨.fabPerr, 47, 32⟩
abbrev fabPerr_UNCOR : FRef := ⟨.fabPerr, 31, 16⟩
abbrev fabPerr_CORR : FRef := ⟨.fabPerr, 15, 0⟩
abbrev tideFlowa_SRC : FRef := ⟨.tideFlowa, 63, 48⟩
abbrev tideFlowa_DST : FRef := ⟨.tideFlowa, 47, 32⟩
abbrev tideFlowa_STREAM : FRef := ⟨.tideFlowa, 31, 24⟩
abbrev tideFlowa_ROLE : FRef := ⟨.tideFlowa, 19, 18⟩
abbrev tideFlowa_PINB : FRef := ⟨.tideFlowa, 17, 9⟩
abbrev tideFlowa_PINA : FRef := ⟨.tideFlowa, 8, 0⟩
abbrev tideFlowb_BURST : FRef := ⟨.tideFlowb, 63, 56⟩
abbrev tideFlowb_RATE : FRef := ⟨.tideFlowb, 51, 32⟩
abbrev tideFlowb_NEXT : FRef := ⟨.tideFlowb, 31, 16⟩
abbrev tideFlowb_NV : FRef := ⟨.tideFlowb, 1, 1⟩
abbrev tideFlowb_SOLO : FRef := ⟨.tideFlowb, 0, 0⟩
abbrev tidePres_RSUM : FRef := ⟨.tidePres, 43, 24⟩
abbrev tidePres_BSUM : FRef := ⟨.tidePres, 23, 16⟩
abbrev tidePres_NFLOW : FRef := ⟨.tidePres, 12, 0⟩
abbrev nodeRbstat_RTEPOCH : FRef := ⟨.nodeRbstat, 47, 32⟩
abbrev nodeRbstat_STAGED : FRef := ⟨.nodeRbstat, 31, 16⟩
abbrev nodeRbstat_COPY : FRef := ⟨.nodeRbstat, 2, 2⟩
abbrev nodeRbstat_HELD : FRef := ⟨.nodeRbstat, 1, 1⟩
abbrev nodeRbstat_BANK : FRef := ⟨.nodeRbstat, 0, 0⟩
abbrev nodeShsel_ID : FRef := ⟨.nodeShsel, 15, 0⟩
abbrev nodeShent_AV : FRef := ⟨.nodeShent, 19, 19⟩
abbrev nodeShent_ALT : FRef := ⟨.nodeShent, 18, 10⟩
abbrev nodeShent_PV : FRef := ⟨.nodeShent, 9, 9⟩
abbrev nodeShent_PRI : FRef := ⟨.nodeShent, 8, 0⟩
abbrev reachA_V : FRef := ⟨.reachA, 63, 63⟩
abbrev reachA_LOG2 : FRef := ⟨.reachA, 56, 51⟩
abbrev reachA_BASE : FRef := ⟨.reachA, 50, 21⟩
abbrev reachB_NODE : FRef := ⟨.reachB, 63, 48⟩
abbrev reachB_RBASE : FRef := ⟨.reachB, 45, 16⟩
abbrev reachC_FLOW : FRef := ⟨.reachC, 43, 32⟩
abbrev reachC_STREAM : FRef := ⟨.reachC, 31, 24⟩
abbrev reachC_CLASS : FRef := ⟨.reachC, 7, 6⟩
abbrev reachC_COH : FRef := ⟨.reachC, 5, 5⟩
abbrev reachC_NOSPEC : FRef := ⟨.reachC, 4, 4⟩
abbrev winA_V : FRef := ⟨.winA, 63, 63⟩
abbrev winA_L : FRef := ⟨.winA, 62, 62⟩
abbrev winA_ANY : FRef := ⟨.winA, 61, 61⟩
abbrev winA_C : FRef := ⟨.winA, 60, 60⟩
abbrev winA_W : FRef := ⟨.winA, 59, 59⟩
abbrev winA_R : FRef := ⟨.winA, 58, 58⟩
abbrev winA_LOG2 : FRef := ⟨.winA, 57, 52⟩
abbrev winA_WBASE : FRef := ⟨.winA, 51, 12⟩
abbrev winA_VPORT : FRef := ⟨.winA, 11, 0⟩
abbrev winB_SRC : FRef := ⟨.winB, 63, 48⟩
abbrev winB_LBASE : FRef := ⟨.winB, 40, 12⟩
abbrev winStg0_V : FRef := ⟨.winStg0, 63, 63⟩
abbrev winStg0_L : FRef := ⟨.winStg0, 62, 62⟩
abbrev winStg0_ANY : FRef := ⟨.winStg0, 61, 61⟩
abbrev winStg0_C : FRef := ⟨.winStg0, 60, 60⟩
abbrev winStg0_W : FRef := ⟨.winStg0, 59, 59⟩
abbrev winStg0_R : FRef := ⟨.winStg0, 58, 58⟩
abbrev winStg0_LOG2 : FRef := ⟨.winStg0, 57, 52⟩
abbrev winStg0_WBASE : FRef := ⟨.winStg0, 51, 12⟩
abbrev winStg0_VPORT : FRef := ⟨.winStg0, 11, 0⟩
abbrev winStg1_SRC : FRef := ⟨.winStg1, 63, 48⟩
abbrev winStg1_LBASE : FRef := ⟨.winStg1, 40, 12⟩
abbrev winCmd_BUSY : FRef := ⟨.winCmd, 63, 63⟩
abbrev winCmd_STATUS : FRef := ⟨.winCmd, 62, 60⟩
abbrev winCmd_INDEX : FRef := ⟨.winCmd, 46, 32⟩
abbrev winCmd_OP : FRef := ⟨.winCmd, 3, 0⟩
abbrev winMq_V : FRef := ⟨.winMq, 63, 63⟩
abbrev winMq_WR : FRef := ⟨.winMq, 62, 62⟩
abbrev winMq_COH : FRef := ⟨.winMq, 61, 61⟩
abbrev winMq_OVF : FRef := ⟨.winMq, 60, 60⟩
abbrev winMq_SRC : FRef := ⟨.winMq, 55, 40⟩
abbrev winMq_PAGE : FRef := ⟨.winMq, 39, 0⟩
abbrev winMint_TARGET : FRef := ⟨.winMint, 22, 16⟩
abbrev winMint_VECTOR : FRef := ⟨.winMint, 7, 0⟩
abbrev vpArg_ADDR : FRef := ⟨.vpArg, 51, 6⟩
abbrev vpCmd_BUSY : FRef := ⟨.vpCmd, 63, 63⟩
abbrev vpCmd_STATUS : FRef := ⟨.vpCmd, 62, 59⟩
abbrev vpCmd_VPORT : FRef := ⟨.vpCmd, 27, 16⟩
abbrev vpCmd_OP : FRef := ⟨.vpCmd, 3, 0⟩
abbrev vpStat_STATE : FRef := ⟨.vpStat, 63, 62⟩
abbrev vpStat_FRZ : FRef := ⟨.vpStat, 61, 61⟩
abbrev vpStat_REM : FRef := ⟨.vpStat, 60, 60⟩
abbrev vpStat_LOGOVR : FRef := ⟨.vpStat, 59, 59⟩
abbrev vpStat_CRED : FRef := ⟨.vpStat, 52, 48⟩
abbrev vpStat_VMID : FRef := ⟨.vpStat, 15, 0⟩
abbrev vpInt_MCORE : FRef := ⟨.vpInt, 31, 24⟩
abbrev vpInt_MVEC : FRef := ⟨.vpInt, 23, 16⟩
abbrev vpInt_TCORE : FRef := ⟨.vpInt, 15, 8⟩
abbrev vpInt_TVEC : FRef := ⟨.vpInt, 7, 0⟩
abbrev vpMdb_T2M_P : FRef := ⟨.vpMdb, 31, 24⟩
abbrev vpMdb_M2T_C : FRef := ⟨.vpMdb, 23, 16⟩
abbrev vpMdb_T2M_C : FRef := ⟨.vpMdb, 15, 8⟩
abbrev vpMdb_M2T_P : FRef := ⟨.vpMdb, 7, 0⟩
abbrev vtDb_M2T_P : FRef := ⟨.vtDb, 31, 24⟩
abbrev vtDb_T2M_C : FRef := ⟨.vtDb, 23, 16⟩
abbrev vtDb_M2T_C : FRef := ⟨.vtDb, 15, 8⟩
abbrev vtDb_T2M_P : FRef := ⟨.vtDb, 7, 0⟩
abbrev memqMode_INIT : FRef := ⟨.memqMode, 1, 1⟩
abbrev memqMode_PMODE : FRef := ⟨.memqMode, 0, 0⟩
abbrev memqScrub_SPTR : FRef := ⟨.memqScrub, 57, 32⟩
abbrev memqScrub_PASSES : FRef := ⟨.memqScrub, 31, 16⟩
abbrev memqScrub_LINES : FRef := ⟨.memqScrub, 15, 8⟩
abbrev memqScrub_PEG : FRef := ⟨.memqScrub, 4, 1⟩
abbrev memqScrub_EN : FRef := ⟨.memqScrub, 0, 0⟩
abbrev memqCerr_POIS : FRef := ⟨.memqCerr, 63, 48⟩
abbrev memqCerr_RECON : FRef := ⟨.memqCerr, 47, 32⟩
abbrev memqCerr_CORR : FRef := ⟨.memqCerr, 31, 16⟩
abbrev memqCerr_PARFIX : FRef := ⟨.memqCerr, 15, 0⟩
abbrev memqStat_RPTR : FRef := ⟨.memqStat, 57, 32⟩
abbrev memqStat_FLCH : FRef := ⟨.memqStat, 23, 20⟩
abbrev memqStat_SPCH : FRef := ⟨.memqStat, 19, 16⟩
abbrev memqStat_SPARE : FRef := ⟨.memqStat, 11, 10⟩
abbrev memqStat_DEGR : FRef := ⟨.memqStat, 9, 9⟩
abbrev spdPolicy_PCMT : FRef := ⟨.spdPolicy, 2, 2⟩
abbrev spdPolicy_SLVL : FRef := ⟨.spdPolicy, 1, 0⟩
abbrev spdStat_WCNT : FRef := ⟨.spdStat, 63, 48⟩
abbrev spdStat_WCAUSE : FRef := ⟨.spdStat, 43, 42⟩
abbrev spdStat_WIPING : FRef := ⟨.spdStat, 41, 41⟩
abbrev spdStat_CORR : FRef := ⟨.spdStat, 31, 16⟩
abbrev spdStat_UNCORR : FRef := ⟨.spdStat, 15, 8⟩
abbrev spdStat_FREP : FRef := ⟨.spdStat, 7, 0⟩
abbrev cmtCtl_SKIP : FRef := ⟨.cmtCtl, 5, 5⟩
abbrev cmtCtl_RESUME : FRef := ⟨.cmtCtl, 4, 4⟩
abbrev cmtCtl_HOLD : FRef := ⟨.cmtCtl, 3, 3⟩
abbrev cmtCtl_RING : FRef := ⟨.cmtCtl, 2, 2⟩
abbrev cmtCtl_GO : FRef := ⟨.cmtCtl, 1, 1⟩
abbrev cmtCtl_EN : FRef := ⟨.cmtCtl, 0, 0⟩
abbrev cmtCfg_VPORT : FRef := ⟨.cmtCfg, 51, 40⟩
abbrev cmtCfg_ASID : FRef := ⟨.cmtCfg, 31, 16⟩
abbrev cmtCfg_APL : FRef := ⟨.cmtCfg, 14, 14⟩
abbrev cmtCfg_NAKRETRY : FRef := ⟨.cmtCfg, 11, 8⟩
abbrev cmtCfg_EIE : FRef := ⟨.cmtCfg, 2, 2⟩
abbrev cmtCfg_PRIV : FRef := ⟨.cmtCfg, 1, 1⟩
abbrev cmtProg_ADDR : FRef := ⟨.cmtProg, 63, 5⟩
abbrev cmtStat_ERRCNT : FRef := ⟨.cmtStat, 63, 48⟩
abbrev cmtStat_DBCNT : FRef := ⟨.cmtStat, 47, 40⟩
abbrev cmtStat_FKIND : FRef := ⟨.cmtStat, 31, 29⟩
abbrev cmtStat_FDIR : FRef := ⟨.cmtStat, 28, 28⟩
abbrev cmtStat_QUIET : FRef := ⟨.cmtStat, 10, 10⟩
abbrev cmtStat_ERR : FRef := ⟨.cmtStat, 9, 9⟩
abbrev cmtStat_DONE : FRef := ⟨.cmtStat, 8, 8⟩
abbrev cmtStat_STATE : FRef := ⟨.cmtStat, 2, 0⟩
abbrev cmtFaddr_ADDR : FRef := ⟨.cmtFaddr, 63, 0⟩
abbrev cmtInt_TARGET : FRef := ⟨.cmtInt, 22, 16⟩
abbrev cmtInt_VECTOR : FRef := ⟨.cmtInt, 7, 0⟩
abbrev cmtX_X : FRef := ⟨.cmtX, 63, 0⟩
abbrev cmtFtb_BASE : FRef := ⟨.cmtFtb, 51, 7⟩
abbrev cmtFtmask_GP : FRef := ⟨.cmtFtmask, 32, 32⟩
abbrev cmtFtmask_SZEN : FRef := ⟨.cmtFtmask, 31, 28⟩
abbrev cmtFtmask_M : FRef := ⟨.cmtFtmask, 27, 0⟩
abbrev fltFatal_UNIT : FRef := ⟨.fltFatal, 63, 48⟩
abbrev fltFatal_KIND : FRef := ⟨.fltFatal, 47, 40⟩
abbrev fltFatal_CODE : FRef := ⟨.fltFatal, 31, 16⟩
abbrev fltFatal_VALID : FRef := ⟨.fltFatal, 0, 0⟩
abbrev fltClspare_REPLAYS : FRef := ⟨.fltClspare, 63, 48⟩
abbrev fltClspare_RETIRED : FRef := ⟨.fltClspare, 7, 4⟩
abbrev fltClspare_SST : FRef := ⟨.fltClspare, 1, 0⟩
abbrev fltSlstat_MSLICE : FRef := ⟨.fltSlstat, 29, 24⟩
abbrev fltSlstat_WAYOFF : FRef := ⟨.fltSlstat, 15, 8⟩
abbrev fltSlstat_SST : FRef := ⟨.fltSlstat, 1, 0⟩
abbrev fltMoon_IMGSEQ : FRef := ⟨.fltMoon, 63, 32⟩
abbrev fltMoon_UPD : FRef := ⟨.fltMoon, 23, 20⟩
abbrev fltMoon_UCORE : FRef := ⟨.fltMoon, 17, 16⟩
abbrev fltMoon_ST : FRef := ⟨.fltMoon, 7, 0⟩
abbrev fltLogRing_BASE : FRef := ⟨.fltLogRing, 51, 12⟩
abbrev fltLogRing_SIZE : FRef := ⟨.fltLogRing, 4, 1⟩
abbrev fltLogRing_EN : FRef := ⟨.fltLogRing, 0, 0⟩
abbrev fltLogIdx_RIDX : FRef := ⟨.fltLogIdx, 63, 32⟩
abbrev fltLogIdx_WIDX : FRef := ⟨.fltLogIdx, 31, 0⟩
abbrev fltLogCtl_LOST : FRef := ⟨.fltLogCtl, 63, 48⟩
abbrev fltLogCtl_HELD : FRef := ⟨.fltLogCtl, 47, 32⟩
abbrev fltLogCtl_MINCLASS : FRef := ⟨.fltLogCtl, 25, 24⟩
abbrev fltLogCtl_TARGET : FRef := ⟨.fltLogCtl, 22, 16⟩
abbrev fltLogCtl_VECTOR : FRef := ⟨.fltLogCtl, 7, 0⟩
abbrev lcState_UNLK : FRef := ⟨.lcState, 15, 15⟩
abbrev lcState_TAP : FRef := ⟨.lcState, 9, 8⟩
abbrev lcState_STATE : FRef := ⟨.lcState, 2, 0⟩
abbrev bootStat_SEQ : FRef := ⟨.bootStat, 63, 32⟩
abbrev bootStat_WHYA : FRef := ⟨.bootStat, 23, 20⟩
abbrev bootStat_WHYB : FRef := ⟨.bootStat, 19, 16⟩
abbrev bootStat_LASTR : FRef := ⟨.bootStat, 7, 7⟩
abbrev bootStat_TEXP : FRef := ⟨.bootStat, 6, 6⟩
abbrev bootStat_TRIAL : FRef := ⟨.bootStat, 5, 5⟩
abbrev bootStat_SLOT : FRef := ⟨.bootStat, 4, 4⟩
abbrev bootStat_FLASH2 : FRef := ⟨.bootStat, 1, 1⟩
abbrev bootStat_VALID : FRef := ⟨.bootStat, 0, 0⟩
abbrev bootFloor_BUSY : FRef := ⟨.bootFloor, 31, 31⟩
abbrev bootFloor_FLOOR : FRef := ⟨.bootFloor, 7, 0⟩
abbrev svcKey_HELD : FRef := ⟨.svcKey, 63, 63⟩
abbrev svcKey_ERASE : FRef := ⟨.svcKey, 62, 62⟩
abbrev svcKey_SET : FRef := ⟨.svcKey, 61, 61⟩
abbrev svcKeyw_WORD : FRef := ⟨.svcKeyw, 63, 0⟩
abbrev svcReq_BASE : FRef := ⟨.svcReq, 51, 12⟩
abbrev svcReq_SIZE : FRef := ⟨.svcReq, 4, 1⟩
abbrev svcReq_EN : FRef := ⟨.svcReq, 0, 0⟩
abbrev svcRsp_BASE : FRef := ⟨.svcRsp, 51, 12⟩
abbrev svcRsp_SIZE : FRef := ⟨.svcRsp, 4, 1⟩
abbrev svcRsp_EN : FRef := ⟨.svcRsp, 0, 0⟩
abbrev svcReqidx_WIDX : FRef := ⟨.svcReqidx, 63, 32⟩
abbrev svcReqidx_RIDX : FRef := ⟨.svcReqidx, 31, 0⟩
abbrev svcRspidx_WIDX : FRef := ⟨.svcRspidx, 63, 32⟩
abbrev svcRspidx_RIDX : FRef := ⟨.svcRspidx, 31, 0⟩
abbrev svcInt_TARGET : FRef := ⟨.svcInt, 22, 16⟩
abbrev svcInt_VECTOR : FRef := ⟨.svcInt, 7, 0⟩
abbrev svcCstat_HSEQ : FRef := ⟨.svcCstat, 63, 32⟩
abbrev svcCstat_BADMAC : FRef := ⟨.svcCstat, 31, 16⟩
abbrev svcCstat_DROPPED : FRef := ⟨.svcCstat, 15, 0⟩
abbrev tbVal_TB : FRef := ⟨.tbVal, 63, 0⟩
abbrev tbCmp_CMP : FRef := ⟨.tbCmp, 63, 0⟩
abbrev tbSync_OFS : FRef := ⟨.tbSync, 63, 40⟩
abbrev tbSync_STRAT : FRef := ⟨.tbSync, 39, 32⟩
abbrev tbSync_LOCK : FRef := ⟨.tbSync, 31, 31⟩
abbrev tbSync_HOLD : FRef := ⟨.tbSync, 30, 30⟩
abbrev tbSync_USE : FRef := ⟨.tbSync, 29, 29⟩
abbrev tbSync_PPSO : FRef := ⟨.tbSync, 28, 28⟩
abbrev tbSync_PPSD : FRef := ⟨.tbSync, 27, 27⟩
abbrev tbSync_TXEN : FRef := ⟨.tbSync, 26, 26⟩
abbrev tbSync_ALTPORT : FRef := ⟨.tbSync, 25, 17⟩
abbrev tbSync_AV : FRef := ⟨.tbSync, 16, 16⟩
abbrev tbSync_PORT : FRef := ⟨.tbSync, 15, 7⟩
abbrev tbSync_INTV : FRef := ⟨.tbSync, 6, 4⟩
abbrev tbSync_MODE : FRef := ⟨.tbSync, 1, 0⟩
abbrev tbPdly_V : FRef := ⟨.tbPdly, 63, 63⟩
abbrev tbPdly_DLY : FRef := ⟨.tbPdly, 31, 0⟩
abbrev pegBase_PERIOD : FRef := ⟨.pegBase, 31, 0⟩
abbrev pegCtl_SERR : FRef := ⟨.pegCtl, 16, 16⟩
abbrev pegCtl_STAGGER : FRef := ⟨.pegCtl, 15, 0⟩
abbrev pegCfg_EN : FRef := ⟨.pegCfg, 63, 63⟩
abbrev pegCfg_MULT : FRef := ⟨.pegCfg, 55, 48⟩
abbrev pegCfg_PHASE : FRef := ⟨.pegCfg, 39, 0⟩
abbrev capCfg_OVF : FRef := ⟨.capCfg, 19, 19⟩
abbrev capCfg_COUNT : FRef := ⟨.capCfg, 18, 16⟩
abbrev capCfg_EDGE : FRef := ⟨.capCfg, 9, 8⟩
abbrev capCfg_SRC : FRef := ⟨.capCfg, 7, 0⟩
abbrev capHead_EMPTY : FRef := ⟨.capHead, 63, 63⟩
abbrev capHead_LOST : FRef := ⟨.capHead, 62, 62⟩
abbrev capHead_TS : FRef := ⟨.capHead, 61, 0⟩
abbrev capInt_TARGET : FRef := ⟨.capInt, 22, 16⟩
abbrev capInt_VECTOR : FRef := ⟨.capInt, 7, 0⟩
abbrev toutCfg_EN : FRef := ⟨.toutCfg, 31, 31⟩
abbrev toutCfg_TGL : FRef := ⟨.toutCfg, 30, 30⟩
abbrev toutCfg_PEG : FRef := ⟨.toutCfg, 19, 16⟩
abbrev toutCfg_WIDTH : FRef := ⟨.toutCfg, 15, 0⟩
abbrev pmcCyc_COUNT : FRef := ⟨.pmcCyc, 63, 0⟩
abbrev pmc_COUNT : FRef := ⟨.pmc, 47, 0⟩
abbrev pmsel_EN : FRef := ⟨.pmsel, 63, 63⟩
abbrev pmsel_UR : FRef := ⟨.pmsel, 62, 62⟩
abbrev pmsel_OIE : FRef := ⟨.pmsel, 61, 61⟩
abbrev pmsel_CHAIN : FRef := ⟨.pmsel, 60, 60⟩
abbrev pmsel_SMP : FRef := ⟨.pmsel, 59, 59⟩
abbrev pmsel_OVF : FRef := ⟨.pmsel, 58, 58⟩
abbrev pmsel_CUR : FRef := ⟨.pmsel, 57, 57⟩
abbrev pmsel_PLF : FRef := ⟨.pmsel, 55, 52⟩
abbrev pmsel_IVL : FRef := ⟨.pmsel, 47, 32⟩
abbrev pmsel_EVENT : FRef := ⟨.pmsel, 9, 0⟩
abbrev psbbase_BASE : FRef := ⟨.psbbase, 63, 12⟩
abbrev psbbase_SIZE : FRef := ⟨.psbbase, 11, 8⟩
abbrev psbbase_THR : FRef := ⟨.psbbase, 7, 6⟩
abbrev psbbase_STOP : FRef := ⟨.psbbase, 2, 2⟩
abbrev psbbase_IRQ : FRef := ⟨.psbbase, 1, 1⟩
abbrev psbbase_EN : FRef := ⟨.psbbase, 0, 0⟩
abbrev pmcDump_BASE : FRef := ⟨.pmcDump, 51, 12⟩
abbrev pmcDump_DEPTH : FRef := ⟨.pmcDump, 11, 8⟩
abbrev pmcDump_PEG : FRef := ⟨.pmcDump, 7, 4⟩
abbrev pmcDump_ERR : FRef := ⟨.pmcDump, 1, 1⟩
abbrev pmcDump_EN : FRef := ⟨.pmcDump, 0, 0⟩
abbrev monSel_EN : FRef := ⟨.monSel, 63, 63⟩
abbrev monSel_VPF : FRef := ⟨.monSel, 60, 60⟩
abbrev monSel_VPORT : FRef := ⟨.monSel, 59, 48⟩
abbrev monSel_UNIT : FRef := ⟨.monSel, 47, 32⟩
abbrev monSel_EVENT : FRef := ⟨.monSel, 9, 0⟩
abbrev monCnt_COUNT : FRef := ⟨.monCnt, 63, 0⟩
abbrev coreClctl_FREQ : FRef := ⟨.coreClctl, 47, 40⟩
abbrev coreClctl_C6EN : FRef := ⟨.coreClctl, 31, 24⟩
abbrev coreClctl_RST : FRef := ⟨.coreClctl, 15, 8⟩
abbrev coreClctl_OFFEN : FRef := ⟨.coreClctl, 2, 2⟩
abbrev coreClctl_CRST : FRef := ⟨.coreClctl, 0, 0⟩
abbrev coreClstat_TEMP : FRef := ⟨.coreClstat, 63, 56⟩
abbrev coreClstat_FACT : FRef := ⟨.coreClstat, 55, 48⟩
abbrev coreClstat_THR : FRef := ⟨.coreClstat, 41, 41⟩
abbrev coreClstat_COFF : FRef := ⟨.coreClstat, 40, 40⟩
abbrev coreClstat_CST : FRef := ⟨.coreClstat, 23, 0⟩
abbrev coreStart_PC : FRef := ⟨.coreStart, 51, 2⟩
abbrev coreStart_REL : FRef := ⟨.coreStart, 0, 0⟩
abbrev corePrst_GO : FRef := ⟨.corePrst, 31, 31⟩
abbrev corePrst_PORT : FRef := ⟨.corePrst, 8, 0⟩
abbrev corePkgctl_PLIM : FRef := ⟨.corePkgctl, 39, 32⟩
abbrev corePkgctl_PSTAT : FRef := ⟨.corePkgctl, 11, 8⟩
abbrev corePkgctl_CANCEL : FRef := ⟨.corePkgctl, 2, 2⟩
abbrev corePkgctl_PS1 : FRef := ⟨.corePkgctl, 1, 1⟩
abbrev corePkgctl_WARM : FRef := ⟨.corePkgctl, 0, 0⟩
abbrev calGstat_STALE : FRef := ⟨.calGstat, 50, 34⟩
abbrev calGstat_PEND : FRef := ⟨.calGstat, 33, 17⟩
abbrev calGstat_REC : FRef := ⟨.calGstat, 16, 0⟩
abbrev calMstat_ZQCNT : FRef := ⟨.calMstat, 63, 48⟩
abbrev calMstat_WUPD : FRef := ⟨.calMstat, 47, 32⟩
abbrev calMstat_DRIFT : FRef := ⟨.calMstat, 31, 24⟩
abbrev calMstat_PEND : FRef := ⟨.calMstat, 7, 7⟩
abbrev calMstat_STALE : FRef := ⟨.calMstat, 6, 6⟩
abbrev calMstat_REC : FRef := ⟨.calMstat, 5, 5⟩
abbrev calMstat_RFAIL : FRef := ⟨.calMstat, 3, 0⟩
abbrev calRec_GEN : FRef := ⟨.calRec, 63, 32⟩
abbrev calRec_WST : FRef := ⟨.calRec, 7, 6⟩
abbrev calRec_BUSY : FRef := ⟨.calRec, 5, 5⟩
abbrev calRec_DEVX : FRef := ⟨.calRec, 4, 4⟩
abbrev calRec_C1 : FRef := ⟨.calRec, 1, 1⟩
abbrev calRec_C0 : FRef := ⟨.calRec, 0, 0⟩
end F

end Sys2Proof.Machine
end

