-- ==== Sys2Proof/Machine/Table.lean ====
section
/-! DEFINITION. Sparse tables of plain data: a table holds the entries that differ from their
default, and memory is the sorted list of the bytes that are not zero (R305, R310). -/

namespace Sys2Proof.Machine

/-- A sparse table: the listed keys with their values; every other key has the default. -/
abbrev Tab (κ α : Type) := List (κ × α)

/-- The value of a key, or `d` where it is not listed. -/
def Tab.get {κ α : Type} [DecidableEq κ] (d : α) : Tab κ α → κ → α
  | [], _ => d
  | (k, v) :: t, q => if k = q then v else Tab.get d t q

/-- The value of a key, if it is listed. -/
def Tab.find {κ α : Type} [DecidableEq κ] : Tab κ α → κ → Option α
  | [], _ => none
  | (k, v) :: t, q => if k = q then some v else Tab.find t q

/-- The table with one key set. -/
def Tab.set {κ α : Type} [DecidableEq κ] : Tab κ α → κ → α → Tab κ α
  | [], q, x => [(q, x)]
  | (k, v) :: t, q, x => if k = q then (q, x) :: t else (k, v) :: Tab.set t q x

/-- The table with one key removed, so that it reads as its default. -/
def Tab.erase {κ α : Type} [DecidableEq κ] (t : Tab κ α) (q : κ) : Tab κ α :=
  t.filter (fun e => e.1 ≠ q)

/-- Memory: the listed bytes, addresses strictly rising, no listed byte zero. -/
abbrev Memory := List Host.Cell

/-- The byte at an address; an unlisted address reads as zero (R305, R310). -/
def Memory.read : Memory → Nat → Byte
  | [], _ => 0
  | (a, b) :: m, x => if a = x then b else if x < a then 0 else Memory.read m x

/-- The memory with one byte written, in the canonical form. -/
def Memory.write : Memory → Nat → Byte → Memory
  | [], x, v => if v = 0 then [] else [(x, v)]
  | (a, b) :: m, x, v =>
    if a = x then (if v = 0 then m else (x, v) :: m)
    else if x < a then (if v = 0 then (a, b) :: m else (x, v) :: (a, b) :: m)
    else (a, b) :: Memory.write m x v

/-- The canonical form above a bound: every address at least `lo`, rising, no zero byte. -/
def Memory.wfFrom : Nat → Memory → Bool
  | _, [] => true
  | lo, (a, b) :: m => decide (lo ≤ a) && decide (b ≠ 0) && Memory.wfFrom (a + 1) m

/-- The canonical form of memory. -/
def Memory.wf (m : Memory) : Bool := Memory.wfFrom 0 m

/-- The memory with consecutive bytes written from an address. -/
def Memory.writeBytes (m : Memory) (a : Nat) : List Byte → Memory
  | [] => m
  | b :: bs => Memory.writeBytes (Memory.write m a b) (a + 1) bs

/-- `n` consecutive bytes from an address. -/
def Memory.readBytes (m : Memory) (a : Nat) : Nat → List Byte
  | 0 => []
  | n + 1 => Memory.read m a :: Memory.readBytes m (a + 1) n

end Sys2Proof.Machine
end

