-- ==== Sys2Proof/Machine/State.lean ====
section
/-! DEFINITION. The state of the device as plain data: every register, buffer, queue and mode the
spec gives it, the queue of waiting commands, and the counter of free values. -/

namespace Sys2Proof.Machine

/-- Why a step can stop with a fault. The spec gives every command of the table an effect, so no
meaning answers with a fault. -/
inductive Fault where
  /-- Raised by no command: the table's rows all have effects. Safe. -/
  | none
  deriving DecidableEq, Repr

/-- Why a command is refused. -/
inductive Refusal where
  /-- A row with no meaning yet, by its mnemonic; raised by the dispatcher alone. Safe. -/
  | notModelled (mnemonic : String)
  deriving DecidableEq, Repr

/-- The run state of a core (R431–R434, R96, R128, R460); `draining` is that of a core whose reset has not
ended. -/
inductive RunState where
  | held | run | c1 | c6 | stopped | halted | stepping | draining
  deriving DecidableEq, Repr

/-- Memory types (R144, R165). -/
inductive MemType where
  | cached | ordered | combining
  deriving DecidableEq, Repr

/-- The identity of a translation, for invalidation (R157, R159). -/
structure TlbTag where
  vmid : Nat
  asid : Nat
  g : Bool
  sz : Nat
  vpn : Nat
  deriving DecidableEq, Repr

/-- A TLB entry (R156): its identity, the frame (address bits [51:12]), type, key, rights in the
order SR SW SX UR UW UX from bit 0, dirty bit, and whether it is locked (R158). -/
structure TlbEnt where
  tag : TlbTag
  frame : Nat
  mt : Nat
  key : Nat
  rights : Nat
  d : Bool
  locked : Bool
  deriving DecidableEq, Repr

/-- The part of a store that lies in a second page: its physical address, bytes, type and the
translation used (R51). -/
structure SbRest where
  pa : Nat
  bytes : List Byte
  mt : MemType
  tag : Option TlbTag
  deriving DecidableEq, Repr

/-- What a store of the store buffer is: a program's, a part of a sampling record (R421), or of a counter
dump (R423). -/
inductive SbKind where
  | program | sample | dump
  deriving DecidableEq, Repr

/-- A retired store that is not yet performed (R109, R173): its physical address, bytes, type, the
virtual address for R271, the translation used, and the orders it keeps: `fence` waits for every
older store (SSYNC), `rel` is an STL. `rest` is its part in a second page; the store is performed, or
discarded, as a whole (R271). -/
structure SbEntry where
  pa : Nat
  bytes : List Byte
  mt : MemType
  va : Word
  tag : Option TlbTag
  fence : Bool
  rel : Bool
  rest : Option SbRest := none
  kind : SbKind := .program
  deriving DecidableEq, Repr

/-- A line of the combining buffer (R72): line address, written bytes, data, the translations
used, the virtual address of its first store (R271), and whether it has been issued: it then takes no
more bytes, and leaves when its home accepts it. -/
structure CbLine where
  line : Nat
  mask : BitVec 64
  data : Line
  va : Word
  tags : List TlbTag
  issued : Bool := false
  deriving DecidableEq, Repr

/-- A latched fabric store error (R271). -/
structure FabErr where
  timeout : Bool
  retry : Bool
  wr : Bool
  va : Word
  pa : Nat
  deriving DecidableEq, Repr

/-- The response to an operation that is issued only once, such as an atomic or an uncached load,
held in the check buffer until its instruction retires (R88, R116). -/
inductive Chk where
  | value (v : Nat)
  | poison
  | nak (retry : Bool)
  | timeout
  deriving DecidableEq, Repr

/-- What a sample record says of the sampled instruction (R420), and whether that is a control transfer. -/
structure SampleRec where
  pc : Word
  dva : Word
  tb : Nat
  flags : Nat
  asid : Nat
  vmid : Nat
  pl : Nat
  npc : Word
  ctl : Bool
  deriving DecidableEq, Repr

/-- An armed sample (R419): the overflowing counter, its event, and what the sampled instruction
left when it retired. -/
structure Sample where
  ctr : Nat
  event : Nat
  record : Option SampleRec
  deriving DecidableEq, Repr

/-- The core's side of the sampling ring (R421): WIDX, its copy of RIDX, LOST, and whether a read of RIDX
is due. -/
structure PsbRing where
  widx : Nat
  ridx : Nat
  lost : Nat
  due : Bool := false
  deriving DecidableEq, Repr

/-- The first memory access of the instruction now running: its effective address and the FLAGS
bits of R420 known so far; and how many accesses of it have gone to fabric space (R415). -/
structure FirstAcc where
  valid : Bool
  addr : Word
  flags : Nat
  fab : Nat
  deriving DecidableEq, Repr

/-- A control transfer with which a core has trained its predictors (R101, R104): where it lies,
where it went, and the level and VM under which it was trained. -/
structure Trained where
  pc : Word
  target : Word
  pl : Nat
  vmid : Nat
  deriving DecidableEq, Repr

/-- One core: its registers (R30, R34, R53), buffers, TLBs and run state. `tlb` is the L2 TLB, `itlb` and
`dtlb` the L1 TLBs (R156); `pred` is what the predictor tables of R101 have been trained with, the newest
first; `evs` are the events that the current instruction counts when it retires (R413), and `skip` the
counter that it has written (R10; 8: another system register, R116); `fails` counts the failed retirement
checks of the current instruction (R341), `eclDue` says that an eclipse move starts at the next retirement
boundary, `late` are the stores of records and dumps that wait for a place in the store buffer (R97), `must`
that the current instruction has issued what acceptance must wait for (R116), and `c6due` that a core in C1
is on its way to C6 (R434). -/
structure Core where
  g : Vector Word 32
  v : Vector Vec 32
  pc : Word
  hrs : Vector Word 32
  run : RunState
  sb : List SbEntry
  late : List SbEntry
  cb : List CbLine
  tlb : List TlbEnt
  itlb : List TlbEnt
  dtlb : List TlbEnt
  pred : List Trained
  evs : List Nat
  skip : Option Nat
  bitmap : List (Nat × Nat)
  wait : Option Instr
  later : List Instr
  got : Tab Nat Chk
  latch : Option FabErr
  fence : Bool
  waitt : Option (Word × GReg)
  sample : Option Sample
  ring : PsbRing
  acc : FirstAcc
  dumps : Nat
  ipi : List Nat
  fails : Nat
  eclDue : Bool
  must : Bool
  c6due : Bool
  deriving DecidableEq, Repr

/-- A core after a reset: HELD, with empty buffers and TLBs (R104, R158, R190); the registers the
spec leaves undefined hold 0 (DESIGN CHOICE, assumption 1). -/
def Core.reset : Core :=
  { g := Vector.replicate 32 0, v := Vector.replicate 32 0, pc := 0,
    hrs := Vector.replicate 32 0, run := .held, sb := [], late := [], cb := [], tlb := [], itlb := [],
    dtlb := [], pred := [], evs := [], skip := none, bitmap := [],
    wait := none, later := [], got := [], latch := none, fence := false, waitt := none,
    sample := none,
    ring := ⟨0, 0, 0, false⟩, acc := ⟨false, 0, 0, 0⟩, dumps := 0, ipi := [], fails := 0,
    eclDue := false, must := false, c6due := false }

/-- Kinds of poison (R292). -/
inductive Poison where
  | uncorr | lost | fwd
  deriving DecidableEq, Repr

/-- What a node holds of a line of fabric memory (R193): nothing, a shared copy, or the line
exclusively. -/
inductive Right where
  | none | shared | excl
  deriving DecidableEq, Repr

/-- A partner that holds a line: its node ID, the partner epoch recorded, and the address in the
form its request carried (R196, R224), and the vport of the window it came through (R285). -/
structure Partner where
  node : Nat
  epoch : Nat
  ra : Nat
  vport : Nat
  deriving DecidableEq, Repr

/-- The record of one line at its home or proxy slice (R195, R196): the local cores that hold it,
the F core, the local owner; the modified data of the owner (for a fabric line, the data this node
holds) and whether that is poison, the memory-side-cache copy that DRAM does not hold yet and its kind of
poison (R292), the partner sharers in the order
recorded with their epochs, the partner owner (true: X-W), whether the owner's hold window runs,
whether its end waits for the owner's access (R203), and the time of last use. -/
structure LineRec where
  present : List Nat
  fcore : Option Nat
  owner : Option Nat
  data : Option Line
  dpois : Bool := false
  dirty : Bool
  msc : Option Line
  mpois : Option Poison := none
  partners : List Partner
  powner : Option (Partner × Bool)
  right : Right
  hold : Bool
  due : Bool
  stamp : Nat
  deriving DecidableEq, Repr

/-- A line that no cache holds (NONE). -/
def LineRec.none : LineRec :=
  { present := [], fcore := .none, owner := .none, data := .none, dirty := false, msc := .none,
    partners := [], powner := .none, right := .none, hold := false, due := false, stamp := 0 }

/-- The requests a home serves (R197); `orByte` is the atomic OR of a dirty log (R285). -/
inductive HReq where
  | rdS (spec : Bool)
  | rdX
  | upg
  | rdCur
  | wrLine (mask : BitVec 64) (data : Line) (pois : Bool)
  | atom (off : Nat) (op : AtomOp)
  | orByte (off : Nat) (v : Nat)
  | cinv
  | ccln
  | cfls
  deriving DecidableEq, Repr

/-- Who a home serves: a requester of R197, or the device itself (its rings, logs and service
writes). -/
inductive Who where
  | req (r : Requester)
  | device
  deriving DecidableEq, Repr

/-- A request waiting at a home: the requester, the local line, the address in the requester's own
form, the answers of partners already received for it (node, data if sent and whether it is poison),
the vport on whose behalf it is made (0: none that logs), whether an instruction or a channel
waits for its answer, the tide flow of a partner's request (R247), the window entry that translated
it, and whether that entry has been removed or replaced since (R277). -/
structure HomeReq where
  who : Who
  line : Nat
  ra : Nat
  req : HReq
  snooped : List (Nat × Option (Line × Bool))
  vport : Nat := 0
  wants : Bool := true
  flow : Nat := 0
  win : Option Nat := none
  gone : Bool := false
  deriving DecidableEq, Repr

/-- What a home answers: a line's data, the old value of an atomic, and whether it read poison. -/
structure HVal where
  data : Line
  old : Nat
  pois : Bool
  deriving DecidableEq, Repr

/-- Snoops to partners (R201, R225). -/
inductive SnoopKind where
  | rclS | rclI | binv | snpCur | snpCln
  deriving DecidableEq, Repr

/-- A snoop that has no answer yet, with the sequence numbers of its sendings (R201). -/
structure Snoop where
  line : Nat
  node : Nat
  ra : Nat
  kind : SnoopKind
  tag : Nat
  sseqs : List Nat
  deriving DecidableEq, Repr

/-- A reclaim of a node (R207): the epoch that started it by R243, if one did; what it has counted;
the list entries not yet written (R210), and the PARTNER_DEAD commands that its end answers
(R208). -/
structure Reclaim where
  node : Nat
  epoch : Option Nat
  poisoned : Nat
  todo : List Nat
  dropped : Nat
  discarded : Nat
  cmds : List Command
  deriving DecidableEq, Repr

/-- For whom an outbound fabric request was sent: a load or atomic of a core, a fill of a cached line
behind a non-coherent reach, a line for a buffered store, a store or cache operation itself, a walk,
a comet channel, one that has been dropped since (R331), a proxy slice on its own, a request row that
no instruction waits for, or the debug TAP (R460). -/
inductive TxWho where
  | load (c : Nat)
  | fill (c : Nat)
  | line (c : Nat)
  | store (c : Nat) (va : Word) (wr : Bool)
  | walk (c : Nat)
  | comet (n : Nat)
  | dropped (n : Nat)
  | proxy
  | row (c : Nat)
  | tap
  deriving DecidableEq, Repr

/-- An outbound fabric request that has no response yet (R464): `busy` waits for its resend after a
RETRY_BUSY. One with tag 16,384 has not been sent: it waits for a tag (R17, R224). -/
structure Tx where
  tag : Nat
  who : TxWho
  pa : Nat
  reach : Nat
  msg : Msg
  busy : Bool
  deriving DecidableEq, Repr

/-- The parameter block of a vport (R279): owning VM, mode, quotas and pool ranges, the paired vport
of a REMOTE one, the mailbox area and the dirty log. -/
structure VParam where
  vmid : Nat
  lidx : Nat
  freeze : Bool
  remote : Bool
  wquota : Nat
  pvport : Nat
  rbase : Nat
  rcnt : Nat
  fbase : Nat
  fcnt : Nat
  cbase : Nat
  ccnt : Nat
  monbase : Nat
  moncnt : Nat
  pnode : Nat
  pflow : Nat
  mbox : Nat
  logbase : Nat
  loglo : Nat
  logpages : Nat
  deriving DecidableEq, Repr

/-- An event-log record (R350): `seq` is none while a corrected record is open to merging (R351). -/
structure LogRec where
  tb : Nat
  seq : Option Nat
  code : Nat
  cls : Nat
  kind : Nat
  unit : Nat
  node : Nat
  count : Nat
  addr : Nat
  d0 : Nat
  d1 : Nat
  d2 : Nat
  deriving DecidableEq, Repr

/-- A DATA flit inside the node (R221, R222): the header fields that pass end to end, the hops and
ALT it has, and its payload granules in use. -/
structure Flit where
  cls : Nat
  vc : Bool
  alt : Bool
  dst : Nat
  src : Nat
  sepoch : Nat
  hops : Nat
  flow : Nat
  payload : List (BitVec 128)
  deriving DecidableEq, Repr

/-- A flit queued for an egress port, with the ingress port and pool whose buffer it holds; `tide`
says that it is a TC0 VC 0 flit of an admitted flow (R249), and `came` is the port on which it arrived
at this node (R237). -/
structure QFlit where
  flit : Flit
  src : Option (Nat × Nat)
  tide : Bool
  came : Option Nat := none
  deriving DecidableEq, Repr

/-- The link state of a port (R217–R234): the training phase (0 when not training), the
offset of the first lane in use, failures of phases 4 and 5 in succession, whether the next attempt
starts from defaults, whether it runs NRZ, whether the group's spare trains with it; whether the codeword
that arrived last has decoded; the sequence numbers,
replay buffer and resends in succession; whether a NAK waits for LSEQ `rxNext`, flits accepted since
the last acknowledgement sent; credits held for the peer's pools, and those that it holds, or has used,
for the receive pools of this port (R227); the egress queue and the turn of
the 3-to-1 choice; the flits that the port has put on its lanes, and the CTRL words that the peer has not
acknowledged (R222). -/
structure Link where
  phase : Nat
  lo : Nat
  fails : Nat
  plain : Bool
  nrz : Bool
  spare : Bool
  last : Option Nat
  lseq : Nat
  rxNext : Nat
  replay : List (Nat × Flit × Option Nat)
  resends : Nat
  discard : Bool
  toAck : Nat
  credits : Tab Nat Nat
  given : Tab Nat Nat
  queue : List QFlit
  turn : Nat
  wire : List (BitVec 2048)
  txBits : Nat
  txLen : Nat
  lanes : Tab Nat (List Nat)
  ctrls : List Ctrl
  deriving DecidableEq, Repr

/-- A link that has never trained. -/
def Link.reset : Link :=
  { phase := 0, lo := 0, fails := 0, plain := false, nrz := false, spare := false,
    last := some 0, lseq := 0, rxNext := 0,
    replay := [], resends := 0,
    discard := false, toAck := 0, credits := [], given := [], queue := [], turn := 0,
    wire := [], txBits := 0, txLen := 0, lanes := [], ctrls := [] }

/-- The token bucket of a flow (R252): its level in 1/1,920,000 of a flit, the TB it was brought up
to, and the flits that wait for a token. -/
structure Bucket where
  level : Nat
  tb : Nat
  queue : List QFlit
  deriving DecidableEq, Repr

/-- A staged route record (R388). -/
structure Staged where
  id : Nat
  self : Bool
  revive : Bool
  deriving DecidableEq, Repr

/-- A command in its lane (R384): its opcode and whether it has begun. -/
structure Job where
  op : Nat
  cmd : Command
  begun : Bool
  deriving DecidableEq, Repr

/-- An entry of the reply cache (R382, R383); `more` holds where the request has arrived again from
while its command had not completed. -/
structure CacheEnt where
  seq : Nat
  mac : List Byte
  reply : Option (List Byte)
  more : List Origin
  deriving DecidableEq, Repr

/-- A message of VC 0 that no transaction stands for, after its sending: the TB of that sending, and
the TB at which it is sent again after a RETRY_BUSY (R225). -/
structure Posted where
  msg : Msg
  sent : Nat
  again : Option Nat
  deriving DecidableEq, Repr

/-- The fabric side of the device beyond its registers: link states, the ordering state of R236 (next SSEQ
and TB of the last message) and the messages held ahead of a gap, the shadow bank and the records staged
(R261), PROBEs sent without an answer, the TB of the last flit accepted and of the oldest request by node
(R244), token buckets, the width code at which each flow's pin was admitted and the members excluded from a
pin (R260), the snoops that a hold window defers (R202), the flits that have reached this node, with their
port of arrival (512: sourced here; 513: sourced here and discarded), the lanes that hold kept coefficients
(R443), the messages without a transaction that were sent last (R225), and the TB at which the copy of the
banks began (R263). -/
structure Fab where
  links : Tab Nat Link
  order : Tab (Nat × Nat) (Nat × Nat)
  gaps : List Msg
  shadow : Tab Nat Word
  staged : List Staged
  probes : Tab Nat Nat
  heard : Tab Nat Nat
  buckets : Tab Nat Bucket
  width : Tab Nat Nat
  excl : List (Nat × Nat)
  deferred : List Msg
  inbox : List (Nat × Flit)
  kept : List Nat
  posted : List Posted
  copyAt : Nat
  deriving DecidableEq, Repr

/-- What a waiting comet channel waits for (R323). -/
inductive CWait where
  | doorbell
  | until (t : Nat)
  | value
  deriving DecidableEq, Repr

/-- A comet channel beyond its registers (R318–R332): the current instruction's address, the loop
counters, the recorded progress of a MOVE or GATHER, bytes since the last hold point, what it waits
for, the retries of the current access after WINDOW_MISS, whether it waits for the 5 µs of R327, the
responses that have come back, the accesses that the current step has done, the instruction as it was
read (R319), the list pair as it was read, and word 0 of a failed instruction while its write waits
(R328). -/
structure Chan where
  pc : Nat
  l0 : Nat
  l1 : Nat
  prog : Bool
  src : Nat
  dst : Nat
  left : Nat
  pairs : Nat
  sinceHold : Nat
  wait : Option CWait
  retries : Nat
  retrying : Bool
  got : Tab Nat Chk
  done : Tab Nat (Nat × Bool)
  cur : Option (Nat × Nat × Nat × Nat)
  pair : Option (Nat × Nat)
  bad : Option Nat
  deriving DecidableEq, Repr

/-- A channel after a reset; the values that the spec leaves undefined are 0 (assumption 1). -/
def Chan.reset : Chan :=
  { pc := 0, l0 := 0, l1 := 0, prog := false, src := 0, dst := 0, left := 0, pairs := 0,
    sinceHold := 0, wait := none, retries := 0, retrying := false, got := [], done := [],
    cur := none, pair := none, bad := none }

/-- The timebase block beyond its registers: the low-half latches (R396; key 128 is the TAP's), the
capture queues (time stamp and LOST), the pins TIME_OUT and PPS_OUT with the TB at which a pulse
ends, the discipline (correction per interval in 1/64 ns, its remainder, offsets within 50 ns in
succession, the TB of the last TSYNC accepted by port), a waiting TIME_SET (R391, R401), the next event
time of each enabled generator (R403, R404) and the latest second of TB at which PPS_OUT acted
(R410). `left` are the ticks for which the rate still removes an offset (R401), `rx` the TB at which each
TSYNC held ahead of a gap came (R401), `popped` the TB of the latest pop of each capture channel, and
`dropped` the captures that its full queue has dropped in one tick: their TB and number, with OVF and the
newest entry's LOST as they were before (R408). -/
structure Time where
  latch : Tab Nat Nat
  caps : Tab Nat (List (Nat × Bool))
  tout : Tab Nat (Bool × Option Nat)
  pps : Option Nat
  freq : Int
  corr : Int
  acc : Int
  good : Nat
  tsync : Tab Nat Nat
  timeSet : Option (Command × Nat × Nat)
  peg : Tab Nat Nat
  sec : Nat
  left : Nat
  rx : List (Msg × Nat)
  popped : Tab Nat Nat
  dropped : Tab Nat (Nat × Nat × Bool × Bool)
  deriving DecidableEq, Repr

/-- A copy of the user calibration record (R445): generation, device ID, and for each unit that has
an entry whether it is valid and stale. -/
structure CalCopy where
  gen : Nat
  devid : Nat
  ents : Tab Nat (Bool × Bool)
  deriving DecidableEq, Repr

/-- What outlives a COLD reset: fuses (bytes of R372), boot flash (bytes, complemented so that an unlisted
byte reads as erased 0xFF) with the 4 KiB sectors that fail (R358, R363), the calibration record's two
copies, the repair record (retired core of a cluster, slice, logical channels in order, replaced columns,
disabled ways) and the rack key it holds wrapped (R348, R354, R372, R381). -/
structure Keep where
  fuses : Memory
  flash : Memory
  flash2 : Bool
  flashBad : List Nat
  cal0 : Option CalCopy
  cal1 : Option CalCopy
  cores : Tab Nat Nat
  slice : Option Nat
  chans : List Nat
  columns : List (Nat × Nat × Nat × Nat)
  ways : List (Nat × Nat × Nat)
  key : Option (List Byte)
  deriving DecidableEq, Repr

/-- A change of boot flash as power found it, which a loss of power may tear (R363): `n` bytes from an
offset that are erased or programmed in units of so many bytes, rising, and the cells that they held; or a
copy of the calibration record and what it was. -/
inductive FlashOp where
  | bytes (off n unit : Nat) (old : Memory)
  | cal (i : Nat) (old : Option CalCopy)
  deriving DecidableEq, Repr

/-- The service side beyond its registers: SESSION, the words shifted into SVC_KEYW, the reply
cache, the two lanes, the I3C target (dynamic address, interrupts enabled, the data byte of one raised,
requests not yet taken, pending replies), replies held for the ring, the staging of FW_STAGE, the live
activation that runs (old and new sequence), the PORT_SETs that PS1 holds (R377–R393, R437), and the changes
of flash at the TB of the last one, oldest first (R363). -/
structure Svc where
  session : List Byte
  keyw : List Word
  cache : List CacheEnt
  main : List Job
  flash : List Job
  addr : Option (BitVec 7)
  ibi : Bool
  ibiRaised : Option Byte
  i3cq : List (List Byte)
  replies : List (List Byte)
  rspHeld : List (List Byte)
  staging : Bool
  live : Option (Nat × Nat)
  portSets : List Command
  flashAt : Nat
  flashOps : List FlashOp
  deriving DecidableEq, Repr

/-- Power, reset and debug state: OFF, the reset pins, a boot that is to start (true: COLD), whether
the device is halted by a fatal error or by the ROM, whether the service image runs and since which
TB, PS1, the low-period of TAMPER_N, THERMTRIP_N, the sampled I3C_SA0; a pending life-cycle change
and floor burn; and the TAP: Test-Logic-Reset, EXTEST loaded, boundary register, the captured data
and status, the unlock nonce and failed attempts, and a memory access of the TAP that waits (write,
address, data). -/
structure Dev where
  off : Bool
  coldLow : Bool
  warmLow : Bool
  bootDue : Option Bool
  halted : Bool
  romHalt : Bool
  service : Bool
  since : Nat
  ps1 : Bool
  tamperLow : Bool
  thermtrip : Bool
  sa0 : Bool
  lcTarget : Option Nat
  floorTarget : Option Nat
  tlr : Bool
  extest : Bool
  boundary : Nat
  tdo : Nat
  dbgStatus : Nat
  nonce : Option (List Byte)
  unlockFails : Nat
  dbg : Option (Bool × Nat × Word)
  deriving DecidableEq, Repr

/-- What the last access from outside the cores returned: the value of a register read, the bytes of an I3C
read, and whether the I3C target refused its address (R377). -/
structure Out where
  word : Word
  bytes : List Byte
  nack : Bool
  deriving DecidableEq, Repr

/-- The state of the whole device. Among the fields: `poison` lists the lines that DRAM or the scratchpad
holds poisoned one by one, or cleared since their channel's bulk poisoning; `bulk` the logical channels
whose every line is UNCORR until wholly written (R303), `deadCh` those out of service, whose every line
reads as poison, and `twin` those with stripes of two unreadable members, from a device line on (R304), and
`degraded` those served by reconstruction (R301); `bad` how the parity and metadata lines of DRAM, by
channel and device line, differ from what the data lines give, `ccache` the metadata lines in the check
cache of each quadrant and set, the most recent first, as channel, frame and whether DRAM does not hold it
yet (R296), `fixes` the times of each channel's recent corrections (R301), `rebuilt` the quadrants whose
rebuild has written its last frame (R302), `spdBad` the bits of each scratchpad word's codeword that differ
from what was written, by the word's address over 8 (R307); `copying` the column repairs under way (R339)
and `calBad` the channels whose last recalibration step failed (R452); `vjobs` the vport commands that have
not ended; `proxyQ` the cores that wait at a proxy slice for a line of fabric memory, in their order of
arrival (R203), and `copies` the block copies in progress whose destination is undefined, by what tells the
copy of one thread from another's (R80; the model's own); `replays` the times of recent replays by core,
`moves` the eclipse moves running, with their start and how many counter dumps have fallen into the pause;
`migrating` the slice migration and its start; `needSpare` the slices that need migration meanwhile (R29);
`rebuildAt` the start of each quadrant's rebuild. -/
structure State where
  pending : List Instr
  free : Nat
  regs : Tab (Reg × Nat) Word
  warmed : Bool
  cores : Tab Nat Core
  mem : Memory
  poison : Tab Nat (Option Poison)
  bulk : List Nat
  deadCh : List Nat
  twin : List (Nat × Nat)
  degraded : List Nat
  bad : Tab (Nat × Nat) Line
  ccache : Tab (Nat × Nat) (List (Nat × Nat × Bool))
  fixes : Tab Nat (List Nat)
  rebuilt : List Nat
  spdBad : Tab Nat (List Nat)
  spdFix : Tab (Nat × Nat) (List Nat)
  wayOut : Tab (Nat × Nat × Nat) (List Nat)
  lines : Tab Nat LineRec
  stamp : Nat
  homeQ : List HomeReq
  homeDone : List (HomeReq × HVal)
  proxyQ : List (Nat × Nat)
  copies : List (List Nat)
  snoops : List Snoop
  txs : List Tx
  reclaims : List Reclaim
  sseq : Tab (Nat × Nat) (Nat × Nat)
  outbox : List Msg
  fab : Fab
  winUse : Tab Nat Nat
  missQ : List Nat
  missOvf : Bool
  vps : Tab Nat VParam
  vjobs : Tab Nat Nat
  vmsgs : Tab Nat (List (Nat × Nat × Nat))
  chans : Tab Nat Chan
  etlb : Tab Nat (List TlbEnt)
  time : Time
  keep : Keep
  svc : Svc
  dev : Dev
  out : Out
  replays : Tab Nat (List Nat)
  moves : Tab Nat (Nat × Nat)
  migrating : Option (Nat × Nat)
  needSpare : List Nat
  rebuildAt : Tab Nat Nat
  copying : List (Nat × Nat × Nat × Nat)
  calBad : List Nat
  resets : List Nat
  logHeld : List LogRec
  logSeq : Nat
  deriving DecidableEq, Repr

/-- The fabric side with no link, no ordering state and nothing staged. -/
def Fab.reset : Fab :=
  { links := [], order := [], gaps := [], shadow := [], staged := [], probes := [], heard := [],
    buckets := [], width := [], excl := [], deferred := [], inbox := [], kept := [],
    posted := [], copyAt := 0 }

/-- The timebase block after COLD. -/
def Time.reset : Time :=
  { latch := [], caps := [], tout := [], pps := none, freq := 0, corr := 0, acc := 0, good := 0,
    tsync := [], timeSet := none, peg := [], sec := 0, left := 0, rx := [], popped := [],
    dropped := [] }

/-- Unburned fuses, erased flash and an empty repair record (DESIGN CHOICE, assumption 5). -/
def Keep.blank : Keep :=
  { fuses := [], flash := [], flash2 := false, flashBad := [], cal0 := none, cal1 := none, cores := [],
    slice := none, chans := [], columns := [], ways := [], key := none }

/-- The service side before the boot flow has run. -/
def Svc.reset : Svc :=
  { session := List.replicate 16 0, keyw := [], cache := [], main := [], flash := [], addr := none, ibi := false,
    ibiRaised := none, i3cq := [], replies := [], rspHeld := [], staging := false, live := none,
    portSets := [], flashAt := 0, flashOps := [] }

/-- The device after a COLD reset: powered, its boot flow due (R364), the TAP in
Test-Logic-Reset by the pull-down of TRST_N (R460). -/
def Dev.reset : Dev :=
  { off := false, coldLow := false, warmLow := false, bootDue := some true, halted := false,
    romHalt := false, service := false, since := 0, ps1 := false, tamperLow := false,
    thermtrip := false, sa0 := false, lcTarget := none, floorTarget := none, tlr := true,
    extest := false, boundary := 0, tdo := 0, dbgStatus := 0, nonce := none, unlockFails := 0,
    dbg := none }

/-- The machine right after a COLD reset (R428): every register at its Cold value, memory with
nothing listed, no command waiting. -/
def State.reset : State :=
  { pending := [], free := 0, regs := [], warmed := false, cores := [], mem := [], poison := [], bulk := [],
    deadCh := [], twin := [], degraded := [], bad := [], ccache := [], fixes := [], rebuilt := [],
    spdBad := [], spdFix := [], wayOut := [],
    lines := [], stamp := 0, homeQ := [], homeDone := [], proxyQ := [], copies := [], snoops := [], txs := [], reclaims := [],
    sseq := [], outbox := [], fab := Fab.reset, winUse := [], missQ := [], missOvf := false,
    vps := [], vjobs := [], vmsgs := [], chans := [], etlb := [], time := Time.reset, keep := Keep.blank,
    svc := Svc.reset, dev := Dev.reset, out := ⟨0, [], false⟩, replays := [], moves := [],
    migrating := none, needSpare := [], rebuildAt := [], copying := [], calBad := [], resets := [], logHeld := [], logSeq := 0 }

end Sys2Proof.Machine
end

