-- ==== Sys2Proof/Machine/Ops.lean ====
section
/-! DEFINITION. The named operations over registers, cores, memory lines, pending interrupts and
the event log. -/

namespace Sys2Proof.Machine

/-! Registers. -/

/-- The value of a reset entry; a fuse entry is loaded by the reset itself, and a value that the
spec leaves undefined is 0 (DESIGN CHOICE, assumption 1). -/
def Init.value (old : Nat) : Init → Nat
  | .val n => n
  | .keep => old
  | .fuse => 0
  | .undef => 0

/-- The reset values of a register: its fields by the Cold or Warm column (R12). -/
def Reg.resetNat (r : Reg) (warm : Bool) (old : Nat) : Nat :=
  r.fields.foldl (fun acc f =>
    setBitsOf acc f.hi f.lo ((if warm then f.warm else f.cold).value (bitsOf old f.hi f.lo))) 0

/-- What the tables do not show: CORE_ID is the core's own number (R63), CMT_CFG.PRIV is 1 for the
first 64 channels only (R311), and with unburned fuses the life cycle is BLANK, whose TAP is open
(R368). -/
def Reg.unitFix (r : Reg) (i v : Nat) : Nat :=
  match r with
  | .coreId => (i % 128) * 65536 + i % 128
  | .lcState => setBitsOf v 9 8 2
  | .cmtCfg => if i < 64 then v else setBitsOf v 1 1 0
  | _ => v

/-- The value a register has after a reset if nothing has written it. -/
def Reg.base (r : Reg) (warm : Bool) (i : Nat) : Word :=
  let cold := r.resetNat false 0
  w64 (r.unitFix i (if warm then r.resetNat true cold else cold))

/-- The value of register `r` of unit `i`. -/
def rd (s : State) (r : Reg) (i : Nat) : Word :=
  Tab.get (r.base s.warmed i) s.regs (r, i)

/-- The state with register `r` of unit `i` set. -/
def wr (s : State) (r : Reg) (i : Nat) (v : Word) : State :=
  { s with regs := Tab.set s.regs (r, i) v }

/-- A field of a register. -/
def fget (s : State) (f : FRef) (i : Nat) : Nat := bitsOf (rd s f.reg i).toNat f.hi f.lo

/-- A one-bit field. -/
def fbit (s : State) (f : FRef) (i : Nat) : Bool := n2b (fget s f i)

/-- The state with a field of a register set. -/
def fput (s : State) (f : FRef) (i v : Nat) : State :=
  wr s f.reg i (w64 (setBitsOf (rd s f.reg i).toNat f.hi f.lo v))

/-- A counting field raised by `n`, saturating. -/
def fsat (s : State) (f : FRef) (i n : Nat) : State :=
  fput s f i (min (fget s f i + n) (2 ^ (f.hi + 1 - f.lo) - 1))

/-- A counting field raised by `n`, wrapping. -/
def fadd (s : State) (f : FRef) (i n : Nat) : State := fput s f i (fget s f i + n)

/-! Cores. -/

/-- Core `c`. -/
def coreOf (s : State) (c : Nat) : Core := Tab.get Core.reset s.cores c

/-- The state with core `c` replaced. -/
def setCore (s : State) (c : Nat) (k : Core) : State :=
  { s with cores := Tab.set s.cores c k }

/-- The state with core `c` changed by `f`. -/
def modCore (s : State) (c : Nat) (f : Core → Core) : State := setCore s c (f (coreOf s c))

/-- General register `r` of core `c` (R30). -/
def getG (s : State) (c : CoreNo) (r : GReg) : Word := (coreOf s c).g.get r

/-- The state with general register `r` of core `c` set. -/
def setG (s : State) (c : CoreNo) (r : GReg) (v : Word) : State :=
  modCore s c (fun k => { k with g := k.g.set r v })

/-- Vector register `r` of core `c` (R34). -/
def getV (s : State) (c : CoreNo) (r : VReg) : Vec := (coreOf s c).v.get r

/-- The state with vector register `r` of core `c` set. -/
def setV (s : State) (c : CoreNo) (r : VReg) (v : Vec) : State :=
  modCore s c (fun k => { k with v := k.v.set r v })

/-- Condition register `r` of core `c` (R32). -/
def getC (s : State) (c : CoreNo) (r : CReg) : Nat := bitsOf (rd s .creg c).toNat (4 * r + 3) (4 * r)

/-- The state with condition register `r` of core `c` set. -/
def setC (s : State) (c : CoreNo) (r : CReg) (v : Nat) : State :=
  wr s .creg c (w64 (setBitsOf (rd s .creg c).toNat (4 * r + 3) (4 * r) v))

/-- The program counter of core `c`. -/
def getPc (s : State) (c : Nat) : Word := (coreOf s c).pc

/-- The state with the program counter of core `c` set. -/
def setPc (s : State) (c : Nat) (v : Word) : State := modCore s c (fun k => { k with pc := v })

/-- The stack pointer g31 (R30). -/
def spReg : GReg := 31

/-- The current privilege level (R36). -/
def plOf (s : State) (c : Nat) : Nat := fget s F.pstate_PL c

/-- The mask level. -/
def mlOf (s : State) (c : Nat) : Nat := fget s F.pstate_ML c

/-- Stores enter the store buffer of core `c`, which has 96 entries; what has no place there follows as
places become free (R97). -/
def pushStores (s : State) (c : Nat) (es : List SbEntry) : State :=
  modCore s c (fun k =>
    let all := k.sb ++ k.late ++ es
    { k with sb := all.take 96, late := all.drop 96 })

/-- Whether core `c` is fenced: an eclipse move of it runs, or one is to start at the retirement boundary
that it has reached (R341, R342). -/
def fenced (s : State) (c : Nat) : Bool :=
  (Tab.find s.moves c).isSome || ((coreOf s c).eclDue && decide ((coreOf s c).fails = 0))

/-- Whether a core runs instructions. -/
def Core.active (k : Core) : Bool := decide (k.run = .run) || decide (k.run = .stepping)

/-- A free value: the opaque constant at the counter, which then advances. -/
def takeFree (s : State) : Nat × State :=
  (Config.freeValue s.free, { s with free := s.free + 1 })

/-! Physical regions (R21, R22, R267, R306, R308). -/

/-- One past the highest visible local DRAM address (R22). -/
def visTop (s : State) : Nat :=
  if fbit s F.memqMode_PMODE 0 then 0x3480000000 else 0x3C00000000

/-- The scratchpad's base, the base of its secure part, and its end (R21). -/
def spdBase : Nat := 0x10000000000
def spdSecure : Nat := 0x10001E00000
def spdEnd : Nat := 0x10002000000

/-- The first 1 MiB of the secure part, which belongs to the moon cores: to a core and to a comet
channel its addresses do not exist (R365). -/
def moonPart (pa : Nat) : Bool := decide (spdSecure ≤ pa) && decide (pa < spdSecure + 0x100000)

/-- Where a physical address lies. -/
inductive Region where
  | dram | spd | secure
  | fabric (i : Nat)
  | absent
  deriving DecidableEq, Repr

/-- Whether the region of reach entry `i` covers fabric-space address `pa` (R267). -/
def reachCovers (s : State) (i pa : Nat) : Bool :=
  let a := (rd s .reachA i).toNat
  let lg := bitsOf a 56 51
  decide (bitsOf pa 50 lg = bitsOf (bitsOf a 50 21 * 2 ^ 21) 50 lg)

/-- Whether valid reach entry `i` covers fabric-space address `pa` (R267). -/
def reachHit (s : State) (i pa : Nat) : Bool := fbit s F.reachA_V i && reachCovers s i pa

/-- The lowest matching reach entry of a fabric-space address (R267). -/
def findReach (s : State) (pa : Nat) : Option Nat :=
  s.regs.foldl (fun acc e =>
    if e.1.1 = .reachA && reachHit s e.1.2 pa then
      match acc with
      | some j => if e.1.2 < j then some e.1.2 else acc
      | none => some e.1.2
    else acc) none

/-- The reach entry that a running REACH_REVOKE removes: its lines are held until step 3 of R269. -/
def revoking (s : State) : Option Nat :=
  match s.svc.main with
  | j :: _ => if j.begun && decide (j.op = 0x41) then some (leNat (j.cmd.params.take 2)) else none
  | [] => none

/-- The reach entry through which this node holds a line of fabric memory: the lowest match, among
the valid entries and the one that a running REACH_REVOKE removes (R269). -/
def heldReach (s : State) (pa : Nat) : Option Nat :=
  match revoking s, findReach s pa with
  | some i, some j => some (if reachCovers s i pa && decide (i < j) then i else j)
  | some i, none => if reachCovers s i pa then some i else none
  | none, x => x

/-- The region of a physical address. -/
def region (s : State) (pa : Nat) : Region :=
  if pa < visTop s then .dram
  else if spdBase ≤ pa ∧ pa < spdSecure then .spd
  else if spdSecure ≤ pa ∧ pa < spdEnd then .secure
  else if pa / 2 ^ 51 = 1 then
    match findReach s pa with
    | some i => .fabric i
    | none => .absent
  else .absent

/-- Whether reach `i` is coherent, and whether it is marked no-speculate. -/
def reachCoh (s : State) (i : Nat) : Bool := fbit s F.reachC_COH i
def reachNoSpec (s : State) (i : Nat) : Bool := fbit s F.reachC_NOSPEC i

/-- The remote address of a fabric-space address through reach `i` (R267). -/
def remoteAddr (s : State) (i pa : Nat) : Nat :=
  fget s F.reachB_RBASE i * 2 ^ 21 + pa % 2 ^ (fget s F.reachA_LOG2 i)

/-! Lines. -/

/-- The line record of line `l`. -/
def lrec (s : State) (l : Nat) : LineRec := Tab.get LineRec.none s.lines l

/-- The state with the record of line `l` set, and its use noted. -/
def setLrec (s : State) (l : Nat) (r : LineRec) : State :=
  { s with lines := Tab.set s.lines l { r with stamp := s.stamp }, stamp := s.stamp + 1 }

/-- The 64 bytes of line `l` in DRAM or the scratchpad bank. -/
def memLine (s : State) (l : Nat) : Line := bytesLine (Memory.readBytes s.mem (64 * l) 64)

/-- The state with the 64 bytes of line `l` written in DRAM or the scratchpad bank. -/
def setMemLine (s : State) (l : Nat) (d : Line) : State :=
  { s with mem := Memory.writeBytes s.mem (64 * l) (lineBytes d) }

/-- The value the home holds of a line: the memory-side-cache copy, else DRAM (R197). -/
def homeData (s : State) (l : Nat) : Line := ((lrec s l).msc).getD (memLine s l)

/-- The current value of a line on this node: the owner's modified data, else the home's. -/
def curLine (s : State) (l : Nat) : Line := ((lrec s l).data).getD (homeData s l)

/-- The current value of the byte at a physical address of this node, cached copies included. -/
def curByte (s : State) (pa : Nat) : Byte :=
  (curLine s (pa / 64)).extractLsb' (8 * (pa % 64)) 8

/-- fold_k of R101: the exclusive or of the consecutive k-bit chunks of a number of at most `n`
chunks. -/
def foldK (k : Nat) (x : Nat) : Nat → Nat
  | 0 => 0
  | n + 1 => (x % 2 ^ k) ^^^ foldK k (x / 2 ^ k) n

/-- Where a line lies: logical channel, device line, the parity channel if there is one, and the
device line of its metadata line. -/
structure DramPlace where
  ch : Nat
  dl : Nat
  par : Option Nat
  metaDl : Nat
  deriving DecidableEq, Repr

/-- The placement of a visible local DRAM line (R294). -/
def dramPlace (s : State) (l : Nat) : DramPlace :=
  if fbit s F.memqMode_PMODE 0 then
    let g := foldK 3 l 16
    let m := l / 8
    let d := m / 7
    let j := m % 7
    let p := d % 8
    let x := if j < p then j else j + 1
    { ch := 8 * g + x, dl := 16 * (d / 15) + d % 15, par := some (8 * g + p),
      metaDl := 16 * (d / 15) + 15 }
  else
    let d := l / 64
    { ch := foldK 6 l 8, dl := 16 * (d / 15) + d % 15, par := none,
      metaDl := 16 * (d / 15) + 15 }

/-- The logical channel of a visible local DRAM line. -/
def chanOf (s : State) (l : Nat) : Option Nat :=
  if 64 * l < visTop s then some (dramPlace s l).ch else none

/-- Whether the channel of a line is in a list. -/
def onChan (s : State) (l : Nat) (cs : List Nat) : Bool :=
  !cs.isEmpty && (match chanOf s l with
    | some c => cs.contains c
    | none => false)

/-- The kind of poison with which DRAM or the scratchpad holds a line, if it is poisoned there (R292). A
line of a channel out of service always is (R304), and one of a bulk-poisoned channel until it has been
wholly written (R303). -/
def memPoison (s : State) (l : Nat) : Option Poison :=
  if onChan s l s.deadCh then some .uncorr
  else
    match Tab.find s.poison l with
    | some k => k
    | none => if onChan s l s.bulk then some .uncorr else none

/-- The kind of poison of the home's copy of a line: that of the memory-side cache, else of the memory. -/
def homePoison (s : State) (l : Nat) : Option Poison :=
  if (lrec s l).msc.isSome then (lrec s l).mpois else memPoison s l

/-- The kind of poison that a read of a line meets: that of the modified data of its owner, else of the
home's copy. Every line of a channel out of service reads as poison (R304). -/
def poisonOf (s : State) (l : Nat) : Option Poison :=
  if onChan s l s.deadCh then some .uncorr
  else if (lrec s l).data.isSome then (if (lrec s l).dpois then some .fwd else none)
  else homePoison s l

/-- The state with the poison of a line in DRAM or the scratchpad set or cleared. -/
def setPoison (s : State) (l : Nat) (k : Option Poison) : State :=
  if k.isSome || onChan s l (s.bulk ++ s.twin.map (fun x => x.1)) then { s with poison := Tab.set s.poison l k }
  else { s with poison := Tab.erase s.poison l }

/-- Whether line `l` lies in the scratchpad, whose data lives in its bank (R192). -/
def isSpdLine (l : Nat) : Bool := decide (spdBase ≤ 64 * l ∧ 64 * l < spdEnd)

/-- The eight words of a scratchpad line written with good error codes (R307). -/
def cleanWords (s : State) (l : Nat) : State :=
  { s with spdBad := s.spdBad.filter (fun e => decide (e.1 / 8 ≠ l)) }

/-- The home's copy of a line written with its kind of poison: the memory-side cache for DRAM, the bank
for the scratchpad (R192, R197). -/
def putHome (s : State) (l : Nat) (d : Line) (k : Option Poison) : State :=
  let r := { lrec s l with data := none, dpois := false, dirty := false }
  if isSpdLine l then
    setLrec (setPoison (setMemLine (cleanWords s l) l d) l k) l { r with msc := none, mpois := none }
  else setLrec s l { r with msc := some d, mpois := k }

/-- The slice of a physical address (R191). -/
def sliceOf (pa : Nat) : Nat :=
  (upto 8).foldl (fun acc i => acc ^^^ ((pa >>> (6 + 6 * i)) % 64)) 0

/-- The set of a physical address in the tracking structures (R191). -/
def setOf (pa : Nat) : Nat := bitsOf pa 16 6 ^^^ bitsOf pa 27 17

/-- The timebase TB. -/
def tbOf (s : State) : Nat := (rd s .tbVal 0).toNat

/-! Interrupts (R133, R134). -/

/-- The core-timer condition (R397). -/
def timerCond (s : State) (c : Nat) : Bool :=
  decide ((tbOf s + 2 ^ 64 - fget s F.tbCmp_CMP c) % 2 ^ 64 < 2 ^ 63)

/-- Whether some counter of a core has OVF and OIE set (R416). -/
def counterCond (s : State) (c : Nat) : Bool :=
  (upto 8).any (fun n => fbit s F.pmsel_OVF (8 * c + n) && fbit s F.pmsel_OIE (8 * c + n))

/-- Whether a vector is pending at a core. A level vector is pending exactly while its condition
holds, 0x43–0x4F never are, and an edge vector has its bit (R133, R134). -/
def pendBit (s : State) (c v : Nat) : Bool :=
  if v = 0x40 then timerCond s c
  else if v = 0x41 then counterCond s c
  else if v = 0x42 then fbit s F.psbbase_IRQ c
  else if v < 0x50 then false
  else bit (rd s .coreIpend (6 * c + (v - 64) / 32)).toNat ((v - 64) % 32)

/-- The state with the pending bit of an edge vector set or cleared. -/
def setPend (s : State) (c v : Nat) (b : Bool) : State :=
  let i := 6 * c + (v - 64) / 32
  wr s .coreIpend i (w64 (setBitsOf (rd s .coreIpend i).toNat ((v - 64) % 32) ((v - 64) % 32)
    (b2n b)))

/-- An event of a device source: sets its edge vector pending at its target core (R133, R134). A
vector below 0x50 raises nothing. -/
def raiseVec (s : State) (target vector : Nat) : State :=
  if 0x50 ≤ vector ∧ vector ≤ 0xFF then setPend s target vector true else s

/-! The event log (R350–R352). -/

/-- Unit kinds of R350. -/
def kCore : Nat := 1
def kCluster : Nat := 2
def kSlice : Nat := 3
def kChannel : Nat := 4
def kQuadrant : Nat := 5
def kGroup : Nat := 6
def kPort : Nat := 7
def kComet : Nat := 8
def kMoon : Nat := 9
def kVport : Nat := 10
def kBank : Nat := 11
def kDevice : Nat := 12

/-- Error classes of R333. -/
def clsCorrected : Nat := 0
def clsRecovered : Nat := 1
def clsContained : Nat := 2
def clsFatal : Nat := 3

/-- An event to record: code, class, unit kind and number, and the words its code names. -/
structure Ev where
  code : Nat
  cls : Nat
  kind : Nat
  unit : Nat := 0
  node : Nat := 0xFFFF
  addr : Nat := 0
  d0 : Nat := 0
  d1 : Nat := 0
  d2 : Nat := 0
  deriving DecidableEq, Repr

/-- Whether an open corrected record takes an event into it (R351). -/
def LogRec.merges (r : LogRec) (e : Ev) (tb : Nat) : Bool :=
  decide (r.seq = none) && decide (r.code = e.code) && decide (r.kind = e.kind) &&
    decide (r.unit = e.unit) && decide (tb ≤ r.tb + 1000000)

/-- The first record that takes the event has its count raised. -/
def mergeInto (e : Ev) (tb : Nat) : List LogRec → List LogRec
  | [] => []
  | r :: rs => if r.merges e tb then { r with count := r.count + 1 } :: rs
      else r :: mergeInto e tb rs

/-- HELD shows the records held internally (R351). -/
def noteHeld (s : State) : State := fput s F.fltLogCtl_HELD 0 s.logHeld.length

/-- The oldest held record is dropped when all 512 places are in use; an open record takes its SEQ
at the drop (R351). -/
def dropHeld (s : State) : State :=
  match s.logHeld with
  | [] => s
  | r :: rs =>
    if s.logHeld.length < 512 then s
    else
      let s := { s with logHeld := rs, logSeq := if r.seq = none then s.logSeq + 1 else s.logSeq }
      fsat s F.fltLogCtl_LOST 0 1

/-- An event is detected: a corrected one merges or opens a record, any other takes its SEQ. The
records move to the ring by `flushLog` (R351). -/
def logEv (s : State) (e : Ev) : State :=
  let tb := tbOf s
  if e.cls = clsCorrected && s.logHeld.any (fun r => r.merges e tb) then
    { s with logHeld := mergeInto e tb s.logHeld }
  else
    let s := dropHeld s
    let r : LogRec :=
      { tb := tb, seq := if e.cls = clsCorrected then none else some s.logSeq, code := e.code,
        cls := e.cls, kind := e.kind, unit := e.unit, node := e.node, count := 1, addr := e.addr,
        d0 := e.d0, d1 := e.d1, d2 := e.d2 }
    noteHeld { s with logHeld := s.logHeld ++ [r],
                      logSeq := if e.cls = clsCorrected then s.logSeq else s.logSeq + 1 }

/-- ACCESS_ERROR (0x0060) with its reason; reasons 4 and 5 are corrected events (R352). -/
def logAccess (s : State) (kind unit addr reason : Nat) : State :=
  logEv s { code := 0x60, cls := if reason = 4 ∨ reason = 5 then clsCorrected else clsContained,
            kind := kind, unit := unit, addr := addr, d0 := reason }

end Sys2Proof.Machine
end

