-- ==== Sys2Proof/Machine/Mon.lean ====
section
/-! DEFINITION. Device monitors (R425, R426): which vport owns a reach, flow, channel or monitor,
the counting of an event by every monitor that selects it, and what passes unseen. -/

namespace Sys2Proof.Machine

/-- The vport that owns a reach, flow, channel or monitor by its range; 0 when no other does (R268,
R279). -/
def vportOf (s : State) (inRange : VParam → Bool) : Nat :=
  match s.vps.find? (fun e => inRange e.2 && decide (fget s F.vpStat_STATE e.1 ≠ 0)) with
  | some e => e.1
  | none => 0

/-- The vport of reach `i`, of tide flow `f`, of comet channel `n`, and of monitor `m`. -/
def vportOfReach (s : State) (i : Nat) : Nat :=
  vportOf s (fun p => decide (p.rbase ≤ i ∧ i < p.rbase + p.rcnt))
def vportOfFlow (s : State) (f : Nat) : Nat :=
  vportOf s (fun p => decide (p.fbase ≤ f ∧ f < p.fbase + p.fcnt))
def vportOfChan (s : State) (n : Nat) : Nat :=
  vportOf s (fun p => decide (p.cbase ≤ n ∧ n < p.cbase + p.ccnt))
def vportOfMon (s : State) (m : Nat) : Nat :=
  vportOf s (fun p => decide (p.monbase ≤ m ∧ m < p.monbase + p.moncnt))

/-- Monitor events of R426 that this model counts. -/
def mFlitTx : Nat := 0x001
def mFlitRx : Nat := 0x002
def mFlitTransit : Nat := 0x003
def mLinkReplay : Nat := 0x004
def mTc0Tx : Nat := 0x005
def mDramRecon : Nat := 0x022
def mMeshCycles : Nat := 0x0FF
def mWindowHit : Nat := 0x010
def mWindowMiss : Nat := 0x011
def mReachReq : Nat := 0x012
def mFabricRefused : Nat := 0x013
def mSfBinv : Nat := 0x030
def mRdBinv : Nat := 0x031
def mRecall : Nat := 0x032
def mHoldDefer : Nat := 0x033
def mAtomHome : Nat := 0x034
def mCmtRead : Nat := 0x040
def mCmtWrite : Nat := 0x041
def mCmtError : Nat := 0x042
def mTideFlit : Nat := 0x050
def mTideSolo : Nat := 0x051
def mMboxMsg : Nat := 0x060

/-- Whether monitor `m` counts event `ev` of `unit` attributed to vport `v` (R425). -/
def monHit (s : State) (m ev unit v : Nat) : Bool :=
  let own := vportOfMon s m
  fbit s F.monSel_EN m && decide (fget s F.monSel_EVENT m = ev) &&
    (decide (fget s F.monSel_UNIT m = 0xFFFF) || decide (fget s F.monSel_UNIT m = unit)) &&
    (if own ≠ 0 then decide (own = v)
     else !(fbit s F.monSel_VPF m) || decide (fget s F.monSel_VPORT m = v))

/-- `n` events occur: every monitor that selects them adds `n`, modulo 2^64. -/
def mon (s : State) (ev unit v n : Nat) : State :=
  s.regs.foldl (fun t e =>
    if e.1.1 = .monSel && monHit s e.1.2 ev unit v then fadd t F.monCnt_COUNT e.1.2 n else t) s

/-- Monitor events whose number is not known: they count cycles, or depend on what the memory-side
cache holds, of which the spec states no policy (CREDIT_WAIT, DRAM_READ, DRAM_WRITE, MSC_HIT, MSC_MISS,
MESH_CYCLES). -/
def unseenMon : List Nat := [0x006, 0x020, 0x021, 0x023, 0x024, mMeshCycles]

/-- Whether monitor `m` takes up such events. A cycle of the mesh belongs to no vport, so that it is vport 0's
(R425). -/
def lapses (s : State) (m : Nat) : Bool :=
  let ev := fget s F.monSel_EVENT m
  fbit s F.monSel_EN m && unseenMon.contains ev &&
    (decide (ev ≠ mMeshCycles) || monHit s m ev (fget s F.monSel_UNIT m) 0)

/-- Monitor `m` takes up a free number of such events before it is read (assumption 101). -/
def monLapse (s : State) (m : Nat) : State :=
  if lapses s m then
    let (v, s) := takeFree s
    fadd s F.monCnt_COUNT m v
  else s

end Sys2Proof.Machine
end

