-- ==== Sys2Proof/Machine/Dram.lean ====
section
/-! DEFINITION. DRAM (R287–R305): the placement of lines on channels, parity, check codes and the check
cache, the writing of poison, correction and reconstruction, and the failure of channels. -/

namespace Sys2Proof.Machine

/-! Placement. -/

/-- The row, bank, rank and column of a device line (R295). -/
def dramRow (dl : Nat) : Nat := bitsOf dl 25 9
def dramBank (dl : Nat) : Nat := bitsOf dl 7 5 ^^^ bitsOf dl 11 9
def dramRank (dl : Nat) : Nat := bitsOf dl 8 8
def dramColumn (dl : Nat) : Nat := bitsOf dl 4 0 * 32

/-- The index of logical channel `c` in the per-channel registers of 16 a quadrant. -/
def chanIdx (c : Nat) : Nat := c

/-- The data line of a channel, or the stripe, that slot `dl` belongs to (R294). -/
def slotLine (dl : Nat) : Nat := 15 * (dl / 16) + dl % 16

/-- The device line of the metadata line of slot `dl` (R290). -/
def metaOf (dl : Nat) : Nat := 16 * (dl / 16) + 15

/-- The visible line at device line `dl` of logical channel `c`; none for a parity or metadata line
(R294). -/
def lineAt (s : State) (c dl : Nat) : Option Nat :=
  let d := slotLine dl
  if dl % 16 = 15 then none
  else if fbit s F.memqMode_PMODE 0 then
    let p := d % 8
    let x := c % 8
    if x = p then none
    else
      let m := 7 * d + (if x < p then x else x - 1)
      some (8 * m + ((c / 8) ^^^ foldK 3 m 16))
  else some (64 * d + (c ^^^ foldK 6 d 8))

/-- The other channels of a stripe, and the channel of its parity line (R294). -/
def mates (c : Nat) : List Nat := ((upto 8).map (fun x => 8 * (c / 8) + x)).filter (fun x => x ≠ c)
def parityChan (c dl : Nat) : Nat := 8 * (c / 8) + slotLine dl % 8

/-! What the channels hold. A data line is held in `mem`. `bad` holds how a parity or metadata line
differs from what the data lines give, so a line whose bits went bad differs in its parity line and in
its code. -/

/-- How the line in slot `dl` of channel `c` differs. -/
def devOf (s : State) (c dl : Nat) : Line := Tab.get 0 s.bad (c, dl)

/-- The state with that difference set. -/
def setDev (s : State) (c dl : Nat) (v : Line) : State :=
  { s with bad := if v = 0 then Tab.erase s.bad (c, dl) else Tab.set s.bad (c, dl) v }

/-- The exclusive or of the data lines of a stripe of group `g`. -/
def dataXor (s : State) (g dl : Nat) : Line :=
  (upto 8).foldl (fun a x => match lineAt s (8 * g + x) dl with
    | some l => a ^^^ memLine s l
    | none => a) 0

/-- The data or parity line that slot `dl` of channel `c` holds. -/
def dramLine (s : State) (c dl : Nat) : Line :=
  match lineAt s c dl with
  | some l => memLine s l
  | none => dataXor s (c / 8) dl ^^^ devOf s c dl

/-- The check code of line `d` at device line `dl` of channel `c` (R291). -/
def codeOf (c dl : Nat) (d : Line) : Nat := crc32c (lineBytes d ++ natLe (dl + c * 2 ^ 26) 8)

/-- The constant of a kind of poison (R292). -/
def formOf : Option Poison → Nat
  | none => 0
  | some .uncorr => 0x554E4352
  | some .lost => 0x4C4F5354
  | some .fwd => 0x46574450

/-- The code that the line in a slot should carry: in its poison form where it is poisoned. -/
def goodCode (s : State) (c dl : Nat) : Nat :=
  codeOf c dl (dramLine s c dl) ^^^ formOf ((lineAt s c dl).bind (memPoison s))

/-- A metadata line of the words 0 to 14 of `d`, with its own code in word 15 (R290, R291). -/
def metaLine (c f : Nat) (d : Line) : Line :=
  let w := BitVec.ofNat 512 (d.toNat % 2 ^ 480)
  w ||| BitVec.ofNat 512 (codeOf c (16 * f + 15) w * 2 ^ 480)

/-- The metadata line that frame `f` of channel `c` should hold, and the one that it does. -/
def metaGood (s : State) (c f : Nat) : Line :=
  metaLine c f (BitVec.ofNat 512
    ((upto 15).foldl (fun a i => a + goodCode s c (16 * f + i) * 2 ^ (32 * i)) 0))
def metaHeld (s : State) (c f : Nat) : Line := metaGood s c f ^^^ devOf s c (16 * f + 15)

/-- The code that is stored for a slot. -/
def storedCode (s : State) (c dl : Nat) : Nat := lineSlice (metaHeld s c (dl / 16)) (4 * (dl % 16)) 4

/-- What a read makes of a code `v` where the right one is `k`: the line is right, or is poison of a
kind; none is an error (R292). -/
def formIn (k v : Nat) : Option (Option Poison) :=
  [none, some Poison.uncorr, some Poison.lost, some Poison.fwd].find? (fun x => decide (v = k ^^^ formOf x))

/-- What a read of a slot makes of its code. -/
def readForm (s : State) (c dl : Nat) : Option (Option Poison) :=
  formIn (codeOf c dl (dramLine s c dl)) (storedCode s c dl)

/-- A line fails its code; one whose metadata line holds what it should does not. -/
def lineFails (s : State) (c dl : Nat) : Bool :=
  decide (devOf s c (metaOf dl) ≠ 0) && (readForm s c dl).isNone

/-- A metadata line fails its own code. -/
def metaFails (s : State) (c f : Nat) : Bool :=
  decide (devOf s c (16 * f + 15) ≠ 0) && decide (metaHeld s c f ≠ metaLine c f (metaHeld s c f))

/-! Poison. -/

/-- The record of a line that is poisoned: UNCORR and FWD in DRAM make a DRAM_POISON record, and UNCORR
counts in MEMQ_CERR.POIS; LOST is recorded by its reclaim (R292, R352). FWD in the scratchpad makes a record
of the same code that names the line's first bank and its address (R315; DESIGN CHOICE, assumption 139). -/
def logPoison (s : State) (l : Nat) (k : Poison) : State :=
  if 64 * l < visTop s ∧ k ≠ .lost then
    let p := dramPlace s l
    let s := if k = .uncorr then fsat s F.memqCerr_POIS (chanIdx p.ch) 1 else s
    logEv s { code := 0x32, cls := clsContained, kind := kChannel, unit := p.ch, addr := p.dl,
              d0 := if k = .fwd then 2 else 0 }
  else if k = .fwd ∧ isSpdLine l = true then
    logEv s { code := 0x32, cls := clsContained, kind := kBank, unit := 8 * l % 64, addr := 64 * l, d0 := 2 }
  else s

/-- A line is poisoned in its memory. A channel out of service is written nothing (R304). -/
def writePoison (s : State) (l : Nat) (k : Poison) : State :=
  if onChan s l s.deadCh then s else logPoison (setPoison s l (some k)) l k

/-- A write of line `l` arrives at its home; one whose data is poisoned writes FWD, which is recorded
then (R292). -/
def homeWrite (s : State) (l : Nat) (d : Line) (p : Bool) : State :=
  if p then
    let s := putHome s l d (some .fwd)
    if onChan s l s.deadCh then s else logPoison s l .fwd
  else putHome s l d none

/-- Modified data of a cache of this node comes home, with the poison that it carries (R292). -/
def homeBack (s : State) (l : Nat) (d : Line) : State := homeWrite s l d (poisonOf s l).isSome

/-! Failure of a channel (R301–R304). -/

/-- Lines of a logical channel in check-only mode: its data slots (R290, R294). -/
def chanLines : Nat := 15 * 2 ^ 22

/-- From device line `dl` on, the lines of channel `c` lie in stripes with two unreadable members
(R304). -/
def addTwin (s : State) (c dl : Nat) : State :=
  match s.twin.find? (fun x => x.1 == c) with
  | some (_, d) =>
    if dl < d then { s with twin := s.twin.map (fun x => if x.1 = c then (c, dl) else x) } else s
  | none => { s with twin := s.twin ++ [(c, dl)] }

/-- The first device line of a channel that its rebuild has not written (R302). -/
def rebuiltTo (s : State) (c : Nat) : Nat :=
  let q := c / 16
  if fget s F.memqStat_SPARE q = 1 ∧ fget s F.memqStat_SPCH q = c % 16 then
    if q ∈ s.rebuilt then 2 ^ 26 else fget s F.memqStat_RPTR q
  else 0

/-- Channel `c` is served by reconstruction from now on (R301); with another such member of its group,
the stripes that no rebuild has reached have two unreadable members (R304). -/
def degrade (s : State) (c : Nat) : State :=
  let ms := s.degraded.filter (fun x => decide (x / 8 = c / 8) && decide (x ≠ c))
  let from_ := ms.foldl (fun a x => max a (rebuiltTo s x)) 0
  let s := if ms.isEmpty then s else (c :: ms).foldl (fun s x => addTwin s x from_) s
  { s with degraded := addNew s.degraded c }

/-- The record of a channel failure (R352). -/
def logChan (s : State) (c cause d1 d2 : Nat) : State :=
  logEv s { code := 0x33,
            cls := if fbit s F.memqMode_PMODE 0 then clsRecovered else clsContained,
            kind := kChannel, unit := c, d0 := cause, d1 := d1, d2 := d2 }

/-- A channel is recorded as retired (R348). -/
def retireChan (s : State) (c : Nat) : State :=
  let keep := s.keep
  { s with keep := { keep with chans := addNew keep.chans c } }

/-- Logical channel `c` fails in group-parity mode (R301, R302, R304). -/
def failParity (s : State) (c cause : Nat) : State :=
  let q := c / 16
  let s := degrade s c
  let s := fput (fput s F.memqStat_DEGR q 1) F.memqStat_FLCH q (c % 16)
  let s := if fget s F.memqStat_SPARE q = 0 then
      let s := fput (fput s F.memqStat_SPARE q 1) F.memqStat_SPCH q (c % 16)
      let s := fput s F.memqStat_RPTR q 0
      { s with rebuildAt := Tab.set s.rebuildAt q (tbOf s) }
    else s
  logChan s c cause 0 0

/-- Logical channel `c` fails in check-only mode (R303, R304): its data is lost. Values that caches hold
modified stay in them, with their own poison. DEGR is 1 from the failure until every line has been written
UNCORR (R301; DEDUCED, assumption 120). -/
def failCheckOnly (s : State) (c cause : Nat) : State :=
  let q := c / 16
  let mine (l : Nat) : Bool := decide (chanOf s l = some c)
  let others := s.poison.filter (fun e => !(mine e.1))
  let s := fput (fput s F.memqStat_FLCH q (c % 16)) F.memqStat_DEGR q 1
  let s := { s with bad := s.bad.filter (fun e => decide (e.1.1 ≠ c)) }
  if fget s F.memqStat_SPARE q = 0 then
    let s := fput (fput s F.memqStat_SPARE q 2) F.memqStat_SPCH q (c % 16)
    let s := { s with poison := others, bulk := addNew s.bulk c }
    logChan (retireChan s c) c cause chanLines 0
  else
    let s := { s with poison := others, deadCh := addNew s.deadCh c }
    logChan (retireChan s c) c cause 0 1

/-- Logical channel `c` fails (R301). -/
def failChan (s : State) (c cause : Nat) : State :=
  if c ∈ s.degraded ∨ c ∈ s.deadCh then s
  else if fbit s F.memqMode_PMODE 0 then failParity s c cause
  else failCheckOnly s c cause

/-! Which members of a stripe can be read. -/

/-- Channel `c` is served by reconstruction at device line `dl` (R301, R302). -/
def deadAt (s : State) (c dl : Nat) : Bool :=
  decide (c ∈ s.degraded) && decide (rebuiltTo s c ≤ dl)

/-- A line of a stripe with two unreadable members that has not been met (R304). -/
def lostAt (s : State) (c dl : Nat) : Bool :=
  s.twin.any (fun x => x.1 == c && decide (x.2 ≤ dl)) &&
    (match lineAt s c dl with
     | some l => (Tab.find s.poison l).isNone
     | none => false)

/-- A member of a stripe cannot be read. The value of one on a failed channel that has been written
poisoned, or since its stripe was met, is the one it was given. -/
def unread (s : State) (c dl : Nat) : Bool :=
  lostAt s c dl ||
    (if deadAt s c dl then
       !(s.twin.any (fun x => x.1 == c && decide (x.2 ≤ dl))) &&
         ((lineAt s c dl).bind (fun l => Tab.find s.poison l)).isNone
     else lineFails s c dl)

/-! Writes with fresh codes. -/

/-- The code of a slot is made anew in its metadata line (R298). -/
def freshCode (s : State) (c dl : Nat) : State :=
  if devOf s c (metaOf dl) = 0 then s
  else
    let f := dl / 16
    let good := metaGood s c f
    let m : BitVec 64 := maskOf (4 * (dl % 16)) 4
    setDev s c (metaOf dl) (metaLine c f (mergeLine (metaHeld s c f) good m) ^^^ good)

/-- Value `v` is written into a slot with its code; the other lines of the stripe stay. -/
def storeSlot (s : State) (c dl : Nat) (v : Line) : State :=
  match lineAt s c dl with
  | some l =>
    let old := memLine s l
    let s := setMemLine s l v
    let p := parityChan c dl
    let s := if fbit s F.memqMode_PMODE 0 then setDev s p dl (devOf s p dl ^^^ old ^^^ v) else s
    freshCode s c dl
  | none => freshCode (setDev s c dl (dataXor s (c / 8) dl ^^^ v)) c dl

/-- A line takes the poison form that its code states. -/
def adopt (s : State) (c dl : Nat) (k : Option Poison) : State :=
  match lineAt s c dl with
  | some l => if memPoison s l = k then s else setPoison s l k
  | none => s

/-! Correction and reconstruction (R297). -/

/-- A line of channel `c` has been reconstructed or corrected; the 257th within 10 ms fails the
channel (R301). -/
def noteFix (s : State) (c : Nat) : State :=
  let ts := (Tab.get [] s.fixes c).filter (fun t => decide (tbOf s ≤ t + 10000000)) ++ [tbOf s]
  if 256 < ts.length then failChan { s with fixes := Tab.erase s.fixes c } c 2
  else { s with fixes := Tab.set s.fixes c ts }

/-- How a bad bit changes a code; the CRC is linear, so neither the line nor its place matters. -/
def bitCode (i : Nat) : Nat := codeOf 0 0 (BitVec.ofNat 512 (2 ^ i)) ^^^ codeOf 0 0 0

/-- The one or two bits that change a code by `t`. -/
def badBits (t : Nat) : Option (List Nat) :=
  let tab := (upto 512).map (fun i => (i, bitCode i))
  match tab.find? (fun x => decide (x.2 = t)) with
  | some x => some [x.1]
  | none => tab.findSome? (fun x =>
      (tab.find? (fun y => decide (x.1 < y.1) && decide (x.2 ^^^ y.2 = t))).map (fun y => [x.1, y.1]))

/-- A line is corrected from its own code if it has at most 2 bad bits, written back and counted in
CORR. -/
def byCode (s : State) (c dl : Nat) : Option State :=
  let d := dramLine s c dl
  let off := codeOf c dl d ^^^ storedCode s c dl
  ([none, some Poison.uncorr, some Poison.lost, some Poison.fwd].findSome? (fun k =>
    (badBits (off ^^^ formOf k)).map (fun bs => (k, bs)))).map (fun x =>
      let v := x.2.foldl (fun v i => v ^^^ BitVec.ofNat 512 (2 ^ i)) d
      let s := storeSlot (adopt s c dl x.1) c dl v
      let s := fsat s F.memqCerr_CORR (chanIdx c) 1
      noteFix (logEv s { code := 0x30, cls := clsCorrected, kind := kChannel, unit := c, addr := dl,
                         d0 := x.2.length }) c)

/-- A line is rebuilt from the other seven of its stripe. One of a channel in service is checked
against its stored code, written back and counted in RECON; a read that R301 serves by reconstruction
counts nothing (DEDUCED, assumption 119). -/
def recon (s : State) (c dl : Nat) : Option State :=
  let v := (mates c).foldl (fun a m => a ^^^ dramLine s m dl) 0
  if deadAt s c dl then some (mon (storeSlot s c dl v) mDramRecon c 0 1)
  else
    (formIn (codeOf c dl v) (storedCode s c dl)).map (fun k =>
      let s := storeSlot (adopt s c dl k) c dl v
      let s := mon (fsat s F.memqCerr_RECON (chanIdx c) 1) mDramRecon c 0 1
      noteFix (logEv s { code := 0x31, cls := clsCorrected, kind := kChannel, unit := c,
                         addr := dl }) c)

/-- A line is written UNCORR with its code; a parity line holds no poison. -/
def uncorrSlot (s : State) (c dl : Nat) : State :=
  match lineAt s c dl with
  | some l => freshCode (writePoison s l .uncorr) c dl
  | none => s

/-- The last step of R297: the line is written UNCORR. With a member on a failed channel, the stripe has
two unreadable members, which are both written so (R304), and its parity line is made anew. -/
def uncorrLine (s : State) (c dl : Nat) : State :=
  let others := (mates c).filter (fun m => unread s m dl)
  if deadAt s c dl || others.any (fun m => deadAt s m dl) then
    let s := (c :: others).foldl (fun s m => uncorrSlot s m dl) s
    let p := parityChan c dl
    freshCode (setDev s p dl 0) p dl
  else uncorrSlot s c dl

/-- A line that cannot be read, in group-parity mode (R297). -/
def settleParity (s : State) (c dl : Nat) : State :=
  let all (s : State) : Bool := (mates c).all (fun m => !(unread s m dl))
  let last (s : State) : State :=
    match if deadAt s c dl then none else byCode s c dl with
    | some t => t
    | none => uncorrLine s c dl
  let first := if all s then recon s c dl else none
  match first with
  | some t => t
  | none =>
    let s := (mates c).foldl (fun s m =>
      if unread s m dl && !(deadAt s m dl) && !(lostAt s m dl) then (byCode s m dl).getD s else s) s
    match if all s then recon s c dl else none with
    | some t => t
    | none => last s

/-- The lines of a stripe with two unreadable members are written UNCORR as it is met, and its parity line
is made anew (R304). -/
def meetStripe (s : State) (c dl : Nat) : State :=
  match (c :: mates c).filter (fun m => lostAt s m dl) with
  | [] => s
  | ms =>
    let s := ms.foldl (fun s m => uncorrSlot s m dl) s
    let p := parityChan c dl
    freshCode (setDev s p dl 0) p dl

/-- What a read of a data or parity line does before it returns (R297, R304). -/
def settle (s : State) (c dl : Nat) : State :=
  if lostAt s c dl then meetStripe s c dl
  else if unread s c dl then
    if fbit s F.memqMode_PMODE 0 then settleParity s c dl
    else (byCode s c dl).getD (uncorrLine s c dl)
  else if devOf s c (metaOf dl) = 0 || deadAt s c dl then s
  else
    match readForm s c dl with
    | some k => freshCode (adopt s c dl k) c dl
    | none => s

/-! The check cache (R296). -/

/-- Slot `dl` of a metadata line being recomputed: its code is made anew once its stripe's parity
confirms it, or it is settled; in check-only mode a line that its stored code does not fit is written
UNCORR (DEDUCED, assumption 124). -/
def recheck (s : State) (c dl : Nat) : State :=
  if fbit s F.memqMode_PMODE 0 then
    if devOf s (parityChan c dl) dl = 0 then freshCode s c dl
    else if (mates c).all (fun m => !(unread s m dl)) then
      storeSlot s c dl ((mates c).foldl (fun a m => a ^^^ dramLine s m dl) 0)
    else uncorrLine s c dl
  else if (readForm s c dl).isSome then s
  else uncorrLine s c dl

/-- A metadata line is read from DRAM; one that fails its own code is recomputed from its 15 lines
(R297). -/
def readMeta (s : State) (c f : Nat) : State :=
  if deadAt s c (16 * f) || !(metaFails s c f) then s
  else
    let s := (upto 15).foldl (fun s i => recheck s c (16 * f + i)) s
    setDev s c (16 * f + 15) 0

/-- An access to slot `dl` of channel `c` uses its metadata line in the check cache of the quadrant,
and fetches it there if it misses. The set of a metadata line and the replacement of the least recently
used of its 8 ways are DESIGN CHOICES (assumption 123). -/
def fetchMeta (s : State) (c dl : Nat) (w : Bool) : State :=
  let f := dl / 16
  let key := (c / 16, f % 512)
  let ways := Tab.get [] s.ccache key
  let here (x : Nat × Nat × Bool) : Bool := decide (x.1 = c) && decide (x.2.1 = f)
  let s := if ways.any here then s else readMeta s c f
  let dirty := w || ways.any (fun x => here x && x.2.2)
  let rest := ways.filter (fun x => !(here x))
  { s with ccache := Tab.set s.ccache key (((c, f, dirty) :: rest).take 8) }

/-- The check caches write the lines that satisfy `p` back to DRAM. -/
def cleanChecks (s : State) (p : Nat → Nat → Bool) : State :=
  { s with ccache := s.ccache.map (fun e =>
      (e.1, e.2.map (fun x => (x.1, x.2.1, x.2.2 && !(p x.1 x.2.1))))) }

/-! Accesses of the homes. Each is served whole in its turn, so those to one stripe are served in
arrival order and no correction overwrites newer data (R298, R299). -/

/-- A read of a visible line. -/
def dramRead (s : State) (l : Nat) : State :=
  let p := dramPlace s l
  if p.ch ∈ s.deadCh then s else settle (fetchMeta s p.ch p.dl false) p.ch p.dl

/-- A write of the whole of a line, with its kind of poison. In group-parity mode the old data and the
old parity line are read first, and the line, its parity line and both codes are written in one step
(R298); in check-only mode nothing is read. The poison that the line had is gone. A write to a channel
out of service is discarded (R304). -/
def dramWrite (s : State) (l : Nat) (d : Line) (k : Option Poison) : State :=
  let put (s : State) : State := setPoison (setMemLine s l d) l k
  if 64 * l < visTop s then
    let p := dramPlace s l
    if p.ch ∈ s.deadCh then s
    else
      match p.par with
      | some q =>
        let s := settle (fetchMeta s p.ch p.dl true) p.ch p.dl
        let s := settle (fetchMeta s q p.dl true) q p.dl
        freshCode (freshCode (put s) p.ch p.dl) q p.dl
      | none => freshCode (put (fetchMeta s p.ch p.dl true)) p.ch p.dl
  else put (cleanWords s l)

/-- What a node's caches hold of a local line that DRAM does not: the owner's modified data, else the
memory-side cache's, with its poison and whether that is still to be recorded. -/
def unwritten (s : State) (l : Nat) : Option (Line × Bool × Bool) :=
  let r := lrec s l
  match r.data, r.msc with
  | some d, _ => some (d, r.dpois, r.dpois)
  | none, some d => some (d, r.mpois.isSome, r.mpois.isSome && decide (r.mpois ≠ some .fwd))
  | none, none => none

/-- The newest value that this node holds of a local line is written to DRAM: poisoned data is a write of
poison FWD, recorded unless its arrival at the home was (R292). The record of the line keeps its
holders. -/
def writeBack (s : State) (l : Nat) : State :=
  match unwritten s l with
  | none => s
  | some (d, p, fresh) =>
    let s := dramWrite s l d (if p then some .fwd else none)
    let s := if fresh && !(onChan s l s.deadCh) then logPoison s l .fwd else s
    setLrec s l { lrec s l with data := none, dpois := false, dirty := false, msc := none, mpois := none }

/-! Patrol scrub (R300). -/

/-- A stripe whose codes all pass and that does not XOR to zero has its parity line rewritten. -/
def fixParity (s : State) (g dl : Nat) : State :=
  let p := parityChan (8 * g) dl
  if (upto 8).all (fun x => !(unread s (8 * g + x) dl) && !(deadAt s (8 * g + x) dl)) &&
      decide (devOf s p dl ≠ 0) then
    fsat (freshCode (setDev s p dl 0) p dl) F.memqCerr_PARFIX (chanIdx p) 1
  else s

/-- Device line `dl` of every in-service channel of quadrant `q` is read, checked and corrected. -/
def scrubLine (s : State) (q dl : Nat) : State :=
  let s := (upto 16).foldl (fun s k =>
    let c := 16 * q + k
    if decide (c ∈ s.deadCh) || (deadAt s c dl && !(lostAt s c dl)) then s
    else if dl % 16 = 15 then readMeta s c (dl / 16)
    else settle (fetchMeta s c dl false) c dl) s
  if fbit s F.memqMode_PMODE 0 && decide (dl % 16 ≠ 15) then
    fixParity (fixParity s (2 * q) dl) (2 * q + 1) dl
  else s

/-- LINES device lines of quadrant `q` are scrubbed, and SPTR and PASSES move on. -/
def scrubEvent (s : State) (q : Nat) : State :=
  let n := fget s F.memqScrub_LINES q
  let d := fget s F.memqScrub_SPTR q
  let s := (upto n).foldl (fun s i => scrubLine s q ((d + i) % 2 ^ 26)) s
  let s := fput s F.memqScrub_SPTR q (d + n)
  if 2 ^ 26 ≤ d + n then fsat s F.memqScrub_PASSES q 1 else s

/-! Rebuild (R302). -/

/-- The frame at RPTR is written to the spare: its 15 lines, their codes and the metadata line; stripes with
two unreadable members are written UNCORR as they are met, that of a parity line too (R304). RPTR advances
by 16. -/
def rebuildFrame (s : State) (q : Nat) : State :=
  let c := 16 * q + fget s F.memqStat_SPCH q
  let dl := fget s F.memqStat_RPTR q
  let s := cleanChecks s (fun x f => decide (x / 8 = c / 8) && decide (f = dl / 16))
  let s := (upto 15).foldl (fun s i => settle (meetStripe s c (dl + i)) c (dl + i)) s
  let s := setDev s c (dl + 15) 0
  let s := fput s F.memqStat_RPTR q ((dl + 16) % 2 ^ 26)
  if 2 ^ 26 ≤ dl + 16 then { s with rebuilt := addNew s.rebuilt q } else s

end Sys2Proof.Machine
end

