-- ==== Sys2Proof/Machine/Fabric.lean ====
section
/-! DEFINITION. Sourcing messages: headers, per-destination sequence numbers and tags (R224–R226,
R248), and the responses this node sends. -/

namespace Sys2Proof.Machine

/-- Message opcodes (R225). -/
def opRdS : Nat := 0x01
def opRdX : Nat := 0x02
def opUpg : Nat := 0x03
def opWb : Nat := 0x04
def opEvc : Nat := 0x05
def opRdCur : Nat := 0x06
def opWrLine : Nat := 0x07
def opAtom : Nat := 0x08
def opCinv : Nat := 0x09
def opCcln : Nat := 0x0A
def opCfls : Nat := 0x0B
def opRclS : Nat := 0x10
def opRclI : Nat := 0x11
def opBinv : Nat := 0x12
def opSnpCur : Nat := 0x13
def opSnpCln : Nat := 0x14
def opData : Nat := 0x18
def opCmp : Nat := 0x19
def opSnpr : Nat := 0x1A
def opNak : Nat := 0x1B
def opMsg : Nat := 0x20
def opCmd : Nat := 0x28
def opProbe : Nat := 0x29
def opProbeR : Nat := 0x2A
def opTsync : Nat := 0x2C

/-- This node's ID (R240). -/
def selfId (s : State) : Nat := fget s F.nodeSelf_ID 0

/-- A message of this node with every optional field zero. -/
def newMsg (s : State) (dst cls op : Nat) (vc : Bool) : Msg :=
  { src := BitVec.ofNat 16 (selfId s), dst := BitVec.ofNat 16 dst,
    sepoch := BitVec.ofNat 8 (fget s F.nodeSelf_EPOCH 0), cls := BitVec.ofNat 2 cls, vc := vc,
    flow := 0, op := BitVec.ofNat 6 op, spec := false, pois := false, tag := 0, stat := 0,
    first := false, stream := 0, sseq := 0, addr := 0, sub := 0, data := [], port := 0 }

/-- A line as four data granules. -/
def lineGranules (l : Line) : List (BitVec 128) :=
  (upto 4).map (fun i => l.extractLsb' (128 * i) 128)

/-- Four data granules as a line. -/
def granulesLine (g : List (BitVec 128)) : Line :=
  BitVec.ofNat 512 ((upto 4).foldl (fun acc i => acc + (g.getD i 0).toNat * 2 ^ (128 * i)) 0)

/-- A message joins those waiting for a flit (R223). -/
def emit (s : State) (m : Msg) : State := { s with outbox := s.outbox ++ [m] }

/-- A message that has arrived waits: for the end of a hold window (R202), or for a line that the write
it causes needs (R284, R285). -/
def deferMsg (s : State) (m : Msg) : State :=
  { s with fab := { s.fab with deferred := s.fab.deferred ++ [m] } }

/-- A message of VC 0 or a snoop takes the next SSEQ of its stream towards its destination, with
FIRST when the pair is new or has been unused for 1 ms (R226, R236). -/
def withSseq (s : State) (m : Msg) : Msg × State :=
  let k := (m.stream.toNat, m.dst.toNat)
  let tb := tbOf s
  match Tab.find s.sseq k with
  | some (n, t) =>
    ({ m with sseq := BitVec.ofNat 16 n, first := decide (t + 1000000 < tb) },
     { s with sseq := Tab.set s.sseq k ((n + 1) % 65536, tb) })
  | none =>
    ({ m with sseq := 0, first := true }, { s with sseq := Tab.set s.sseq k (1, tb) })

/-- How long a message without a transaction is kept for a RETRY_BUSY that may come back: 1 ms, the
time of R464 (DESIGN CHOICE, assumption 111). -/
def postedTime : Nat := 1000000

/-- A message of VC 0 without a transaction is kept for its resend (R225). -/
def keepPosted (s : State) (m : Msg) : State :=
  let fab := s.fab
  let old := fab.posted.filter (fun x => decide (tbOf s < x.sent + postedTime))
  { s with fab := { fab with posted := old ++ [⟨m, tbOf s, none⟩] } }

/-- Whether a message of this node has no transaction, though a receiver may answer it RETRY_BUSY: those of
VC 0 that are no request, and snoops (R225, R236). -/
def untracked (m : Msg) : Bool :=
  [opWb, opEvc, opMsg, opCmd, opProbe, opTsync, opRclS, opRclI, opBinv, opSnpCur, opSnpCln].contains
    m.op.toNat

/-- A sequenced message is sent. -/
def sendSeq (s : State) (m : Msg) : Msg × State :=
  let (m, s) := withSseq s m
  let s := if untracked m then keepPosted s m else s
  (m, emit s m)

/-- A RETRY_BUSY for a message without a transaction: it is sent again after 1 µs (R225). -/
def retryPosted (s : State) (m : Msg) : State :=
  let fab := s.fab
  let same (x : Posted) : Bool :=
    x.msg.dst == m.src && x.msg.stream == m.stream && x.msg.sseq == m.sseq
  let new := fab.posted.map (fun x =>
    if same x then { x with again := some (tbOf s + 1000) } else x)
  { s with fab := { fab with posted := new } }

/-- The messages whose microsecond has passed are sent again. -/
def resendPosted (s : State) : State :=
  let ready (x : Posted) : Bool := x.again.any (fun t => decide (t ≤ tbOf s))
  let fab := s.fab
  let new := fab.posted.map (fun x =>
    if ready x then { x with sent := tbOf s, again := none } else x)
  { s with outbox := s.outbox ++ (fab.posted.filter ready).map (fun x => x.msg),
           fab := { fab with posted := new } }

/-- All 16,384 transaction tags are in use: a request of this node waits for one (R17, R224). -/
def txFull (s : State) : Bool := decide (16384 ≤ s.txs.length)

/-- The lowest free transaction tag of 16,384 (R224); there is one where `txFull` is false. -/
def freeTag (s : State) : Nat :=
  ((upto 16384).find? (fun t => !(s.txs.any (fun x => x.tag == t)))).getD 0

/-- A response to a partner's request carries the stream, sequence number, tag, class and flow of the
request (R221, R225, R226, R247). -/
def respond (s : State) (n tag stream sseq cls flow op stat : Nat) (pois : Bool)
    (data : List (BitVec 128)) : State :=
  emit s { newMsg s n cls op true with
    flow := BitVec.ofNat 12 flow,
    tag := BitVec.ofNat 14 tag, stream := BitVec.ofNat 8 stream, sseq := BitVec.ofNat 16 sseq,
    stat := BitVec.ofNat 4 stat, pois := pois, data := data }

/-- The class of a request through reach `i`: the reach's; a channel's travels in TC2 unless the reach
is TC0 (R314), and an atomic through a TC0 reach in TC2 (R247). -/
def reqClass (s : State) (who : TxWho) (i op : Nat) : Nat :=
  let own := fget s F.reachC_CLASS i
  if own = 0 then (if op = opAtom then 2 else 0)
  else
    match who with
    | .comet _ => 2
    | .dropped _ => 2
    | _ => own

/-- The request's message, without its tag and sequence number. -/
def reqMsg (s : State) (who : TxWho) (i pa op : Nat) (spec : Bool) (data : List (BitVec 128))
    (sub : Nat) (pois : Bool) : Msg :=
  let cls := reqClass s who i op
  { newMsg s (fget s F.reachB_NODE i) cls op false with
    spec := spec, data := data, sub := BitVec.ofNat 4 sub,
    pois := pois, flow := BitVec.ofNat 12 (if cls = 0 then fget s F.reachC_FLOW i else 0),
    stream := BitVec.ofNat 8 (fget s F.reachC_STREAM i),
    addr := BitVec.ofNat 52 (remoteAddr s i pa) }

/-- The tag of a request that waits for one. -/
def noTag : Nat := 16384

/-- An outbound request of VC 0 through reach `i` for physical address `pa` (R183, R224, R267): it
takes a tag, its class, flow and stream from the reach, and stays outstanding until its response. Where
no tag is free it is sent once one is. -/
def sendReq (s : State) (who : TxWho) (i pa op : Nat) (spec : Bool) (data : List (BitVec 128))
    (sub : Nat) (pois : Bool) : State :=
  let m := reqMsg s who i pa op spec data sub pois
  if txFull s then
    { s with txs := s.txs ++ [{ tag := noTag, who := who, pa := pa, reach := i, msg := m,
                                busy := true }] }
  else
    let tag := freeTag s
    let (m, s) := sendSeq s { m with tag := BitVec.ofNat 14 tag }
    mon { s with txs := s.txs ++ [{ tag := tag, who := who, pa := pa, reach := i, msg := m,
                                    busy := false }] } mReachReq i (vportOfReach s i) 1

/-- The oldest request that waits for a tag is sent, if one is free. -/
def sendHeld (s : State) : State :=
  match s.txs.find? (fun t => t.tag == noTag) with
  | none => s
  | some t =>
    if (s.txs.filter (fun x => x.tag ≠ noTag)).length < 16384 then
      let tag := freeTag s
      let (m, s) := sendSeq s { t.msg with tag := BitVec.ofNat 14 tag }
      let u := { t with tag := tag, msg := m, busy := false }
      mon { s with txs := s.txs.map (fun x => if x = t then u else x) } mReachReq t.reach
        (vportOfReach s t.reach) 1
    else s

/-- A WB or EVC of VC 0 on stream 0xF1, which expects no response (R196, R248, R269). -/
def sendEvict (s : State) (i pa op : Nat) (data : List (BitVec 128)) (pois : Bool) : State :=
  let cls := fget s F.reachC_CLASS i
  let m := { newMsg s (fget s F.reachB_NODE i) cls op false with
    data := data, pois := pois, stream := 0xF1#8,
    addr := BitVec.ofNat 52 (remoteAddr s i pa) }
  (sendSeq s m).2

/-- The opcode of a snoop. -/
def SnoopKind.op : SnoopKind → Nat
  | .rclS => opRclS
  | .rclI => opRclI
  | .binv => opBinv
  | .snpCur => opSnpCur
  | .snpCln => opSnpCln

/-- The data granules of WR_LINE: the byte mask, then the line (R225). -/
def wrLineGranules (mask : BitVec 64) (d : Line) : List (BitVec 128) :=
  mask.setWidth 128 :: lineGranules d

/-- The data granules of ATOM, and its SUB (R224, R225). -/
def atomGranules : AtomOp → List (BitVec 128) × Nat
  | .add v => ([v.setWidth 128], 0)
  | .swap v => ([v.setWidth 128], 1)
  | .cas e n => ([n.setWidth 128 ||| (e.setWidth 128 <<< 64)], 2)
  | .cas16 e n => ([n, e], 3)

end Sys2Proof.Machine
end

