-- ==== Sys2Proof/Machine/Home.lean ====
section
/-! DEFINITION. The homes of local memory (R191–R204): each request is served in arrival order per
line, after the snoops, recalls and hold windows it must wait for. Local copies answer at once;
partners answer by SNPR. -/

namespace Sys2Proof.Machine

/-- The core of a requester, if it is a local core. -/
def Who.core? : Who → Option Nat
  | .req (.core c) => some c
  | _ => none

/-- The node of a requester, if it is a partner. -/
def Who.node? : Who → Option Nat
  | .req (.node n _ _ _ _) => some n.toNat
  | _ => none

/-- A coherent request of a partner to the scratchpad, which is served without a copy (R192). -/
def HomeReq.uncached (q : HomeReq) : Bool := q.who.node?.isSome && isSpdLine q.line

/-- The memory access of a request ends the holding of every copy (rows 14 to 16 and 18 of R197). -/
def HReq.clears : HReq → Bool
  | .wrLine .. | .atom .. | .orByte .. | .cinv | .cfls => true
  | _ => false

/-- A hold window of the local owner defers the request of another requester (R202). -/
def heldOff (q : HomeReq) (r : LineRec) : Bool :=
  match r.owner with
  | some o => r.hold && decide (q.who.core? ≠ some o)
  | none => false

/-- The snoops to partners that a request needs before it is served (R197, R199). -/
def partnerNeeds (q : HomeReq) (r : LineRec) : List (Partner × SnoopKind) :=
  let other (p : Partner) : Bool := decide (q.who.node? ≠ some p.node)
  let answered (p : Partner) : Bool := q.snooped.any (fun x => x.1 == p.node)
  let allSharers := r.partners.map (fun p => (p, SnoopKind.rclI))
  let ownerI := match r.powner with
    | some (p, _) => [(p, SnoopKind.rclI)]
    | none => []
  match q.req with
  | .rdS _ =>
    (match r.powner with
     | some (p, _) => if other p then [(p, .rclS)] else []
     | none => []) ++
    (match r.partners, q.who.node? with
     | p :: ps, some n =>
       if 4 ≤ (p :: ps).length ∧ !((p :: ps).any (fun x => x.node == n)) then [(p, .rclI)] else []
     | _, _ => [])
  | .rdX | .upg => (ownerI ++ allSharers).filter (fun x => other x.1)
  | .rdCur =>
    (match r.powner with
     | some (p, _) => if answered p then [] else [(p, .snpCur)]
     | none => [])
  | .ccln =>
    (match r.powner with
     | some (p, _) => if answered p then [] else [(p, .snpCln)]
     | none => [])
  | .wrLine .. | .atom .. | .orByte .. | .cinv | .cfls => ownerI ++ allSharers

/-- The vport that a request is attributed to: by the window of a partner's, by the channel of an engine's
(R425). -/
def HomeReq.vportOf (q : HomeReq) (s : State) : Nat :=
  match q.who with
  | .req (.comet n) => vportOfChan s n
  | _ => q.vport

/-- A snoop is sent on stream 0xF0 of TC1 (R201, R225, R248), unless one to that node for that
line is already outstanding. -/
def sendSnoop (s : State) (l : Nat) (p : Partner) (k : SnoopKind) : State :=
  if s.snoops.any (fun x => x.line == l && x.node == p.node) then s
  else
    let tag := ((upto 16384).find? (fun t => !(s.snoops.any (fun x => x.tag == t)))).getD 0
    let (m, s) := sendSeq s { newMsg s p.node 1 k.op true with
      tag := BitVec.ofNat 14 tag, stream := 0xF0#8, addr := BitVec.ofNat 52 p.ra }
    let s := { s with snoops := s.snoops ++ [{ line := l, node := p.node, ra := p.ra, kind := k,
                                               tag := tag, sseqs := [m.sseq.toNat] }] }
    match k with
    | .rclS | .rclI => mon s mRecall (sliceOf (64 * l)) p.vport 1
    | .binv => mon s mRdBinv (sliceOf (64 * l)) p.vport 1
    | _ => s

/-- Whether a line has a snoop-filter entry, and whether it has a remote-directory entry (R196). -/
def LineRec.inSf (r : LineRec) : Bool := !r.present.isEmpty
def LineRec.inRd (r : LineRec) : Bool := !r.partners.isEmpty || r.powner.isSome

/-- The lines of a set that have an entry in a tracking structure, other than line `l` (R196). -/
def setMates (s : State) (l : Nat) (inIt : LineRec → Bool) : List (Nat × LineRec) :=
  s.lines.filter (fun e => inIt e.2 && decide (e.1 ≠ l) &&
    decide (sliceOf (64 * e.1) = sliceOf (64 * l)) && decide (setOf (64 * e.1) = setOf (64 * l)))

/-- The entry of the list with the oldest use. -/
def oldest : List (Nat × LineRec) → Option (Nat × LineRec)
  | [] => none
  | e :: es =>
    match oldest es with
    | some f => if e.2.stamp ≤ f.2.stamp then some e else some f
    | none => some e

/-- Every local copy of a line is invalidated; modified data goes to the home (R200). -/
def dropLocal (s : State) (l : Nat) : State :=
  let r := lrec s l
  let s := match r.data with
    | some d => if 64 * l < 2 ^ 51 then homeBack s l d else s
    | none => s
  let r := lrec s l
  setLrec s l { r with present := [], fcore := none, owner := none, hold := false, data := none,
                       dpois := false, dirty := false }

/-- The ways of an array of unit `u` that are disabled, or are being emptied to be (R339). -/
def waysOff (s : State) (a u : Nat) : Nat :=
  ((s.keep.ways ++ s.wayOut.map (fun e => e.1)).filter
    (fun w => decide (w.1 = a) && decide (w.2.1 = u))).length

/-- The ways left in the snoop filter and in the remote directory of the slice of line `l` (R196,
R339). -/
def sfWays (s : State) (l : Nat) : Nat := 16 - waysOff s 0x11 (sliceOf (64 * l))
def rdWays (s : State) (l : Nat) : Nat := 8 - waysOff s 0x12 (sliceOf (64 * l))

/-- Whether a snoop-filter entry may leave: no request in progress and no hold window (R200). -/
def sfFree (s : State) (e : Nat × LineRec) : Bool :=
  !e.2.hold && !(s.homeQ.any (fun q => q.line == e.1)) && !(s.txs.any (fun t => t.pa / 64 == e.1))

/-- A snoop-filter entry leaves: every local copy is invalidated, and a line of fabric memory goes back to its
home (R200). -/
def dropSf (s : State) (v : Nat) : State :=
  let r := lrec s v
  let s := mon s mSfBinv (sliceOf (64 * v)) (((heldReach s (64 * v)).map (vportOfReach s)).getD 0) 1
  if 64 * v < 2 ^ 51 then dropLocal s v
  else
    let s := match heldReach s (64 * v), r.data with
      | some i, some d =>
        if r.right = .none then s
        else if reachCoh s i then
          if r.dirty then sendEvict s i (64 * v) opWb (lineGranules d) (poisonOf s v).isSome
          else sendEvict s i (64 * v) opEvc [] false
        else if r.dirty then
          sendReq s .proxy i (64 * v) opWrLine false
            (wrLineGranules (BitVec.allOnes 64) d) 0 (poisonOf s v).isSome
        else s
      | _, _ => s
    setLrec s v LineRec.none

/-- An entry is evicted from a full snoop-filter set: the least recently used one with no request
in progress and no hold window (R200). -/
def evictSf (s : State) (l : Nat) : Bool × State :=
  let mates := setMates s l LineRec.inSf
  let ok := decide (mates.length ≤ sfWays s l)
  if mates.length < sfWays s l then (true, s)
  else
    match oldest (mates.filter (sfFree s)) with
    | none => (false, s)
    | some (v, _) => (ok, dropSf s v)

/-- Whether the back-invalidation of a line is under way. -/
def evicting (s : State) (l : Nat) : Bool :=
  s.snoops.any (fun x => x.line == l && x.kind == .binv)

/-- A remote-directory entry starts to leave: each partner in it is sent a BINV (R200). -/
def dropRd (s : State) (v : Nat) : State :=
  let r := lrec s v
  let ps := r.partners ++ (match r.powner with
    | some (p, _) => [p]
    | none => [])
  ps.foldl (fun s p => sendSnoop s v p .binv) s

/-- An entry is evicted from a full remote-directory set: entries with only sharers first, then the
least recently used; each partner in it is sent a BINV, and the set stays full until it answers. While
one entry of the set is being evicted, no second one is. -/
def evictRd (s : State) (l : Nat) : Bool × State :=
  let mates := setMates s l LineRec.inRd
  if mates.length < rdWays s l then (true, s)
  else if mates.any (fun e => evicting s e.1) then (false, s)
  else
    let free := mates.filter (fun e => !(s.homeQ.any (fun q => q.line == e.1)))
    let sharers := free.filter (fun e => e.2.powner.isNone)
    match (oldest sharers).or (oldest free) with
    | none => (false, s)
    | some (v, _) => (false, dropRd s v)

/-- Whether the memory behind a line accepts requests: its slice is not migrating (R345), DRAM after its
initialisation (R305), the secure part when no wipe runs (R309). -/
def lineOpen (s : State) (l : Nat) : Bool :=
  if s.migrating.any (fun m => m.1 == sliceOf (64 * l)) then false
  else if 64 * l < visTop s then fbit s F.memqMode_INIT 0
  else if spdSecure ≤ 64 * l ∧ 64 * l < spdEnd then !(fbit s F.spdStat_WIPING 0)
  else true

/-- What must happen before a request is served: true when nothing is left to wait for. Snoops that
the request needs are sent. -/
def prepare (s : State) (q : HomeReq) : Bool × State :=
  let r := lrec s q.line
  if !(lineOpen s q.line) || heldOff q r then (false, s)
  else
    match partnerNeeds q r with
    | [] =>
      match q.req, q.who.core?, q.who.node? with
      | .rdS _, some _, _ | .rdX, some _, _ | .upg, some _, _ =>
        if r.inSf then (true, s) else evictSf s q.line
      | .rdS _, _, some _ | .rdX, _, some _ | .upg, _, some _ =>
        if r.inRd || q.uncached then (true, s) else evictRd s q.line
      | _, _, _ => (true, s)
    | ns => (false, ns.foldl (fun s x => sendSnoop s q.line x.1 x.2) s)

/-- The partner record of a node request: the epoch is the one accepted from it (R196, R242). -/
def partnerOf (s : State) (n : Nat) (q : HomeReq) : Partner :=
  { node := n, epoch := fget s F.nodeEnt_PEPOCH n, ra := q.ra, vport := q.vport }

/-- Every copy has been invalidated, its modified data written home (row 14 of R197). -/
def clearCopies (s : State) (l : Nat) : State :=
  let s := dropLocal s l
  setLrec s l { lrec s l with partners := [], powner := none }

/-- The result of an atomic on the 16 bytes `old` at its place, as (new, value returned) (R81). -/
def atomStep (old8 : Word) (old16 : BitVec 128) : AtomOp → Option (Nat × Nat) × Nat
  | .add v => (some ((old8 + v).toNat, 8), old8.toNat)
  | .swap v => (some (v.toNat, 8), old8.toNat)
  | .cas e n => (if old8 = e then some (n.toNat, 8) else none, old8.toNat)
  | .cas16 e n => (if old16 = e then some (n.toNat, 16) else none, old16.toNat)

/-- A line write at the home, by its byte mask, with the poison rules of R209 and R292. -/
def writeLine (s : State) (l : Nat) (mask : BitVec 64) (d : Line) (pois : Bool) : State :=
  let s := clearCopies s l
  let v := mergeLine (homeData s l) d mask
  if pois then homeWrite s l v true
  else putHome s l v (if mask = BitVec.allOnes 64 then none else homePoison s l)

/-- The answer that carries a line's current value. -/
def answer (s : State) (l : Nat) (d : Line) : HVal :=
  { data := d, old := 0, pois := (poisonOf s l).isSome }

/-- The current data for RD_CUR: a partner owner's modified data if it sent any, else this node's
copy (row 13 of R197). -/
def curFor (s : State) (q : HomeReq) : Line :=
  match q.snooped.findSome? (fun x => x.2) with
  | some (d, _) => d
  | none => curLine s q.line

/-- Whether the current data for RD_CUR is poison. -/
def curPois (s : State) (q : HomeReq) : Bool :=
  match q.snooped.findSome? (fun x => x.2) with
  | some (_, p) => p
  | none => (poisonOf s q.line).isSome

/-- Grants RD_S (rows 1 to 5 of R197), returning the data and whether E is granted. -/
def grantS (s : State) (q : HomeReq) (spec : Bool) : State × HVal × Bool :=
  let l := q.line
  let r := lrec s l
  let d := curLine s l
  let v := answer s l d
  let owned := match q.who.core? with
    | some c => decide (r.owner = some c)
    | none => false
  if owned then (s, v, true)
  else if r.present.isEmpty && r.partners.isEmpty &&
      (r.powner.isNone || r.powner.any (fun x => q.who.node? == some x.1.node)) then
    match q.who.core?, q.who.node? with
    | some c, _ =>
      (setLrec s l { r with present := [c], owner := some c, fcore := none, hold := true }, v, true)
    | none, some n =>
      if spec then
        (setLrec s l { r with partners := [partnerOf s n q], powner := none }, v, false)
      else
        (setLrec s l { r with powner := some (partnerOf s n q, false) }, v, true)
    | none, none => (s, v, false)
  else
    let (s, r) := match r.owner with
      | some o =>
        let s := match r.data with
          | some d => homeBack s l d
          | none => s
        (s, { lrec s l with owner := none, fcore := some o, hold := false })
      | none => (s, r)
    match q.who.core?, q.who.node? with
    | some c, _ =>
      let f := match r.fcore with
        | some f => some f
        | none => some c
      (setLrec s l { r with present := addNew r.present c, fcore := f }, v, false)
    | none, some n =>
      let ps := if r.partners.any (fun p => p.node == n) then r.partners
        else r.partners ++ [partnerOf s n q]
      (setLrec s l { r with partners := ps }, v, false)
    | none, none => (s, v, false)

/-- Grants RD_X or UPG (rows 6 to 10 of R197). The modified data of a former local owner passes to
the winner and the home is not written. -/
def grantX (s : State) (q : HomeReq) : State × HVal :=
  let l := q.line
  let r := lrec s l
  let v := answer s l (curLine s l)
  match q.who.core?, q.who.node? with
  | some c, _ =>
    (setLrec s l { r with present := [c], owner := some c, fcore := none, hold := true,
                          partners := [], powner := none }, v)
  | none, some n =>
    (setLrec s l { r with present := [], owner := none, fcore := none, hold := false,
                          data := none, dpois := false, dirty := false, partners := [],
                          powner := some (partnerOf s n q, true) }, v)
  | none, none => (s, v)

/-- The line's modified data is written through to DRAM; copies stay valid and an M owner becomes E
(row 17 of R197). -/
def cleanLine (s : State) (l : Nat) : State :=
  let s := writeBack s l
  let r := lrec s l
  setLrec s l { r with powner := r.powner.map (fun x => (x.1, false)), dirty := false }

/-- Serves a request that nothing delays (the table of R197). The Boolean says that E is granted. -/
def serveNow (s : State) (q : HomeReq) : State × HVal × Bool :=
  let l := q.line
  let plain : State × HVal × Bool :=
    (s, { data := curFor s q, old := 0, pois := curPois s q }, false)
  match q.req with
  | .rdS spec => if q.uncached then plain else grantS s q spec
  | .rdX | .upg =>
    if q.uncached then plain
    else
      let (s, v) := grantX s q
      (s, v, true)
  | .rdCur => plain
  | .wrLine mask d pois =>
    let s := writeLine s l mask d pois
    (s, answer s l (curLine s l), false)
  | .atom off op =>
    let s := mon (clearCopies s l) mAtomHome (sliceOf (64 * l)) (q.vportOf s) 1
    let d := curLine s l
    if (poisonOf s l).isSome then (s, answer s l d, false)
    else
      let o8 := d.extractLsb' (8 * off) 64
      let o16 := d.extractLsb' (8 * off) 128
      let (new, old) := atomStep o8 o16 op
      let s := match new with
        | some (v, n) =>
          putHome s l (mergeLine d (BitVec.ofNat 512 (v * 2 ^ (8 * off))) (maskOf off n)) none
        | none => s
      (s, { data := d, old := old, pois := false }, false)
  | .orByte off v =>
    let s := clearCopies s l
    let d := curLine s l
    let b := (d.toNat >>> (8 * off)) % 256 ||| v
    (putHome s l (mergeLine d (BitVec.ofNat 512 (b * 2 ^ (8 * off))) (maskOf off 1)) (homePoison s l),
     answer s l d, false)
  | .cinv =>
    let r := lrec s l
    (setLrec s l { r with present := [], fcore := none, owner := none, hold := false, data := none,
                          dpois := false, dirty := false, msc := none, mpois := none, partners := [],
                          powner := none },
     answer s l (memLine s l), false)
  | .ccln =>
    let s := match q.snooped.findSome? (fun x => x.2) with
      | some (d, p) => homeWrite s l d p
      | none => s
    let s := cleanLine s l
    (s, answer s l (curLine s l), false)
  | .cfls =>
    let s := clearCopies (cleanLine s l) l
    (s, answer s l (curLine s l), false)

/-- Delivers the answer of a served request: a message to a partner (R225), an entry of the done
list for a local core or comet channel; the device needs none. -/
def deliverHome (s : State) (q : HomeReq) (upgHeld : Bool) (v : HVal) (excl : Bool) : State :=
  match q.who with
  | .device => if q.req = .rdCur then { s with homeDone := s.homeDone ++ [(q, v)] } else s
  | .req (.core _) =>
    match q.req with
    | .rdS _ | .rdX | .upg => s
    | _ => if q.wants then { s with homeDone := s.homeDone ++ [(q, v)] } else s
  | .req (.comet _) => if !q.wants then s else { s with homeDone := s.homeDone ++ [(q, v)] }
  | .req (.node n tag stream sseq cls) =>
    let r := respond s n.toNat tag.toNat stream.toNat sseq.toNat cls.toNat q.flow
    match q.req with
    | .rdS _ => r opData (if q.uncached then 6 else if excl then 5 else 0) v.pois
        (lineGranules v.data)
    | .rdX | .upg => if q.uncached then r opCmp 6 false []
        else if upgHeld && decide (q.req = .upg) then r opCmp 0 false []
        else r opData 0 v.pois (lineGranules v.data)
    | .rdCur => r opData 0 v.pois (lineGranules v.data)
    | .atom .. => r opData 0 v.pois [BitVec.ofNat 128 v.old]
    | _ => r opCmp 0 false []

/-- Whether the requester of a UPG still holds the line (R197). -/
def upgHolds (s : State) (q : HomeReq) : Bool :=
  let r := lrec s q.line
  match q.who.core?, q.who.node? with
  | some c, _ => decide (c ∈ r.present)
  | none, some n => r.partners.any (fun p => p.node == n)
  | none, none => false

/-- Whether serving a request reads the line at its home: a write of all 64 bytes and a maintenance
operation do not. -/
def HReq.reads : HReq → Bool
  | .wrLine mask .. => decide (mask ≠ BitVec.allOnes 64)
  | .cinv | .ccln | .cfls => false
  | _ => true

/-- The 8-byte words of a line, by address over 8. -/
def wordsOf (l : Nat) : List Nat := (upto 8).map (8 * l + ·)

/-- The columns replaced, or being replaced, in one redundancy range: 256 columns of a subarray, or a
scratchpad bank (R307, R339). -/
def colsUsed (s : State) (a u sub col : Nat) : Nat :=
  ((s.keep.columns ++ s.copying).filter (fun x => decide (x.1 = a) && decide (x.2.1 = u) &&
    (decide (a = 0x30) || (decide (x.2.2.1 = sub) && decide (x.2.2.2 / 256 = col / 256))))).length

/-- A correction in bit position `p` of scratchpad bank `b`: the 16th within 1 s starts to replace that column
where one is free (R307). -/
def spdFixed (s : State) (b p : Nat) : State :=
  let ts := (Tab.get [] s.spdFix (b, p)).filter (fun t => decide (tbOf s ≤ t + 1000000000)) ++ [tbOf s]
  if 16 ≤ ts.length then
    let s := { s with spdFix := Tab.erase s.spdFix (b, p) }
    if colsUsed s 0x30 b 0 p < 4 then { s with copying := addNew s.copying (0x30, b, 0, p) } else s
  else { s with spdFix := Tab.set s.spdFix (b, p) ts }

/-- The error code of one scratchpad word as a read of its line finds it (R307): one bad bit is put
right, written back and counted. A word with more of them stays for `spdRead`. -/
def spdWord (s : State) (w : Nat) : State :=
  match Tab.find s.spdBad w with
  | some [p] =>
    let s := fsat { s with spdBad := Tab.erase s.spdBad w } F.spdStat_CORR 0 1
    let s := spdFixed s (w % 64) p
    logEv s { code := 0x01, cls := clsCorrected, kind := kBank, unit := w % 64, d0 := 0x30, d1 := p }
  | _ => s

/-- A read of a scratchpad line: each word through its error code; words with two bad bits or more make
the line poisoned UNCORR, once for the line (R307). -/
def spdRead (s : State) (l : Nat) : State :=
  let s := (wordsOf l).foldl spdWord s
  match (wordsOf l).find? (fun w => (Tab.find s.spdBad w).isSome) with
  | none => s
  | some w =>
    let s := fsat (setPoison (cleanWords s l) l (some .uncorr)) F.spdStat_UNCORR 0 1
    logEv s { code := 0x04, cls := clsContained, kind := kBank, unit := w % 64, addr := 64 * l,
              d0 := 0x30 }

/-- A line that no cache of this node holds modified is read from DRAM (R297), or from its scratchpad
banks (R307). -/
def meetLine (s : State) (l : Nat) : State :=
  let r := lrec s l
  if isSpdLine l then (if r.data.isNone then spdRead s l else s)
  else if decide (64 * l < visTop s) && r.msc.isNone && r.data.isNone then dramRead s l else s

/-- Serves a request that nothing delays. -/
def serve (s : State) (q : HomeReq) : State :=
  let s := if q.req.reads then meetLine s q.line else s
  let h := upgHolds s q
  let (s, v, e) := serveNow s q
  deliverHome s q h v e

/-- The bit of a vport's dirty log for a write at `pa` as (byte address, bit), if it has one (R285). -/
def dirtyBit (p : VParam) (pa : Nat) : Option (Nat × Nat) :=
  let i := (pa - p.loglo) / 4096
  if p.loglo ≤ pa ∧ i < p.logpages then some (p.logbase + i / 8, i % 8) else none

/-- A write of the device on behalf of vport `v` at `pa` is logged (R285): whether the log's byte has
been set. `own` is the line of the request that is logged. -/
def dirtyLog (s : State) (v pa own : Nat) : Bool × State :=
  match Tab.find s.vps v with
  | none => (true, s)
  | some p =>
    if p.freeze then (true, s)
    else
      match dirtyBit p pa with
      | none => (true, fput s F.vpStat_LOGOVR v 1)
      | some (a, b) =>
        let q : HomeReq := { who := .device, line := a / 64, ra := a,
                             req := .orByte (a % 64) (2 ^ b), snooped := [] }
        if a / 64 ≠ own ∧ s.homeQ.any (fun x => x.line == a / 64) = true then (false, s)
        else
          let (ok, s) := prepare s q
          (ok, if ok then serve s q else s)

/-- Whether serving a request writes on behalf of its vport (R285). -/
def HomeReq.writes (q : HomeReq) (s : State) : Bool :=
  let r := lrec s q.line
  match q.req with
  | .wrLine .. | .atom .. | .cinv => true
  | .rdX | .upg => !q.uncached
  | .rdS spec => !q.uncached && !spec && r.present.isEmpty && r.partners.isEmpty &&
      (r.powner.isNone || r.powner.any (fun x => q.who.node? == some x.1.node))
  | _ => false

/-- Serves a request if nothing delays it, and says whether it was served. A write for a vport waits
until its dirty log has been set. -/
def tryServe (s : State) (q : HomeReq) : Bool × State :=
  let (ok, s) := prepare s q
  if ok then
    let (ok, s) := if q.vport ≠ 0 && q.writes s then dirtyLog s q.vport (64 * q.line) q.line
      else (true, s)
    if ok then (true, serve s q) else (false, s)
  else (false, s)

/-- The source node and stream of a partner's request (R183). -/
def Who.stream? : Who → Option (NodeId × BitVec 8)
  | .req (.node n _ stream _ _) => some (n, stream)
  | _ => none

/-- Whether request `q` waits for the earlier `x`: both are to one line (R203), or both come from one
node in one stream (R183). -/
def HomeReq.behind (q x : HomeReq) : Bool :=
  decide (x.line = q.line) || (q.who.stream?.isSome && decide (q.who.stream? = x.who.stream?))

/-- Serves the listed waiting requests in arrival order; those of `held` wait, and so do the requests
behind them. -/
def pumpFrom (held : List HomeReq) (s : State) : List HomeReq → State
  | [] => s
  | q :: qs =>
    if held.any q.behind then pumpFrom (q :: held) s qs
    else
      let (ok, s) := tryServe s q
      if ok then pumpFrom held { s with homeQ := s.homeQ.erase q } qs else pumpFrom (q :: held) s qs

/-- Serves what can be served of the waiting requests. -/
def pumpAll (s : State) : State := pumpFrom [] s s.homeQ

/-- A request arrives at its home (R203): it is served at once when no earlier request that it is
behind waits and nothing delays it; otherwise it waits. -/
def arrive (s : State) (q : HomeReq) : State :=
  if s.homeQ.any q.behind then { s with homeQ := s.homeQ ++ [q] }
  else
    let held := heldOff q (lrec s q.line)
    let (ok, s) := tryServe s q
    if ok then s
    else
      let s := { s with homeQ := s.homeQ ++ [q] }
      if held then mon s mHoldDefer (sliceOf (64 * q.line)) (q.vportOf s) 1 else s

/-- Two requests are the same wait: same requester, line and kind. -/
def HomeReq.same (a b : HomeReq) : Bool :=
  decide (a.who = b.who) && decide (a.line = b.line) && decide (a.req = b.req)

/-- The answer to a local request that has been served, taken from the done list. -/
def takeDone (s : State) (q : HomeReq) : Option HVal × State :=
  match s.homeDone.find? (fun x => x.1.same q) with
  | some x => (some x.2, { s with homeDone := s.homeDone.erase x })
  | none => (none, s)

/-- A local requester asks its home: the answer if it is ready, else the request waits. `v` is the
vport on whose behalf it asks. -/
def ask (s : State) (who : Requester) (l : Nat) (req : HReq) (v : Nat := 0) :
    Option HVal × State :=
  let q : HomeReq :=
    { who := .req who, line := l, ra := 64 * l, req := req, snooped := [], vport := v }
  match takeDone s q with
  | (some v, s) => (some v, s)
  | (none, s) =>
    if s.homeQ.any (fun x => x.same q) then (none, s)
    else takeDone (arrive s q) q

/-- The device itself reads a line of local memory: its value and whether it is poison, once its home
has answered. The answer stays until `devDone`. -/
def devLine (s : State) (l : Nat) : Option (Line × Bool) × State :=
  let q : HomeReq := { who := .device, line := l, ra := 64 * l, req := .rdCur, snooped := [] }
  let got (s : State) : Option (Line × Bool) :=
    (s.homeDone.find? (fun x => x.1.same q)).map (fun x => (x.2.data, x.2.pois))
  match got s with
  | some x => (some x, s)
  | none =>
    if s.homeQ.any (fun x => x.same q) then (none, s)
    else
      let s := arrive s q
      (got s, s)

/-- The device reads consecutive lines: their bytes, and whether one was poison. -/
def devLines (s : State) (l : Nat) : Nat → Option (List Byte × Bool) × State
  | 0 => (some ([], false), s)
  | n + 1 =>
    match devLine s l with
    | (none, s) => (none, s)
    | (some (d, p), s) =>
      match devLines s (l + 1) n with
      | (none, s) => (none, s)
      | (some (bs, q), s) => (some (lineBytes d ++ bs, p || q), s)

/-- The device has used the lines that it read. -/
def devDone (s : State) : State :=
  { s with homeDone := s.homeDone.filter (fun x => decide (x.1.who ≠ .device)) }

/-- The device itself writes bytes of local memory: a line write at the home (R351, R210). -/
def devWrite (s : State) (pa : Nat) (bs : List Byte) : State :=
  let o := pa % 64
  arrive s { who := .device, line := pa / 64, ra := pa,
             req := .wrLine (maskOf o bs.length) (BitVec.ofNat 512 (leNat bs * 2 ^ (8 * o))) false,
             snooped := [] }

/-- The device writes bytes of one line now, if nothing delays it: whether it did (R210, R351). -/
def devTry (s : State) (pa : Nat) (bs : List Byte) : Bool × State :=
  let o := pa % 64
  if s.homeQ.any (fun x => x.line == pa / 64) then (false, s)
  else
    tryServe s { who := .device, line := pa / 64, ra := pa,
                 req := .wrLine (maskOf o bs.length) (BitVec.ofNat 512 (leNat bs * 2 ^ (8 * o)))
                   false,
                 snooped := [] }

/-- Writes a run of bytes line by line, at most `k` lines; whether all were written. -/
def devTryAll (s : State) (pa : Nat) (bs : List Byte) : Nat → Bool × State
  | 0 => (bs.isEmpty, s)
  | k + 1 =>
    if bs.isEmpty then (true, s)
    else
      let n := 64 - pa % 64
      let (ok, s) := devTry s pa (bs.take n)
      if ok then devTryAll s (pa + n) (bs.drop n) k else (false, s)

/-- A WB or EVC at the home (rows 11 and 12 of R197): data is written for the owner, and the holder
is removed; a stale one from a partner is discarded and logged (R197). The dirty log of the owner's
window has been set before (R285). -/
def homeEvict (s : State) (who : Requester) (l : Nat) (data : Option (Line × Bool)) : State :=
  let r := lrec s l
  match who with
  | .core c =>
    if c.val ∈ r.present then
      let s := match data, decide (r.owner = some c.val) with
        | some (d, _), true => homeBack s l d
        | _, _ => s
      let r := lrec s l
      let own := decide (r.owner = some c.val)
      pumpAll (setLrec s l { r with
        present := r.present.filter (fun x => x ≠ c.val),
        owner := if own then none else r.owner,
        fcore := if r.fcore = some c.val then none else r.fcore,
        data := if own then none else r.data, dpois := if own then false else r.dpois,
        dirty := if own then false else r.dirty,
        hold := if own then false else r.hold })
    else s
  | .comet _ => s
  | .node n _ _ _ _ =>
    let n := n.toNat
    let owns := r.powner.any (fun x => x.1.node == n)
    let shares := r.partners.any (fun p => p.node == n)
    if owns || shares then
      let s := match data, owns with
        | some (d, p), true => homeWrite s l d p
        | _, _ => s
      let r := lrec s l
      let s := setLrec s l { r with
        partners := r.partners.filter (fun p => p.node ≠ n),
        powner := if owns then none else r.powner }
      -- a WB that meets a recall is the answer to it (R201)
      pumpAll { s with snoops := s.snoops.filter (fun x => !(x.line == l && x.node == n)) }
    else
      logEv s { code := 0x43, cls := clsContained, kind := kDevice, node := n, d0 := 4 }

end Sys2Proof.Machine
end

