-- ==== Sys2Proof/Machine/Perf.lean ====
section
/-! DEFINITION. The core counters (R411–R417) and the arming of samples (R419): the architectural
events of retired work are counted as they occur. Cycles, and events of time, caches and speculation,
pass unseen: a counter of them takes up a free amount before it is read (assumption 101). -/

namespace Sys2Proof.Machine

/-- Event numbers of R415 that this model counts, and those of cycles and slots (R418). -/
def evCycles : Nat := 0x001
def evInst : Nat := 0x002
def evTicks : Nat := 0x003
def evSlots : Nat := 0x008
def evRetired : Nat := 0x009
def evWasted : Nat := 0x00A
def evFront : Nat := 0x00B
def evBack : Nat := 0x00C
def evBranch : Nat := 0x010
def evLoad : Nat := 0x020
def evStore : Nat := 0x021
def evPartial : Nat := 0x026
def evForward : Nat := 0x027
def evCbLine : Nat := 0x029
def evDtlbMiss : Nat := 0x030
def evItlbMiss : Nat := 0x031
def evWalk : Nat := 0x032
def evWalkRestart : Nat := 0x034
def evTlbRewalk : Nat := 0x035
def evAtom : Nat := 0x040
def evFabric : Nat := 0x041
def evFabricNak : Nat := 0x042
def evPort : Nat := 0x043
def evExc : Nat := 0x050
def evInt : Nat := 0x051
def evReplay : Nat := 0x052
def evHrsWrap : Nat := 0x053
def evFp : Nat := 0x060

/-- Index of counter `n` of core `c` in the PMC and PMSEL series. -/
def pmIdx (c n : Nat) : Nat := 8 * c + n

/-- A sample is armed, or counted as lost when one is armed already (R419). -/
def armSample (s : State) (c n : Nat) : State :=
  let k := coreOf s c
  match k.sample with
  | none =>
    let e := fget s F.pmsel_EVENT (pmIdx c n)
    setCore s c { k with sample := some { ctr := n, event := e, record := none } }
  | some _ => setCore s c { k with ring := { k.ring with lost := k.ring.lost + 1 } }

/-- The overflow of a counter (R416, R419): OVF is set, a sample may be armed, and the counter may
reload. -/
def overflowCtr (s : State) (c n : Nat) : State :=
  let i := pmIdx c n
  let s := fput s F.pmsel_OVF i 1
  let s := if fbit s F.pmsel_SMP i then armSample s c n else s
  if fget s F.pmsel_IVL i ≠ 0 ∧ fbit s F.pmsel_SMP i then
    fput s F.pmc_COUNT i (2 ^ 48 - 16 * fget s F.pmsel_IVL i)
  else s

/-- Whether counter `n` counts at level `pl` (R412). -/
def ctrOn (s : State) (c n pl : Nat) : Bool :=
  fbit s F.pmsel_EN (pmIdx c n) && bit (fget s F.pmsel_PLF (pmIdx c n)) pl

/-- Whether counter `n` is the odd member of a chained pair (R417). -/
def chained (s : State) (c n : Nat) : Bool :=
  decide (n % 2 = 1) && fbit s F.pmsel_CHAIN (pmIdx c n)

/-- Counter `n` adds `d`; an overflow carries into a chained odd counter above it (R416, R417). The
counter that the retiring instruction has written keeps the written value (R10). -/
def addCtr (s : State) (c pl n d : Nat) : Nat → State
  | 0 => s
  | fuel + 1 =>
    if (coreOf s c).skip = some n then s
    else
    let v := fget s F.pmc_COUNT (pmIdx c n) + d
    let s := fput s F.pmc_COUNT (pmIdx c n) v
    if v < 2 ^ 48 then s
    else
      let s := overflowCtr s c n
      if n % 2 = 0 && chained s c (n + 1) && ctrOn s c (n + 1) pl then
        addCtr s c pl (n + 1) 1 fuel
      else s

/-- One counter sees `d` events of number `ev` at level `pl`. -/
def countOne (ev d c pl : Nat) (s : State) (n : Nat) : State :=
  if ctrOn s c n pl && !(chained s c n) && decide (fget s F.pmsel_EVENT (pmIdx c n) = ev) then
    addCtr s c pl n d 2
  else s

/-- `d` events of number `ev` occur on core `c` at level `pl` (R412). None is counted during an eclipse
move (R413). -/
def count (s : State) (c pl ev d : Nat) : State :=
  if (Tab.find s.moves c).isSome then s else (upto 8).foldl (countOne ev d c pl) s

/-- Each listed event occurs once. -/
def countAll (s : State) (c pl : Nat) (evs : List Nat) : State :=
  evs.foldl (fun s ev => count s c pl ev 1) s

/-- Event numbers of R415 that are counted as they occur, and NONE. -/
def seenEvents : List Nat :=
  [0, evTicks, evInst, evBranch, evLoad, evStore, evPartial, evForward, evCbLine, evDtlbMiss, evItlbMiss,
   evWalk, evWalkRestart, evTlbRewalk, evAtom, evFabric, evFabricNak, evPort, evExc,
   evInt, evReplay, evHrsWrap, evFp]

/-- Events of cycles and of their slots (R415, R418). -/
def cycleEvents : List Nat := [evCycles, evSlots, evRetired, evWasted, evFront, evBack]

/-- CORE cycles that have passed at one level, and how many of their rename slots were retired, wasted and
front-starved; the rest of the 6 slots of each cycle were back-starved (R418). -/
structure Cycles where
  n : Nat
  retired : Nat
  wasted : Nat
  front : Nat
  deriving DecidableEq, Repr

/-- Back-starved slots. -/
def Cycles.back (x : Cycles) : Nat := 6 * x.n - x.retired - x.wasted - x.front

/-- How many events of number `ev` the cycles hold (R415, R418). -/
def Cycles.of (x : Cycles) (ev : Nat) : Nat :=
  if ev = evCycles then x.n
  else if ev = evSlots then 6 * x.n
  else if ev = evRetired then x.retired
  else if ev = evWasted then x.wasted
  else if ev = evFront then x.front
  else if ev = evBack then x.back
  else 0

/-- Cycles of core `c` pass at level `pl`: PMC_CYC adds them (R411), and the counters of R418. -/
def passCycles (s : State) (c pl : Nat) (x : Cycles) : State :=
  let s := fput s F.pmcCyc_COUNT c (fget s F.pmcCyc_COUNT c + x.n)
  cycleEvents.foldl (fun s ev => count s c pl ev (x.of ev)) s

/-- The slots of `n` cycles are split among the classes as the free values ask, with at least `m` of the
class that `ev` counts. -/
def splitCycles (n ev m a b d : Nat) : Cycles :=
  let own (e : Nat) : Nat := if e = ev then m else 0
  let left := 6 * n - m
  let r := a % (left + 1)
  let w := b % (left - r + 1)
  let f := d % (left - r - w + 1)
  ⟨n, own evRetired + r, own evWasted + w, own evFront + f⟩

/-- A free number of cycles, at most `cap`, passes at level `pl`, with a free split of their slots. -/
def lapseCycles (c cap : Nat) (s : State) (pl : Nat) : State :=
  let (v, s) := takeFree s
  let (a, s) := takeFree s
  let (b, s) := takeFree s
  let (d, s) := takeFree s
  passCycles s c pl (splitCycles (v % (cap + 1)) 0 0 a b d)

/-- The cycles that can pass at each level before a counter of R418 overflows, which is the row
COUNTER_OVERFLOW. -/
def cycleRoom (s : State) (c : Nat) : Nat :=
  (upto 8).foldl (fun m n =>
    let i := pmIdx c n
    if fbit s F.pmsel_EN i && cycleEvents.contains (fget s F.pmsel_EVENT i) then
      min m ((2 ^ 48 - 1 - fget s F.pmc_COUNT i) / 24)
    else m) (2 ^ 62)

/-- Counter `n` takes up the events that have passed unseen: a free amount that does not make it
overflow, which is the row COUNTER_OVERFLOW. -/
def lapseCtr (c : Nat) (s : State) (n : Nat) : State :=
  let i := pmIdx c n
  let ev := fget s F.pmsel_EVENT i
  if fbit s F.pmsel_EN i && !(chained s c n) && decide (fget s F.pmsel_PLF i ≠ 0) &&
      !(seenEvents.contains ev) && !(cycleEvents.contains ev) then
    let (v, s) := takeFree s
    let k := fget s F.pmc_COUNT i
    fput s F.pmc_COUNT i (k + v % (2 ^ 48 - k))
  else s

/-- The counters of core `c` take up what has passed unseen: its cycles and their slots (R411, R418), and
each counter of an event that is not counted as it occurs. -/
def lapse (s : State) (c : Nat) : State :=
  (upto 8).foldl (lapseCtr c) ((upto 4).foldl (lapseCycles c (cycleRoom s c)) s)

/-- TB ticks `d` times in the cycles of the cores that run (R411, R415). -/
def tickCores (s : State) (d : Nat) : State :=
  s.cores.foldl (fun t e => if e.2.active then count t e.1 (plOf t e.1) evTicks d else t) s

/-- Counter `n` of core `c` overflows by events that pass unseen at level `pl`: those of its event, and the
cycles that a counter of R418 needs for it. -/
def passOverflow (s : State) (c pl n : Nat) : State :=
  let ev := fget s F.pmsel_EVENT (pmIdx c n)
  let need := 2 ^ 48 - fget s F.pmc_COUNT (pmIdx c n)
  if cycleEvents.contains ev then
    let cyc := if ev = evCycles then need else (need + 5) / 6
    let (a, s) := takeFree s
    let (b, s) := takeFree s
    let (d, s) := takeFree s
    let m := if ev = evCycles ∨ ev = evSlots then 0 else need
    passCycles s c pl (splitCycles cyc ev m a b d)
  else addCtr s c pl n need 2

end Sys2Proof.Machine
end

