-- ==== Sys2Proof/Machine/Access.lean ====
section
/-! DEFINITION. Memory accesses of a core: translation by the frame table (R139–R163), the store
and combining buffers (R72, R173–R177, R190), and reads and writes of each memory kind (R165). An
access that must wait stalls its instruction, which runs again. -/

namespace Sys2Proof.Machine

/-- A synchronous exception (R123): cause, saved pc where it is not the instruction's own, address,
INFO, the ECAUSE bits WR, FETCH and RETRY, and whether it reports the latched store error, which its
delivery clears (R271). -/
structure Exc where
  code : Nat
  epc : Option Word := none
  addr : Word := 0
  info : Nat := 0
  wr : Bool := false
  fetch : Bool := false
  retry : Bool := false
  latched : Bool := false
  deriving DecidableEq, Repr

/-- Why an instruction does not complete now: it raises an exception, or it waits. -/
inductive Stop where
  | exc (e : Exc)
  | stall
  deriving DecidableEq, Repr

/-- A part of an instruction: it changes the state and answers, or stops. -/
abbrev CpuM := EStateM Stop State

/-- Raises an exception. -/
def raise {α : Type} (e : Exc) : CpuM α := throw (.exc e)

/-- Waits. -/
def stall {α : Type} : CpuM α := throw .stall

/-- The kinds of access of R149 and R153. -/
inductive AKind where
  | fetch | load | store | rmw | cinv | map
  deriving DecidableEq, Repr

/-- Whether an access counts as a write in ECAUSE.WR; a CINV, which needs the write right, does
(DESIGN CHOICE, assumption 103). -/
def AKind.wr : AKind → Bool
  | .store | .rmw | .cinv => true
  | _ => false

/-- Whether an access needs the read right, and whether it needs the write right (R153). -/
def AKind.needR : AKind → Bool
  | .load | .rmw => true
  | _ => false
def AKind.needW : AKind → Bool
  | .store | .rmw | .cinv => true
  | _ => false

/-- Whether the walker sets D for the access (R152); CINV is none of the kinds of R149 and sets A only
(DESIGN CHOICE, assumption 104). -/
def AKind.setsD : AKind → Bool
  | .store | .rmw => true
  | _ => false

/-- Whether a virtual address is canonical (R50). -/
def canonical (va : Nat) : Bool := decide (bitsOf va 63 56 = if bit va 55 then 255 else 0)

/-- Page shift of a size code (R142). -/
def pageShift (sc : Nat) : Nat := if sc = 0 then 12 else if sc = 1 then 16 else if sc = 2 then 21 else 30

/-- The bucket of a probe in a table with base `base` and mask `m` (R142): `hi` is the whole 32-bit tag
of R144, and the sum g is taken modulo 2^28 (DESIGN CHOICE, assumption 105). -/
def bucketOf (base m vmid a sc va : Nat) : Nat :=
  let vpn := bitsOf va 55 (pageShift sc)
  let hi := vpn / 4096
  let g := ((hi >>> 16) ^^^ (hi <<< 7) ^^^ (a * 0x9E5) ^^^ (vmid <<< 12) ^^^ (sc <<< 26)) % 2 ^ 28
  let idx := (vpn ^^^ g) % 2 ^ 28 &&& m
  base * 128 + idx * 128

/-- The bucket of a probe in the frame table of core `c`. -/
def ftBucket (s : State) (c vmid a sc va : Nat) : Nat :=
  bucketOf (fget s F.ftb_BASE c) (fget s F.ftmask_M c) vmid a sc va

/-! Reads and writes of lines. -/

/-- A line waits in the queue of its home for core `c`, for the given right. -/
def queuedFor (s : State) (c : CoreNo) (l : Nat) (x : Bool) : Bool :=
  s.homeQ.any (fun q => q.line == l && q.who == .req (.core c) &&
    (match q.req with
     | .rdS _ => !x
     | .rdX | .upg => x
     | _ => false))

/-- Core `c` asks the home of a local line for a copy, unless it has asked already; `spec` marks the
request of a wrong path (R110). -/
def askLine (s : State) (c : CoreNo) (l : Nat) (x : Bool) (spec : Bool := false) : State :=
  if queuedFor s c l x then s
  else
    let req := if x then (if c.val ∈ (lrec s l).present then HReq.upg else .rdX) else .rdS spec
    arrive s { who := .req (.core c), line := l, ra := 64 * l, req := req, snooped := [] }

/-- Core `c` obtains a readable copy of a local line, or waits (R194, R197). -/
def acqS (c : CoreNo) (l : Nat) : CpuM Unit := do
  let s ← get
  if c.val ∈ (lrec s l).present then pure ()
  else
    let s := askLine s c l false
    set s
    if c.val ∈ (lrec s l).present then pure () else stall

/-- Core `c` obtains a writable copy of a local line, or waits (R194, R197). -/
def acqX (c : CoreNo) (l : Nat) : CpuM Unit := do
  let s ← get
  if (lrec s l).owner = some c.val then pure ()
  else
    let s := askLine s c l true
    set s
    if (lrec s l).owner = some c.val then pure () else stall

/-- Takes a response out of the check buffer of core `c`. -/
def peekGot (c : CoreNo) (pa : Nat) : CpuM (Option Chk) := do
  let s ← get
  pure (Tab.find (coreOf s c).got pa)

/-- Whether vport `v` is FROZEN, or FREEZE has begun on it (R286). -/
def vportHeld (s : State) (v : Nat) : Bool :=
  decide (fget s F.vpStat_STATE v = 2) || decide (Tab.find s.vjobs v = some 3)

/-- What a fabric access through reach `i` meets before it is sent (R207, R260, R268, R286): a refusal
with its retry hint, and the reason to log if it is a check that failed. `own` says that the
requester may use the reaches of vport `v`, and `stops` that a FREEZE of that vport refuses it. -/
def reachRefusesIf (s : State) (i : Nat) (own stops : Nat → Bool) : Option (Bool × Option Nat) :=
  let n := fget s F.reachB_NODE i
  let v := vportOfReach s i
  let f := fget s F.reachC_FLOW i
  let inFlows := match Tab.find s.vps v with
    | some p => decide (p.fbase ≤ f ∧ f < p.fbase + p.fcnt)
    | none => true
  if !(own v) then some (false, some 2)
  else if fget s F.reachC_CLASS i = 0 ∧ v ≠ 0 ∧ !inFlows then some (false, some 2)
  else if fget s F.reachC_CLASS i = 0 ∧ fget s F.tideFlowa_ROLE f = 0 then some (false, some 3)
  else if fget s F.nodeEnt_LIVE n = 3 then some (false, none)
  else if (s.reclaims.head?).any (fun r => r.node == n && r.epoch.isSome) ||
      (vportHeld s v && stops v) then
    some (true, none)
  else none

/-- What an access of a core or of the device meets. -/
def reachRefuses (s : State) (i : Nat) (own : Nat → Bool) : Option (Bool × Option Nat) :=
  reachRefusesIf s i own (fun _ => true)

/-- The reaches a core may use at level `pl` (R268). -/
def coreOwns (s : State) (c pl v : Nat) : Bool :=
  decide (2 ≤ pl) || (decide (v ≠ 0) &&
    (match Tab.find s.vps v with
     | some p => decide (p.vmid = fget s F.vmid_VMID c)
     | none => false))

/-- Whether a response of `t` fills a line of a cache. -/
def Tx.fills (t : Tx) : Bool :=
  [opRdS, opRdX, opUpg].contains t.msg.op.toNat || (decide (t.msg.op.toNat = opRdCur) &&
    (match t.who with
     | .fill _ | .line _ | .row _ => true
     | _ => false))

/-- Whether a fabric request for line `l` that would fill it here is outstanding. -/
def txLine (s : State) (l : Nat) : Bool := s.txs.any (fun t => t.pa / 64 == l && t.fills)

/-- The key in the check buffer of the response for a buffered store to line `l`. -/
def storeKey (l : Nat) : Nat := 2 ^ 60 + l

/-- The key in the check buffer of a response for the walker. -/
def walkKey (n : Nat) : Nat := 2 ^ 61 + n

/-- The keys under which a channel keeps what an access of its engine's walk gave, and a free choice. -/
def walkAt (key : Nat) : Nat := 2 ^ 70 + key
def choiceKey : Nat := 2 ^ 80

/-- The responses of the check buffer that buffered stores wait for. -/
def storesOf (g : Tab Nat Chk) : Tab Nat Chk :=
  g.filter (fun e => decide (2 ^ 60 ≤ e.1) && decide (e.1 < 2 ^ 61))

/-- The check buffer without the walker's responses. -/
def noWalks (g : Tab Nat Chk) : Tab Nat Chk := g.filter (fun e => decide (e.1 < 2 ^ 61))

/-- A request is sent once a tag is free. -/
def sendWait (who : TxWho) (i pa op : Nat) (spec : Bool) (data : List (BitVec 128)) (sub : Nat)
    (pois : Bool) : CpuM Unit := do
  let s ← get
  if txFull s then stall else set (sendReq s who i pa op spec data sub pois)

/-- A fabric store of core `c` through a coherent reach, other than one into a held line, or an
operation on such a line, has no response yet: it is not performed (R84). -/
def postedCoh (s : State) (c : Nat) (p : Tx → Bool) : Bool :=
  s.txs.any (fun t => (match t.who with
    | .store k _ _ => decide (k = c)
    | _ => false) && reachCoh s t.reach && p t)

/-- The event that the current instruction counts when it retires (R413). -/
def noteEv (s : State) (c : Nat) (ev : Nat) : State :=
  modCore s c (fun k => { k with evs := k.evs ++ [ev] })

/-- The event, once for the instruction. -/
def noteOnce (s : State) (c : Nat) (ev : Nat) : State :=
  modCore s c (fun k => { k with evs := addNew k.evs ev })

/-- The current instruction of core `c` has issued what cannot be discarded (R116). -/
def noteMust (s : State) (c : CoreNo) : State := modCore s c (fun k => { k with must := true })

/-! The order of the waiters at a proxy slice (R203). -/

/-- The core that a request serves. -/
def TxWho.core? : TxWho → Option Nat
  | .load c => some c
  | .fill c => some c
  | .line c => some c
  | .store c _ _ => some c
  | .walk c => some c
  | .row c => some c
  | .comet _ => none
  | .dropped _ => none
  | .proxy => none
  | .tap => none

/-- Who waits: a core's instruction, its store buffer, or a request of its own that no instruction waits
for: a read, a write, or a speculative read. -/
def TxWho.waiter (w : TxWho) (x spec : Bool) : Option Nat :=
  match w with
  | .load c => some c
  | .fill c => some c
  | .walk c => some c
  | .line c => some (128 + c)
  | .row c => some (c + if x then 384 else if spec then 512 else 256)
  | _ => none

/-- Who waits for the response of a request. -/
def Tx.waiter (t : Tx) : Option Nat := t.who.waiter (decide (t.msg.op.toNat ≠ opRdS)) t.msg.spec

/-- Whether nobody waits for line `l` at its proxy slice ahead of `w`. -/
def proxyTurn (s : State) (l : Nat) (w : Option Nat) : Bool :=
  match s.proxyQ.find? (fun e => e.1 == l) with
  | some e => decide (w = some e.2)
  | none => true

/-- `w` waits for line `l`, behind those that wait already. -/
def proxyWait {α : Type} (l : Nat) (w : Option Nat) : CpuM α := do
  match w with
  | some n => modify (fun s => { s with proxyQ := addNew s.proxyQ (l, n) })
  | none => pure ()
  stall

/-- `w` has what it waited for, or an answer that ends its wait. -/
def proxyDone (s : State) (l : Nat) (w : Option Nat) : State :=
  match w with
  | some n => { s with proxyQ := s.proxyQ.filter (fun e => e ≠ (l, n)) }
  | none => s

/-- No instruction of core `c` waits at a proxy slice any more. -/
def proxyLeave (s : State) (c : Nat) : State :=
  { s with proxyQ := s.proxyQ.filter (fun e => e.2 ≠ c) }

/-- Whether a request of core `c` for `pa` is outstanding (R88, R116). -/
def txOf (s : State) (c pa : Nat) : Bool :=
  s.txs.any (fun t => t.pa == pa && t.who == .load c)

/-- Raises the exception that a check-buffer response calls for (R123, R270), or passes its value
on. -/
def useGot (te : Bool) (va : Word) (pa : Nat) (wr exec : Bool) : Chk → CpuM Nat
  | .value v => pure v
  | .poison =>
    raise { code := 0x0E, addr := w64 pa, info := if te then va.toNat else 0, wr := wr, fetch := exec }
  | .nak r => raise { code := 0x0F, addr := va, info := pa, wr := wr, fetch := exec, retry := r }
  | .timeout => raise { code := 0x10, addr := va, info := pa, wr := wr, fetch := exec }

/-- A refusal before sending: logged where a check failed, and raised as FABRIC_NAK (R268). -/
def refuseReach (c : CoreNo) (i : Nat) (pl : Nat) (va : Word) (pa : Nat) (wr exec : Bool) :
    CpuM Unit := do
  let s ← get
  match reachRefuses s i (coreOwns s c pl) with
  | none => pure ()
  | some (retry, why) =>
    (match why with
     | some d => set (logAccess s kCore c pa d)
     | none => pure ())
    raise { code := 0x0F, addr := va, info := pa, wr := wr, fetch := exec, retry := retry }

/-- Core `c` obtains line `l` of coherent fabric memory with the given right, inside the node when
the node has it, else by a request to the partner's home (R193). `w` is whom the response serves; the
waiters of a line are served in their order of arrival (R203). A load through a no-speculate reach that
leaves the node cannot be discarded (R116). -/
def acqFab (c : CoreNo) (i l : Nat) (x : Bool) (who : TxWho) (spec : Bool) : CpuM Unit := do
  let s ← get
  let r := lrec s l
  let w := who.waiter x spec
  let held := if x then decide (r.owner = some c.val ∧ r.right = .excl) else decide (c.val ∈ r.present)
  if s.migrating.any (fun m => m.1 == sliceOf (64 * l)) then stall
  else if held then set (proxyDone s l w)
  else if !(proxyTurn s l w) then proxyWait l w
  else if x then
    if r.right = .excl then
      if r.owner.isSome && r.hold then proxyWait l w
      else
        let (ok, s) := if r.inSf then (true, s) else evictSf s l
        set s
        if ok then
          set (setLrec (proxyDone s l w) l { lrec s l with present := [c], owner := some c.val,
                                                           fcore := none, hold := true })
        else proxyWait l w
    else if txLine s l || txFull s then proxyWait l w
    else
      set (sendReq s who i (64 * l) (if r.right = .shared then opUpg else opRdX) false [] 0 false)
      proxyWait l w
  else if r.right ≠ .none then
    match r.owner with
    | some o =>
      if r.hold then proxyWait l w
      else set (setLrec (proxyDone s l w) l { r with present := addNew r.present c, owner := none,
                                                     fcore := some o })
    | none =>
      let own := r.right = .excl ∧ r.present.isEmpty
      let (ok, s) := if r.inSf then (true, s) else evictSf s l
      set s
      if ok then
        set (setLrec (proxyDone s l w) l { r with present := addNew r.present c,
                                                  owner := if own then some c.val else none,
                                                  fcore := if own then none else r.fcore })
      else proxyWait l w
  else if txLine s l || txFull s then proxyWait l w
  else
    let s := if reachNoSpec s i && decide (who = .load c.val) then noteMust s c else s
    set (sendReq s who i (64 * l) opRdS spec [] 0 false)
    proxyWait l w

/-- Whether an access at level `pl` to an address of the secure part is one to a non-existent address: by
the fused policy, or in the part of the moon cores (R308, R365). -/
def secureDenied (s : State) (pl pa : Nat) : Bool :=
  let lv := fget s F.spdPolicy_SLVL 0
  decide (region s pa = .secure) && (moonPart pa || decide (pl < (if lv < 2 then 3 else lv)))

/-- The value of line `l` as core `c` reads it with memory type `mt` (R165): poison is raised with
the physical address (R209). -/
def readLine (c : CoreNo) (pl l : Nat) (mt : MemType) (pa : Nat) (va : Word) (wr : Bool)
    (exec : Bool) : CpuM Line := do
  let s ← get
  let te := fbit s F.pstate_TE c
  let pois : CpuM Line :=
    raise { code := 0x0E, addr := w64 pa, info := if te then va.toNat else 0, wr := wr,
            fetch := exec }
  let localRead : CpuM Line := do
    match mt with
    | .cached =>
      acqS c l
      let s ← get
      if (poisonOf s l).isSome then pois else pure (curLine s l)
    | _ =>
      let (v, s') := ask s (.core c) l .rdCur
      match v with
      | some v =>
        set s'
        if v.pois then pois else pure v.data
      | none =>
        set (noteMust s' c)
        stall
  match region s pa with
  | .dram => localRead
  | .spd => localRead
  | .secure => if secureDenied s pl pa then pois else localRead
  | .absent => pois
  | .fabric i =>
    match Tab.find (coreOf s c).got l with
    | some k =>
      let v ← useGot te va pa wr exec k
      pure (BitVec.ofNat 512 v)
    | none =>
      refuseReach c i pl va pa wr exec
      match mt, reachCoh s i with
      | .cached, true =>
        acqFab c i l false (.load c) false
        let s ← get
        if (poisonOf s l).isSome then pois else pure (curLine s l)
      | .cached, false =>
        if (lrec s l).right ≠ .none then
          set (setLrec s l { lrec s l with present := addNew (lrec s l).present c })
          if (poisonOf s l).isSome then pois else pure (curLine s l)
        else if txLine s l then stall
        else
          sendWait (.fill c) i (64 * l) opRdCur false [] 0 false
          modify (fun s => noteMust s c)
          stall
      | _, _ =>
        if txOf s c (64 * l) then stall
        else
          sendWait (.load c) i (64 * l) opRdCur false [] 0 false
          modify (fun s => noteMust s c)
          stall

/-! Translation. -/

/-- A translated piece of an access within one page. -/
structure Piece where
  va : Nat
  pa : Nat
  len : Nat
  mt : MemType
  tag : Option TlbTag
  deriving DecidableEq, Repr

/-- The memory type of a code (R144). -/
def mtOf (n : Nat) : MemType := if n = 0 then .cached else if n = 1 then .ordered else .combining

/-- Whether the rights of an entry (SR SW SX UR UW UX from bit 0) admit an access (R153). -/
def rightsOk (rights pl : Nat) (k : AKind) : Bool :=
  let b := if pl = 0 then 3 else 0
  match k with
  | .fetch => bit rights (b + 2)
  | .map => true
  | _ => (!k.needR || bit rights b) && (!k.needW || bit rights (b + 1))

/-- Whether PKR denies an access through key `key` (R155). -/
def keyDenies (pkr key : Nat) (k : AKind) : Bool :=
  match k with
  | .fetch | .map => false
  | _ => bit pkr (2 * key) || (k.needW && bit pkr (2 * key + 1))

/-- Which check of R153 to R155 an entry fails, as a cause code. -/
def checkEnt (s : State) (c : CoreNo) (pl : Nat) (k : AKind) (locking : Bool) (e : TlbEnt)
    (pa : Nat) : Option Nat :=
  let noX := match region s pa with
    | .fabric i => !(reachCoh s i) || reachNoSpec s i
    | _ => false
  match k with
  | .map => none
  | .fetch => if !(rightsOk e.rights pl k) || e.mt ≠ 0 || noX then some 0x04 else none
  | _ =>
    if !(rightsOk e.rights pl k) then some 0x06
    else if !locking && keyDenies (fget s F.pkr_KR c) e.key k then some 0x07
    else none

/-- The physical address of a virtual address through an entry (R144). -/
def entPa (e : TlbEnt) (va : Nat) : Nat :=
  let sh := pageShift e.tag.sz
  (e.frame * 4096) / 2 ^ sh * 2 ^ sh + va % 2 ^ sh

/-- Whether an entry serves an access (R157). -/
def entHits (e : TlbEnt) (vmid asid va : Nat) : Bool :=
  decide (e.tag.vmid = vmid) && (e.tag.g || decide (e.tag.asid = asid)) &&
    decide (e.tag.vpn = bitsOf va 55 (pageShift e.tag.sz))

/-- The exception of a translation, with the access's virtual address. -/
def xlatExc (code va info : Nat) (k : AKind) : Exc :=
  { code := code, addr := w64 va, info := info, wr := k.wr, fetch := decide (k = .fetch) }

/-- The 16-byte slot `i` of a bucket as two words (R143). -/
def slotWords (b0 b1 : Line) (i : Nat) : Nat × Nat :=
  let l := if i < 4 then b0 else b1
  (lineSlice l (16 * (i % 4)) 8, lineSlice l (16 * (i % 4) + 8) 8)

/-- Reads a 128-byte bucket for the walker (R148). -/
def readBucket (c : CoreNo) (b va : Nat) (k : AKind) : CpuM (Line × Line) := do
  let s ← get
  let err : CpuM (Line × Line) := raise (xlatExc 0x08 va b k)
  let one (l : Nat) : CpuM Line := do
    let s ← get
    match region s b with
    | .fabric i =>
      match Tab.find (coreOf s c).got (walkKey l) with
      | some (.value v) => pure (BitVec.ofNat 512 v)
      | some .poison => raise (xlatExc 0x09 va b k)
      | some _ =>
        set (logAccess s kCore c b 5)
        raise (xlatExc 0x08 va b k)
      | none =>
        if (reachRefuses s i (fun _ => true)).isSome then
          set (logAccess s kCore c b 5)
          raise (xlatExc 0x08 va b k)
        else
          acqFab c i l false (.walk c) false
          let s ← get
          if (poisonOf s l).isSome then raise (xlatExc 0x09 va b k) else pure (curLine s l)
    | _ =>
      acqS c l
      let s ← get
      if (poisonOf s l).isSome then raise (xlatExc 0x09 va b k) else pure (curLine s l)
  let go : CpuM (Line × Line) := do
    let x ← one (b / 64)
    let y ← one (b / 64 + 1)
    pure (x, y)
  match region s b with
  | .dram => go
  | .fabric i => if reachCoh s i then go else err
  | _ => err

/-- The outcome of one bucket: a match with its slot, the next bucket of the chain, or neither. -/
inductive Probe where
  | hit (e0 e1 slot : Nat)
  | bad
  | next (b : Nat)
  | none
  deriving DecidableEq, Repr

/-- Whether an entry matches a probe (R149). -/
def slotMatches (e0 e1 vmid a sc va : Nat) (glob : Bool) : Bool :=
  decide (bitsOf e1 15 0 = vmid) && decide (bitsOf e0 3 2 = sc) &&
    decide (bitsOf e1 63 32 = bitsOf va 55 (pageShift sc) / 4096) &&
    (if glob then bit e0 4 && decide (bitsOf e1 31 16 = 0)
     else !(bit e0 4) && decide (bitsOf e1 31 16 = a))

/-- Scans the slots of a bucket from slot `i` on, `n` slots left (R149). -/
def scanSlots (b0 b1 : Line) (vmid a sc va : Nat) (glob : Bool) (nx : Probe) : Nat → Nat → Probe
  | _, 0 => nx
  | i, n + 1 =>
    let (e0, e1) := slotWords b0 b1 i
    if bit e0 1 then
      if i ≠ 7 ∨ bit e0 0 ∨ bitsOf e0 6 2 ≠ 0 ∨ bitsOf e0 63 52 ≠ 0 ∨ e1 ≠ 0 then .bad
      else .next (bitsOf e0 51 7 * 128)
    else if bit e0 0 && slotMatches e0 e1 vmid a sc va glob then
      if bitsOf e0 8 7 = 3 ∨ bitsOf e0 23 19 ≠ 0 then .bad else .hit e0 e1 i
    else scanSlots b0 b1 vmid a sc va glob nx (i + 1) n

/-- Follows one probe through its chain of at most 16 buckets (R149). -/
def probeChain (c : CoreNo) (vmid a sc va : Nat) (glob : Bool) (k : AKind) (b : Nat) :
    Nat → CpuM (Option (Nat × Nat × Nat))
  | 0 => raise (xlatExc 0x08 va b k)
  | n + 1 => do
    let (x, y) ← readBucket c b va k
    match scanSlots x y vmid a sc va glob .none 0 8 with
    | .bad => raise (xlatExc 0x08 va b k)
    | .hit e0 e1 i => pure (some (e0, e1, b + 16 * i))
    | .none => pure none
    | .next b' => if n = 0 then raise (xlatExc 0x08 va b' k) else probeChain c vmid a sc va glob k b' n

/-- Tries the probes of a walk in order: (global, ASID, size) (R149, R150). -/
def tryProbes (c : CoreNo) (vmid va : Nat) (k : AKind) :
    List (Bool × Nat × Nat) → CpuM (Option (Nat × Nat × Nat))
  | [] => pure none
  | (g, a, sc) :: ps => do
    let s ← get
    match ← probeChain c vmid a sc va g k (ftBucket s c vmid a sc va) 16 with
    | some x => pure (some x)
    | none => tryProbes c vmid va k ps

/-- The probes that FTMASK asks for (R149). -/
def probesOf (s : State) (c : CoreNo) : List (Bool × Nat × Nat) :=
  let sz := (upto 4).filter (fun sc => bit (fget s F.ftmask_SZEN c) sc)
  let asid := fget s F.asid_ASID c
  sz.map (fun sc => (false, asid, sc)) ++
    (if fbit s F.ftmask_GP c then sz.map (fun sc => (true, 0, sc)) else [])

/-- A frame-table entry as a TLB entry (R144, R156). -/
def entOf (e0 e1 : Nat) : TlbEnt :=
  let sc := bitsOf e0 3 2
  { tag := { vmid := bitsOf e1 15 0, asid := bitsOf e1 31 16, g := bit e0 4, sz := sc, vpn := 0 },
    frame := bitsOf e0 63 24 % 2 ^ 40, mt := bitsOf e0 8 7, key := bitsOf e0 12 9,
    rights := bitsOf e0 18 13, d := bit e0 6, locked := false }

/-- A request of core `c` that its instruction no longer waits for: a walk's, or the read of a copy. -/
def Tx.unwait (c : CoreNo) (t : Tx) : Tx :=
  match t.who with
  | .walk k => if k = c.val then { t with who := .row k } else t
  | .load k => if k = c.val ∧ t.msg.op.toNat = opRdS then { t with who := .row k } else t
  | _ => t

/-- What core `c`'s instruction asked for and no longer waits for: the walker's answers are dropped,
requests for copies serve no instruction, and it waits at no proxy slice. -/
def dropSwaps (s : State) (c : CoreNo) : State :=
  { proxyLeave s c with txs := s.txs.map (Tx.unwait c), homeDone := s.homeDone.filter (fun x => !(x.1.who == .req (.core c) &&
      (match x.1.req with
       | .atom _ (.cas16 _ _) => true
       | _ => false))) }

/-- The walker's 16-byte compare-and-swap at the home of a slot (R152): whether it succeeded. -/
def walkSwap (c : CoreNo) (addr va : Nat) (k : AKind) (old new : BitVec 128) : CpuM Bool := do
  let s ← get
  match region s addr with
  | .fabric i =>
    match Tab.find (coreOf s c).got (walkKey addr) with
    | some (.value v) => pure (decide (v = old.toNat))
    | some .poison => raise (xlatExc 0x09 va (addr / 128 * 128) k)
    | some _ =>
      set (logAccess s kCore c (addr / 128 * 128) 5)
      raise (xlatExc 0x08 va (addr / 128 * 128) k)
    | none =>
      if s.txs.any (fun t => t.pa == addr && t.who == .walk c) then stall
      else
        let (g, sub) := atomGranules (.cas16 old new)
        sendWait (.walk c) i addr opAtom false g sub false
        stall
  | _ =>
    let (v, s) := ask s (.core c) (addr / 64) (.atom (addr % 64) (.cas16 old new))
    set s
    match v with
    | some v => if v.pois then raise (xlatExc 0x09 va (addr / 128 * 128) k)
                else pure (decide (v.old = old.toNat))
    | none => stall

/-- The set of the L2 TLB that an entry lies in: 512 sets, indexed by va[s + 8:s] (R156). -/
def tlbSet (e : TlbEnt) : Nat := e.tag.vpn % 512

/-- The list without its entry `i`. -/
def dropAt {α : Type} (l : List α) (i : Nat) : List α := l.take i ++ l.drop (i + 1)

/-- An entry enters an L1 TLB of `cap` entries; in a full one it takes the place of a free choice
(R156). -/
def fillL1 (cap v : Nat) (e : TlbEnt) (l : List TlbEnt) : List TlbEnt :=
  e :: (if l.length < cap then l else dropAt l (v % cap))

/-- The state with an entry put into the L1 TLB of its kind of access. -/
def noteL1 (s : State) (c : CoreNo) (k : AKind) (e : TlbEnt) : State :=
  let e := { e with locked := false }
  let (v, s) := takeFree s
  modCore s c (fun x =>
    if k = .fetch then { x with itlb := fillL1 64 v e x.itlb } else { x with dtlb := fillL1 96 v e x.dtlb })

/-- An entry enters its set of eight ways of the L2 TLB. In a full set it takes the place of a free
choice among the entries that are not locked; where all eight are locked it does not enter (R156,
R158). -/
def fillL2 (v : Nat) (e : TlbEnt) (l : List TlbEnt) : List TlbEnt :=
  let mates := l.filter (fun x => tlbSet x == tlbSet e)
  let free := mates.filter (fun x => !x.locked)
  if mates.length < 8 then e :: l
  else
    match free[v % max free.length 1]? with
    | some x => e :: l.erase x
    | none => l

/-- Puts an entry into the TLBs, in place of those with its identity or that of the entry `old` whose
failure led to the walk; a lock stays (R156, R158, R162). -/
def fillTlb (s : State) (c : CoreNo) (k : AKind) (old : Option TlbTag) (e : TlbEnt) : State :=
  let same (x : TlbEnt) : Bool := decide (x.tag = e.tag) || decide (old = some x.tag)
  let e := { e with locked := e.locked || (coreOf s c).tlb.any (fun x => same x && x.locked) }
  let (v, s) := takeFree s
  let s := modCore s c (fun x => { x with
    tlb := fillL2 v e (x.tlb.filter (fun y => !(same y))),
    itlb := x.itlb.filter (fun y => !(same y)), dtlb := x.dtlb.filter (fun y => !(same y)) })
  noteL1 s c k e

/-- The walk (R149, R152): finds the entry, checks the access, sets A and D, and fills the TLBs.
`locking` is TLBLOCK's walk, which checks no key and fills nothing itself (R87); `old` is the entry
whose failure led to the walk (R162). At most `n` restarts. -/
def walk (c : CoreNo) (va pl : Nat) (k : AKind) (locking : Bool) (old : Option TlbTag) :
    Nat → CpuM TlbEnt
  | 0 => stall
  | n + 1 => do
    let s ← get
    let vmid := fget s F.vmid_VMID c
    match ← tryProbes c vmid va k (probesOf s c) with
    | none => raise (xlatExc 0x05 va 0 k)
    | some (e0, e1, addr) =>
      let s ← get
      let e := entOf e0 e1
      let e := { e with tag := { e.tag with vpn := bitsOf va 55 (pageShift e.tag.sz) } }
      let fill (e : TlbEnt) : CpuM Unit :=
        modify (fun s => noteEv (if locking then s else fillTlb s c k old e) c evWalk)
      if k = .map then
        modify (fun s => noteEv s c evWalk)
        pure e
      else
        match checkEnt s c pl k locking e (entPa e va) with
        | some code => raise (xlatExc code va 0 k)
        | none =>
          let e0' := setBitsOf e0 5 5 1
          let e0' := if k.setsD then setBitsOf e0' 6 6 1 else e0'
          let e' := { e with d := bit e0' 6 }
          if e0' = e0 then
            fill e'
            pure e'
          else
            let w (x : Nat) : BitVec 128 := BitVec.ofNat 128 (x + e1 * 2 ^ 64)
            if ← walkSwap c addr va k (w e0) (w e0') then
              fill e'
              pure e'
            else
              modify (fun s => noteEv (modCore s c (fun k => { k with got := noWalks k.got })) c
                evWalkRestart)
              walk c va pl k locking old n

/-- The entry of a list that serves an access of the current VMID and ASID (R157). -/
def tlbHit (s : State) (c : CoreNo) (va : Nat) (l : List TlbEnt) : Option TlbEnt :=
  l.find? (fun e => entHits e (fget s F.vmid_VMID c) (fget s F.asid_ASID c) va)

/-- Whether an entry must be walked again before it serves an access (R162). -/
def mustRewalk (s : State) (c : CoreNo) (va pl : Nat) (k : AKind) (e : TlbEnt) : Bool :=
  (checkEnt s c pl k false e (entPa e va)).isSome || (k.setsD && !e.d)

/-- The translation of one address with PSTATE.TE = 1 (R156, R157, R162): an entry of the L1 TLB or of
the L2 TLB that admits the access, or the result of a walk. -/
def lookupTlb (c : CoreNo) (va pl : Nat) (k : AKind) : CpuM TlbEnt := do
  if !(canonical va) then raise (xlatExc 0x05 va 0 k)
  else
    let s ← get
    let core := coreOf s c
    let miss := if k = .fetch then evItlbMiss else evDtlbMiss
    let again (e : TlbEnt) : CpuM TlbEnt := do
      let w ← walk c va pl k false (some e.tag) 4
      modify (fun s => noteEv s c evTlbRewalk)
      pure w
    match tlbHit s c va (if k = .fetch then core.itlb else core.dtlb) with
    | some e => if k ≠ .map && mustRewalk s c va pl k e then again e else pure e
    | none =>
      match tlbHit s c va core.tlb with
      | some e =>
        if k = .map then pure e
        else if mustRewalk s c va pl k e then
          modify (fun s => noteEv s c miss)
          again e
        else
          modify (fun s => noteEv (noteL1 s c k e) c miss)
          pure e
      | none =>
        let w ← walk c va pl k false none 4
        if k = .map then pure w
        else
          modify (fun s => noteEv s c miss)
          pure w

/-- The memory type of an untranslated access (R139). -/
def physType (s : State) (pa : Nat) : MemType :=
  match region s pa with
  | .fabric i => if reachCoh s i then .cached else .ordered
  | _ => .cached

/-- Translates `n` bytes at `va` that lie in one page (R139, R149). -/
def transl1 (c : CoreNo) (va n pl : Nat) (te : Bool) (k : AKind) : CpuM Piece := do
  if te then
    let e ← lookupTlb c va pl k
    pure { va := va, pa := entPa e va, len := n, mt := mtOf e.mt, tag := some e.tag }
  else
    let s ← get
    match k, region s va with
    | .fetch, .fabric i =>
      if !(reachCoh s i) || reachNoSpec s i then raise (xlatExc 0x04 va 0 k)
      else pure { va := va, pa := va, len := n, mt := physType s va, tag := none }
    | _, _ => pure { va := va, pa := va, len := n, mt := physType s va, tag := none }

/-- The rank of a cause of a data access (R123). -/
def dataRank (code : Nat) : Nat :=
  if code = 0x05 then 12 else if code = 0x08 then 13 else if code = 0x09 then 14
  else if code = 0x06 then 15 else if code = 0x07 then 16 else if code = 0x0F then 17
  else if code = 0x10 then 18 else 19

/-- Two parts of one access: where both fault, the cause of the lower rank is delivered, and of equal
ranks the first part's (R123; DESIGN CHOICE, assumption 107). -/
def lowest {α β : Type} (a : CpuM α) (b : CpuM β) : CpuM (α × β) := do
  let s ← get
  match a s with
  | .ok x s' =>
    set s'
    let y ← b
    pure (x, y)
  | .error (.exc e) s' =>
    match b s' with
    | .ok _ s'' =>
      set s''
      raise e
    | .error (.exc f) s'' =>
      set s''
      if dataRank f.code < dataRank e.code then raise f else raise e
    | .error .stall s'' =>
      set s''
      stall
  | .error .stall s' =>
    set s'
    stall

/-- The fault that an access would meet in the page of `va`, with nothing marked or filled. -/
def xlatFault (c : CoreNo) (va pl : Nat) (k : AKind) : CpuM (Option Exc) := do
  let s ← get
  let fault (code info : Nat) : Option Exc := some (xlatExc code va info k)
  if !(canonical va) then pure (fault 0x05 0)
  else if (tlbHit s c va ((coreOf s c).dtlb ++ (coreOf s c).tlb)).any (fun e =>
      (checkEnt s c pl k false e (entPa e va)).isNone) then pure none
  else
    match walk c va pl .map false none 4 s with
    | .ok e s' =>
      set s'
      pure ((checkEnt s' c pl k false e (entPa e va)).bind (fun code => fault code 0))
    | .error (.exc x) s' =>
      set s'
      pure (fault x.code x.info)
    | .error .stall s' =>
      set s'
      stall

/-- Translates an access of `n` bytes, both pages before any part takes effect (R51); where both pages
fault, the cause of the lower rank is delivered (R123). -/
def transl (c : CoreNo) (va n pl : Nat) (te : Bool) (k : AKind) : CpuM (List Piece) := do
  let m := 4096 - va % 4096
  if n ≤ m then
    let p ← transl1 c va n pl te k
    pure [p]
  else
    let vb := (va + m) % 2 ^ 64
    let s ← get
    match transl1 c va m pl te k s with
    | .ok p s' =>
      set s'
      let q ← transl1 c vb (n - m) pl te k
      pure [p, q]
    | .error (.exc x) s' =>
      set s'
      match ← xlatFault c vb pl k with
      | some y => if dataRank y.code < dataRank x.code then raise y else raise x
      | none => raise x
    | .error .stall s' =>
      set s'
      stall

/-! The store buffer and the combining buffer. -/

/-- A run of bytes within one line. -/
structure Seg where
  va : Nat
  pa : Nat
  len : Nat
  mt : MemType
  tag : Option TlbTag
  deriving DecidableEq, Repr

/-- Cuts a piece at line boundaries; an access covers at most `k` lines. -/
def cutLines (va pa len : Nat) (mt : MemType) (tag : Option TlbTag) : Nat → List Seg
  | 0 => []
  | k + 1 =>
    if len = 0 then []
    else
      let m := min len (64 - pa % 64)
      ⟨va, pa, m, mt, tag⟩ :: cutLines (va + m) (pa + m) (len - m) mt tag k

/-- The line segments of an access. -/
def segsOf (ps : List Piece) : List Seg :=
  ps.flatMap (fun p => cutLines p.va p.pa p.len p.mt p.tag 4)

/-- Whether two byte ranges overlap. -/
def overlaps (a n b m : Nat) : Bool := decide (a < b + m) && decide (b < a + n)

/-- Latches the first fabric store error of a core; every one is logged (R271). -/
def latchErr (s : State) (c : CoreNo) (e : FabErr) : State :=
  let s := logAccess s kCore c e.pa 1
  if (coreOf s c).latch.isNone then modCore s c (fun k => { k with latch := some e }) else s

/-- Writes bytes into a line that core `c` holds for writing (R190). -/
def storeInLine (s : State) (l o : Nat) (bs : List Byte) : State :=
  let d := mergeLine (curLine s l) (BitVec.ofNat 512 (leNat bs * 2 ^ (8 * o))) (maskOf o bs.length)
  let p := decide (bs.length ≠ 64) && (poisonOf s l).isSome
  setLrec s l { lrec s l with data := some d, dpois := p, dirty := true }

/-- A part of a buffered store is made ready: the line that it writes is held, or the store has met an
error, by which it is discarded (R165, R271). -/
def prepSeg (c : CoreNo) (mt : MemType) (va : Word) (g : Seg) : CpuM (Option FabErr) := do
  let s ← get
  let l := g.pa / 64
  let w : Option Nat := some (128 + c)
  let localLine : CpuM (Option FabErr) := do
    (if mt = .cached then acqX c l else pure ())
    pure none
  match region s g.pa with
  | .dram => localLine
  | .spd => localLine
  | .secure => localLine
  | .absent => pure none
  | .fabric i =>
    match Tab.find (coreOf s c).got (storeKey l) with
    | some (.value _) => pure none
    | some k =>
      let retry := match k with
        | .nak r => r
        | _ => false
      set (modCore (proxyDone s l w) c (fun k => { k with got := Tab.erase k.got (storeKey l) }))
      pure (some { timeout := decide (k = .timeout), retry := retry, wr := true, va := va, pa := g.pa })
    | none =>
      match reachRefuses s i (fun _ => true) with
      | some (retry, _) =>
        set (proxyDone s l w)
        pure (some { timeout := false, retry := retry, wr := true, va := va, pa := g.pa })
      | none =>
        match mt, reachCoh s i with
        | .cached, true =>
          acqFab c i l true (.line c) false
          pure none
        | .cached, false =>
          if (lrec s l).right ≠ .none then pure none
          else if txLine s l then stall
          else
            sendWait (.line c) i (64 * l) opRdCur false [] 0 false
            stall
        | _, _ => pure none

/-- The parts of a store are made ready; the first error ends it. -/
def prepSegs (c : CoreNo) (e : SbEntry) : List Seg → CpuM (Option FabErr)
  | [] => pure none
  | g :: gs => do
    match ← prepSeg c g.mt e.va g with
    | some x => pure (some x)
    | none => prepSegs c e gs

/-- Performs one line's part of a store that is ready (R84, R165): into the held line, at the home, or
sent to the partner. A store to a non-existent address is discarded and logged (R23). A store sent
through a coherent reach follows the earlier ones to its line (R167). -/
def performSeg (c : CoreNo) (pa : Nat) (bs : List Byte) (mt : MemType) (va : Word) :
    CpuM Unit := do
  let s ← get
  let l := pa / 64
  let o := pa % 64
  let line : Line := BitVec.ofNat 512 (leNat bs * 2 ^ (8 * o))
  let mask := maskOf o bs.length
  let localWrite : CpuM Unit := do
    match mt with
    | .cached => modify (fun s => storeInLine s l o bs)
    | _ =>
      let (v, s') := ask s (.core c) l (.wrLine mask line false)
      set s'
      if v.isSome then pure () else stall
  match region s pa with
  | .dram => localWrite
  | .spd => localWrite
  | .secure => localWrite
  | .absent => set (logAccess s kCore c pa 0)
  | .fabric i =>
    if postedCoh s c (fun t => t.pa / 64 == l) then stall
    else if mt = .cached && (Tab.find (coreOf s c).got (storeKey l)).isNone then
      set (storeInLine s l o bs)
    else
      -- an uncached store, or a line that its home keeps uncached (R192): the bytes go as a WR_LINE
      sendWait (.store c va true) i pa opWrLine false (wrLineGranules mask line) 0 false
      modify (fun s => modCore s c (fun k => { k with got := Tab.erase k.got (storeKey l) }))

/-- The pages' parts of a store-buffer entry. -/
def SbEntry.parts (e : SbEntry) : List SbRest := ⟨e.pa, e.bytes, e.mt, e.tag⟩ :: e.rest.toList

/-- The line parts of a store-buffer entry. -/
def SbEntry.segs (e : SbEntry) : List Seg :=
  e.parts.flatMap (fun p => cutLines e.va.toNat p.pa p.bytes.length p.mt p.tag 4)

/-- A store-buffer entry without its first `n` bytes, which lie in its first line. Its address for R271
stays that of the store. -/
def SbEntry.shorten (e : SbEntry) (n : Nat) : SbEntry :=
  match decide (e.bytes.length ≤ n), e.rest with
  | true, some r => { e with pa := r.pa, bytes := r.bytes, mt := r.mt, tag := r.tag, rest := none }
  | _, _ => { e with pa := e.pa + n, bytes := e.bytes.drop n }

/-- The oldest entry of the store buffer without its first `n` bytes. -/
def shortenHead (s : State) (c n : Nat) : State :=
  modCore s c (fun k => { k with sb := match k.sb with
    | [] => []
    | e :: es => e.shorten n :: es })

/-- The store buffer without its oldest entry; a store that waits for its place takes it. -/
def dropHead (s : State) (c : Nat) : State :=
  modCore s c (fun k => { k with sb := k.sb.tail ++ k.late.take 1, late := k.late.drop 1 })

/-- A store into the sampling ring fails: it is counted in LOST and the ring stops; nothing is logged
(R422). -/
def failRing (s : State) (c : Nat) : State :=
  let s := modCore s c (fun k => { k with ring := { k.ring with lost := k.ring.lost + 1 } })
  fput (fput s F.psbbase_STOP c 1) F.psbbase_IRQ c 1

/-- A buffered store in error is discarded: a program's is latched and logged (R271), a record's and a
dump's stop their ring (R422, R423). -/
def failStore (s : State) (c : CoreNo) (k : SbKind) (e : FabErr) : State :=
  match k with
  | .program => latchErr s c e
  | .sample => failRing s c
  | .dump => fput s F.pmcDump_ERR c 1

/-- Performs the parts of the oldest entry, each once, and then removes it. -/
def performSegs (c : CoreNo) : List Seg → CpuM Unit
  | [] => modify (fun s => dropHead s c)
  | g :: gs => do
    let s ← get
    match (coreOf s c).sb with
    | [] => pure ()
    | e :: _ =>
      performSeg c g.pa (e.bytes.take g.len) g.mt e.va
      modify (fun s => shortenHead s c g.len)
      performSegs c gs

/-- Performs the oldest entry of the store buffer. An STL, and a store behind an SSYNC, wait for the
older stores that have been sent through a coherent reach (R84, R170). A store with a part in error is
discarded whole (R271); what a partner has accepted of an uncached store to two lines, each a WR_LINE of
its own, stays when it refuses the other (DESIGN CHOICE, assumption 128). -/
def performHead (c : CoreNo) : CpuM Unit := do
  let s ← get
  match (coreOf s c).sb with
  | [] => pure ()
  | e :: _ =>
    if (e.rel || e.fence) && postedCoh s c (fun t => t.msg.op.toNat == opWrLine) then stall
    else
      match ← prepSegs c e e.segs with
      | some x =>
        modify (fun s => dropHead (failStore s c e.kind x) c)
      | none => performSegs c e.segs

/-- Performs store-buffer entries, oldest first, while one satisfies `p`; at most `n`. That plain
stores to different bytes are performed in their order too is the model's choice (assumption 13). -/
def drainWhile (c : CoreNo) (p : SbEntry → Bool) : Nat → CpuM Unit
  | 0 => pure ()
  | n + 1 => do
    let s ← get
    if (coreOf s c).sb.any p then
      performHead c
      drainWhile c p n
    else pure ()

/-- Performs every store-buffer entry that satisfies `p`, and those older than it (R173). -/
def drainFor (c : CoreNo) (p : SbEntry → Bool) : CpuM Unit := do
  let s ← get
  drainWhile c p ((coreOf s c).sb.length + (coreOf s c).late.length)

/-- Performs the whole store buffer. -/
def drainSb (c : CoreNo) : CpuM Unit := drainFor c (fun _ => true)

/-- The copies that this node holds of a line behind a non-coherent reach are dropped, and its modified
data is written at the partner first; a fill of the line that is under way ends first, so that no older
data is cached after (R72, R73, R82). -/
def recallOwn (i l : Nat) : CpuM Unit := do
  let s ← get
  let r := lrec s l
  if txLine s l || s.txs.any (fun t => t.pa / 64 == l && t.msg.op.toNat == opWrLine && t.who == .proxy) then
    stall
  else if r.right = .none then pure ()
  else if r.dirty then
    sendWait .proxy i (64 * l) opWrLine false (wrLineGranules (BitVec.allOnes 64) (curLine s l)) 0
      (poisonOf s l).isSome
    modify (fun s => setLrec s l LineRec.none)
    stall
  else modify (fun s => setLrec s l LineRec.none)

/-- Makes a line leave the combining buffer: it is issued, its written bytes go to the home of the
address, and every cached copy is invalidated (R72); a coherent home recalls this node's own. -/
def leaveCb (c : CoreNo) (b : CbLine) : CpuM Unit := do
  modify (fun s =>
    let s := if b.issued then s else count s c (plOf s c) evCbLine 1
    modCore s c (fun k => { k with cb := k.cb.map (fun x =>
      if x.line = b.line then { x with issued := true } else x) }))
  let s ← get
  let pa := 64 * b.line
  let gone (s : State) : State :=
    modCore s c (fun k => { k with cb := k.cb.filter (fun x => x.line ≠ b.line) })
  match region s pa with
  | .absent => set (gone (logAccess s kCore c pa 0))
  | .fabric i =>
    match reachRefuses s i (fun _ => true) with
    | some (retry, _) =>
      set (gone (latchErr s c { timeout := false, retry := retry, wr := true, va := b.va,
                                pa := pa }))
    | none =>
      if postedCoh s c (fun t => t.pa / 64 == b.line) then stall
      else
        (if reachCoh s i then pure () else recallOwn i b.line)
        sendWait (.store c b.va true) i pa opWrLine false (wrLineGranules b.mask b.data) 0 false
        modify gone
  | _ =>
    let (v, s') := ask s (.core c) b.line (.wrLine b.mask b.data false)
    set s'
    if v.isSome then set (gone s') else stall

/-- The lines that satisfy `p` are issued, and leave when their homes accept them: nothing waits for
them. -/
def issueFor (c : CoreNo) (p : CbLine → Bool) (s : State) : State :=
  ((coreOf s c).cb.filter p).foldl (fun s b =>
    match leaveCb c b s with
    | .ok _ s' => s'
    | .error _ s' => s') s

/-- The lines that satisfy `p` are issued, and the instruction waits until they have left. -/
def leaveFor (c : CoreNo) (p : CbLine → Bool) : CpuM Unit := do
  modify (issueFor c p)
  let s ← get
  if (coreOf s c).cb.any p then stall else pure ()

/-- Whether a combining line holds a byte of a segment (R73). -/
def cbHolds (b : CbLine) (g : Seg) : Bool :=
  decide (b.line = g.pa / 64) && decide (b.mask &&& maskOf (g.pa % 64) g.len ≠ 0)

/-- Whether a store-buffer entry overlaps a segment. -/
def sbHits (gs : List Seg) (e : SbEntry) : Bool :=
  e.parts.any (fun p => gs.any (fun g => overlaps p.pa p.bytes.length g.pa g.len))

/-- What two accesses of type UNCACHED_ORDERED may share (R176): this node's memory, or a partner's
through one stream ID. -/
def orderTarget (s : State) (mt : MemType) (pa : Nat) : Option (Option (Nat × Nat)) :=
  if mt ≠ .ordered then none
  else
    match region s pa with
    | .fabric i => some (some (fget s F.reachB_NODE i, fget s F.reachC_STREAM i))
    | .absent => none
    | _ => some none

/-- Whether a store-buffer entry is performed before an access of the segments: it overlaps one
(R167), or both are UNCACHED_ORDERED and share a target (R176). -/
def sbBefore (s : State) (gs : List Seg) (e : SbEntry) : Bool :=
  sbHits gs e || gs.any (fun g => (orderTarget s g.mt g.pa).isSome &&
    e.parts.any (fun p => decide (orderTarget s g.mt g.pa = orderTarget s p.mt p.pa)))

/-- Whether a part of a store covers a segment. -/
def SbRest.covers (p : SbRest) (g : Seg) : Bool :=
  decide (p.pa ≤ g.pa) && decide (g.pa + g.len ≤ p.pa + p.bytes.length)

/-- Whether a store-buffer entry covers every segment. -/
def sbCovers (gs : List Seg) (e : SbEntry) : Bool := gs.all (fun g => e.parts.any (fun p => p.covers g))

/-- The bytes of the segments as an entry that covers them forwards them. -/
def forwardBytes (gs : List Seg) (e : SbEntry) : List Byte :=
  gs.flatMap (fun g => match e.parts.find? (fun p => p.covers g) with
    | some p => (p.bytes.drop (g.pa - p.pa)).take g.len
    | none => [])

/-- Reads the segments from memory; of two causes the one of the lower rank is raised (R123). -/
def readSegs (c : CoreNo) (pl : Nat) (wr exec : Bool) : List Seg → CpuM (List Byte)
  | [] => pure []
  | g :: gs => do
    let (l, rest) ← lowest (readLine c pl (g.pa / 64) g.mt g.pa (w64 g.va) wr exec)
      (readSegs c pl wr exec gs)
    pure (natLe (lineSlice l (g.pa % 64) g.len) g.len ++ rest)

/-- The bytes that a line write carries: its byte mask. -/
def Tx.mask (t : Tx) : BitVec 64 := (t.msg.data.getD 0 0).setWidth 64

/-- A sent line write writes a byte of a segment. -/
def Tx.over (t : Tx) (g : Seg) : Bool :=
  t.msg.op.toNat == opWrLine && decide (t.pa / 64 = g.pa / 64) &&
    decide (t.mask &&& maskOf (g.pa % 64) g.len ≠ 0)

/-- A store that core `c` has sent through a coherent reach, and which is not performed, overlaps a
segment (R173). -/
def postedOver (s : State) (c : CoreNo) (gs : List Seg) : Bool :=
  postedCoh s c (fun t => gs.any t.over)

/-- Of the stores sent and not performed, the youngest that overlaps a segment: its address for R271 and
its bytes of the segment, if it covers it. -/
def postedFor (s : State) (c : CoreNo) (g : Seg) : Option (Word × List Byte) :=
  match (s.txs.filter (fun t => t.over g && reachCoh s t.reach &&
      (match t.who with
       | .store k _ _ => decide (k = c.val)
       | _ => false))).getLast? with
  | none => none
  | some t =>
    match t.who with
    | .store _ va _ =>
      let m := maskOf (g.pa % 64) g.len
      if t.mask &&& m = m then
        some (va, natLe (lineSlice (granulesLine (t.msg.data.drop 1)) (g.pa % 64) g.len) g.len)
      else none
    | _ => none

/-- The bytes of the segments as one sent store that covers them all forwards them (R173). -/
def postedBytes (s : State) (c : CoreNo) (gs : List Seg) : Option (List Byte) :=
  let xs := gs.map (postedFor s c)
  match xs with
  | some (va, _) :: _ =>
    if xs.all (fun x => decide (x.map (fun y => y.1) = some va)) then
      some (xs.flatMap (fun x => (x.map (fun y => y.2)).getD []))
    else none
  | _ => none

/-- The value of a load of translated segments (R73, R173, R174). A load whose level may not read the
secure part reads what its place gives it, whatever a buffered store holds (R308). One that a buffered
store to a non-existent address covers takes the store's value, as R173 says, though the store will be
discarded (DESIGN CHOICE, assumption 129). -/
def loadSegs (c : CoreNo) (pl : Nat) (gs : List Seg) : CpuM (List Byte) := do
  leaveFor c (fun b => gs.any (cbHolds b))
  let s ← get
  let sb := (coreOf s c).sb
  let wait : CpuM (List Byte) := do
    modify (fun s => noteOnce s c evPartial)
    drainFor c (sbBefore s gs)
    let s ← get
    if postedOver s c gs then stall else readSegs c pl false false gs
  if gs.any (fun g => secureDenied s pl g.pa) then readSegs c pl false false gs
  else if gs.all (fun g => decide (g.mt = .cached)) then
    match (sb.filter (sbHits gs)).getLast? with
    | some e =>
      if sbCovers gs e then
        modify (fun s => noteOnce s c evForward)
        pure (forwardBytes gs e)
      else wait
    | none =>
      if postedOver s c gs then
        match postedBytes s c gs with
        | some bs =>
          modify (fun s => noteOnce s c evForward)
          pure bs
        | none => wait
      else readSegs c pl false false gs
  else if sb.any (sbHits gs) || postedOver s c gs then wait
  else
    drainFor c (sbBefore s gs)
    readSegs c pl false false gs

/-- Notes an access for the sample record of its instruction: the first effective address, and the
load (1), store (2), valid (4) and fabric (32) flags of R420; and whether it goes to fabric space. -/
def noteAcc (s : State) (c : CoreNo) (va : Word) (ps : List Piece) (st : Bool) : State :=
  let fab := ps.any (fun p => match region s p.pa with
    | .fabric _ => true
    | _ => false)
  let f := (if st then 2 else 1) + 4 + (if fab then 32 else 0)
  modCore s c (fun k => { k with acc :=
    let n := k.acc.fab + b2n fab
    if k.acc.valid then { k.acc with flags := k.acc.flags ||| f, fab := n } else ⟨true, va, f, n⟩ })

/-- Loads `n` bytes at a virtual address at level `pl` (R51, R153). -/
def loadAt (c : CoreNo) (pl : Nat) (te : Bool) (va : Word) (n : Nat) : CpuM (List Byte) := do
  let ps ← transl c va.toNat n pl te .load
  modify (fun s => noteAcc s c va ps false)
  loadSegs c pl (segsOf ps)

/-- An ALIGN fault on data (R51). -/
def needAlign (va : Word) (n : Nat) (wr : Bool) : CpuM Unit :=
  if va.toNat % n = 0 then pure () else raise { code := 0x03, addr := va, wr := wr }

/-- The lines of a store's segments. -/
def segLines (gs : List Seg) : List Nat := gs.foldl (fun a g => addNew a (g.pa / 64)) []

/-- Line `l` of the segments is among the oldest of the combining buffer, and the new lines of the
segments before it would issue it (R72). -/
def cbPushed (s : State) (c : CoreNo) (gs : List Seg) (l : Nat) : Bool :=
  let opn := ((coreOf s c).cb.filter (fun b => !b.issued)).map (fun b => b.line)
  let new := ((segLines gs).takeWhile (fun x => x != l)).filter (fun x => !(opn.contains x))
  (opn.take (opn.length + new.length - 8)).contains l

/-- What the bytes of a store wait for before they enter the combining buffer: older buffered stores
that overlap them, and a line that holds their place and has been issued, or that their own earlier lines
would issue: an issued line takes no more bytes (R72, R175). -/
def combineReady (c : CoreNo) (gs : List Seg) : CpuM Unit := do
  drainFor c (sbHits gs)
  let s ← get
  leaveFor c (fun b => (segLines gs).contains b.line && (b.issued || cbPushed s c gs b.line))

/-- Places one segment of bytes into the combining buffer. A ninth line issues the oldest, and a full
line is issued (R72, R175). -/
def combine (s : State) (c : CoreNo) (g : Seg) (bs : List Byte) : State :=
  let l := g.pa / 64
  let o := g.pa % 64
  let mask := maskOf o g.len
  let d : Line := BitVec.ofNat 512 (leNat bs * 2 ^ (8 * o))
  let tags := g.tag.toList
  let s :=
    if (coreOf s c).cb.any (fun b => b.line == l && !b.issued) then
      modCore s c (fun k => { k with cb := k.cb.map (fun b =>
        if b.line = l && !b.issued then
          { b with mask := b.mask ||| mask, data := mergeLine b.data d mask, tags := b.tags ++ tags }
        else b) })
    else
      let openLines := (coreOf s c).cb.filter (fun b => !b.issued)
      let s := match openLines with
        | b :: _ => if openLines.length < 8 then s else issueFor c (fun x => decide (x.line = b.line)) s
        | [] => s
      modCore s c (fun k => { k with cb := k.cb ++
        [{ line := l, mask := mask, data := mergeLine 0 d mask, va := w64 g.va, tags := tags }] })
  issueFor c (fun b => decide (b.line = l) && decide (b.mask = BitVec.allOnes 64)) s

/-- Places the segments of a store into the combining buffer. -/
def combineSegs (s : State) (c : CoreNo) (bs : List Byte) : List Seg → Nat → State
  | [], _ => s
  | g :: gs, i => combineSegs (combine s c g ((bs.drop i).take g.len)) c bs gs (i + g.len)

/-- The refusal that a piece of the store at `va` meets before it retires: none is raised on the store
itself (R271). A store buffered at level `pl` that a reach check forbids is discarded and reported
(R268). -/
def storeRefused (s : State) (c : CoreNo) (pl : Nat) (va : Word) (p : Piece) : Bool × State :=
  match region s p.pa with
  | .fabric i =>
    match reachRefuses s i (coreOwns s c pl) with
    | some (retry, why) =>
      let s := match why with
        | some d => logAccess s kCore c p.pa d
        | none => s
      (true, latchErr s c { timeout := false, retry := retry, wr := true, va := va, pa := p.pa })
    | none => (false, s)
  | .secure =>
    if secureDenied s pl p.pa then (true, logAccess s kCore c p.pa 0) else (false, s)
  | _ => (false, s)

/-- Whether the bytes of a piece of a store go to the combining buffer (R175). -/
def Piece.combines (p : Piece) (nt : Bool) : Bool := nt || decide (p.mt = .combining)

/-- The line segments of a piece. -/
def Piece.segs (p : Piece) : List Seg := cutLines p.va p.pa p.len p.mt p.tag 4

/-- The store buffer has room for `n` more of its 96 entries, after the oldest have been performed
(R97); at most `fuel` of them. -/
def sbRoom (c : CoreNo) (n : Nat) : Nat → CpuM Unit
  | 0 => pure ()
  | fuel + 1 => do
    let s ← get
    if (coreOf s c).sb.length + n ≤ 96 then pure ()
    else
      performHead c
      sbRoom c n fuel

/-- What a store waits for before any of its bytes enters a buffer, so that none enters before all can
(R109): lines of the combining buffer that it overlaps (R175), and for an STL to the combining buffer
every older store (R170). -/
def storeReady (c : CoreNo) (nt rel : Bool) (ps : List Piece) : CpuM Unit := do
  let cbs := (ps.filter (fun p => p.combines nt)).flatMap Piece.segs
  let sbs := (ps.filter (fun p => !(p.combines nt))).flatMap Piece.segs
  (if rel && !cbs.isEmpty then do
     drainSb c
     let s ← get
     if postedCoh s c (fun t => t.msg.op.toNat == opWrLine) then stall else pure ()
   else pure ())
  leaveFor c (fun b => sbs.any (cbHolds b))
  (if cbs.isEmpty then pure () else combineReady c cbs)

/-- The first refusal that a piece of the store at `va` meets. -/
def storeRefusals (s : State) (c : CoreNo) (pl : Nat) (va : Word) : List Piece → Bool × State
  | [] => (false, s)
  | p :: ps =>
    match storeRefused s c pl va p with
    | (true, s) => (true, s)
    | (false, s) => storeRefusals s c pl va ps

/-- The pieces of a store, each with its bytes. -/
def cutBytes (bs : List Byte) : List Piece → List (Piece × List Byte)
  | [] => []
  | p :: ps => (p, bs.take p.len) :: cutBytes (bs.drop p.len) ps

/-- A store of the given pieces at `va` enters the store buffer, or the combining buffer by its type (R175);
a store with a piece that is refused is discarded whole (R271). -/
def placeStore (c : CoreNo) (pl : Nat) (nt rel : Bool) (va : Word) (bs : List Byte) (ps : List Piece)
    (s : State) : State :=
  match storeRefusals s c pl va ps with
  | (true, s) => s
  | (false, s) =>
    let xs := cutBytes bs ps
    let s := (xs.filter (fun x => x.1.combines nt)).foldl (fun s x => combineSegs s c x.2 x.1.segs 0) s
    match xs.filter (fun x => !(x.1.combines nt)) with
    | [] => s
    | (p, b) :: more =>
      let rest := more.head?.map (fun x => ⟨x.1.pa, x.2, x.1.mt, x.1.tag⟩)
      modCore s c (fun k =>
        { k with sb := k.sb ++ [{ pa := p.pa, bytes := b, mt := p.mt, va := va, tag := p.tag,
                                  fence := k.fence, rel := rel, rest := rest }],
                 fence := false })

/-- The virtual address of a store, at which its first piece lies. -/
def piecesVa (ps : List Piece) : Word := w64 ((ps.head?.map (fun p => p.va)).getD 0)

/-- A store enters the buffers, all of it at once. -/
def bufferPieces (c : CoreNo) (pl : Nat) (nt rel : Bool) (bs : List Byte) (ps : List Piece) :
    CpuM Unit := do
  storeReady c nt rel ps
  sbRoom c 1 97
  modify (placeStore c pl nt rel (piecesVa ps) bs ps)

/-- Stores of one piece each, at most 9, enter the buffers together (R77). -/
def bufferUnits (c : CoreNo) (pl : Nat) (bs : List Byte) (ps : List Piece) : CpuM Unit := do
  storeReady c false false ps
  sbRoom c ps.length (ps.length + 96)
  modify (fun s => (cutBytes bs ps).foldl
    (fun s x => placeStore c pl false false (w64 x.1.va) x.2 [x.1] s) s)

/-- Stores bytes at a virtual address at level `pl` (R84, R109). -/
def storeAt (c : CoreNo) (pl : Nat) (te : Bool) (va : Word) (bs : List Byte) (nt rel : Bool) :
    CpuM Unit := do
  let ps ← transl c va.toNat bs.length pl te .store
  modify (fun s => noteAcc s c va ps true)
  bufferPieces c pl nt rel bs ps

end Sys2Proof.Machine
end

