-- ==== Sys2Proof/Machine/Except.lean ====
section
/-! DEFINITION. Taking an exception (R119–R132) and issuing an instruction: the fetch checks, the
instruction's own effect, and then its retirement, its exception or its wait. -/

namespace Sys2Proof.Machine

/-- A descriptor as read (R120): its address, whether it is usable for the level it enters, its
target level and the fields of entry. -/
structure Desc where
  addr : Nat
  ok : Bool
  handler : Word
  tpl : Nat
  sel : Nat
  f : Bool
  el : Nat
  eml : Nat
  claim : Bool
  deriving DecidableEq, Repr

/-- Reads descriptor `i` of the VDT (`mdt` false) or MDT for an entry into level `lvl`, or into the
descriptor's own target level where `lvl` is 0 (R119–R121). -/
def readDesc (c : CoreNo) (mdt : Bool) (i lvl : Nat) (anyTpl : Bool) : CpuM Desc := do
  let s ← get
  let base := if mdt then fget s F.coreMdtb_BASE c * 8192 else fget s F.vdtb_BASE c * 8192
  let a := base + 32 * i
  let never := i = 0 ∨ i = 0x11 ∨ (0x1A ≤ i ∧ i ≤ 0x3F)
  let place := match region s a with
    | .dram => true
    | .spd => true
    | .secure => mdt && !(moonPart a)
    | _ => false
  if never || !place then
    pure { addr := a, ok := false, handler := 0, tpl := 0, sel := 0, f := false, el := 0, eml := 0,
           claim := false }
  else
    acqS c (a / 64)
    let s ← get
    let l := curLine s (a / 64)
    let h := lineSlice l (a % 64) 8
    let w := lineSlice l (a % 64 + 8) 4
    let tpl := bitsOf w 2 1
    let dest := if lvl = 0 then (if (i = 8 ∨ i = 9) ∧ tpl = 1 then 2 else tpl) else lvl
    let ok := bit w 0 && decide (h % 4 = 0) && decide (bitsOf w 4 3 ≤ dest) &&
      decide (bitsOf w 7 6 = 0) && decide (bitsOf w 31 17 = 0) && (anyTpl || decide (tpl ≠ 0)) &&
      (poisonOf s (a / 64)).isNone
    pure { addr := a, ok := ok, handler := w64 h, tpl := dest, sel := bitsOf w 4 3, f := bit w 5,
           el := bitsOf w 11 8, eml := bitsOf w 15 12, claim := bit w 16 }

/-- `lookup(e)` of R125: the descriptor and level of a cause or vector, or none with the address of
the unusable descriptor; where a VDT descriptor names PL3 and the MDT has no usable one, that is the
MDT's (DESIGN CHOICE, assumption 106). -/
def lookupDesc (c : CoreNo) (e : Nat) : CpuM (Option (Desc × Nat) × Nat) := do
  let s ← get
  let en := fbit s F.coreMdtb_EN c
  let m ← if en then readDesc c true e 3 true else
    pure { addr := 0, ok := false, handler := 0, tpl := 0, sel := 0, f := false, el := 0, eml := 0,
           claim := false }
  if en && m.ok && m.claim then pure (some (m, 3), m.addr)
  else
    let d ← readDesc c false e 0 false
    if !d.ok then pure (none, d.addr)
    else if d.tpl = 3 then
      if !en || !m.ok then pure (none, if en then m.addr else fget s F.coreMdtb_BASE c * 8192 + 32 * e)
      else pure (some (m, 3), m.addr)
    else pure (some (d, d.tpl), d.addr)

/-- The exception being delivered: the cause or vector, the boundary's level, mask and pc, and the
values of the original exception (R129). -/
structure Delivery where
  e : Nat
  p : Nat
  ml : Nat
  epc : Word
  x : Exc
  deriving DecidableEq, Repr

/-- ECAUSE of an entry (R128, R129). -/
def ecauseOf (d : Delivery) (code orig ent : Nat) (rsv : Bool) : Nat :=
  code + orig * 2 ^ 8 + ent * 2 ^ 16 + d.p * 2 ^ 24 + b2n rsv * 2 ^ 28 + b2n d.x.wr * 2 ^ 29 +
    b2n d.x.fetch * 2 ^ 30 + b2n d.x.retry * 2 ^ 31

/-- The reserved monitor frame of a core (R127). -/
def reservedFrame (c : CoreNo) : Nat := 0x1000_1FE_0000 + c.val * 0x400 + 0x3C0

/-- `push_check(f, s, l)` of R126: 0 when the frame may be written, else the cause; with it the
physical address and the translation. -/
def pushCheck (c : CoreNo) (f sel l : Nat) : CpuM (Nat × Piece) := do
  let s ← get
  let te := fbit s F.pstate_TE c && decide (l ≠ 3)
  let nil : Piece := ⟨f, f, 64, .cached, none⟩
  if te && !(canonical f) then pure (0x05, nil)
  else if f < fget s F.slim_LIM (4 * c + sel) then pure (0x11, nil)
  else
    match transl1 c f 64 l te .store s with
    | .error (.exc e) s' =>
      set s'
      pure (e.code, nil)
    | .error .stall s' =>
      set s'
      stall
    | .ok p s' =>
      set s'
      let good : Bool := match region s' p.pa with
        | .dram => decide (p.mt = .cached)
        | .spd => true
        | .secure => decide (l = 3) && !(moonPart p.pa)
        | _ => false
      pure (if good then 0 else 0x06, p)

/-- The 64 bytes of the frame (R130). -/
def frameBytes (s : State) (c : CoreNo) (d : Delivery) (cause info : Nat) : List Byte :=
  natLe d.epc.toNat 8 ++ natLe (rd s .pstate c).toNat 8 ++ natLe (getG s c spReg).toNat 8 ++
    natLe cause 8 ++ natLe d.x.addr.toNat 8 ++ natLe info 8 ++ natLe 0 8 ++ natLe (tbOf s) 8

/-- A core comes to rest in run state `r` with no instruction under way (R128): its registers and
buffers stay. -/
def haltAs (s : State) (c : CoreNo) (r : RunState) : State :=
  modCore (dropSwaps s c) c (fun k =>
    { k with run := r, later := [], wait := none, got := storesOf k.got, evs := [], skip := none,
             must := false, c6due := false })

/-- The core stops (R128): it keeps its state, and the stop is logged with the values of the
escalation being attempted. -/
def stopCore (s : State) (c : CoreNo) (d : Delivery) (code orig ent : Nat) : State :=
  let s := haltAs s c .stopped
  logEv s { code := 0x12, cls := clsContained, kind := kCore, unit := c, addr := d.epc.toNat,
            d0 := ecauseOf d code orig ent false, d1 := d.x.addr.toNat, d2 := d.ml }

/-- The registers written by an entry at level `l` with frame address `f` (R125). -/
def enterAt (s : State) (c : CoreNo) (d : Delivery) (h : Desc) (l : Nat) (f pa : Nat)
    (tag : Option TlbTag) (cause info : Nat) : State :=
  let fr := frameBytes s c d cause info
  let s := modCore s c (fun k =>
    let e : SbEntry := { pa := pa, bytes := fr, mt := .cached, va := w64 f, tag := tag,
                         fence := k.fence, rel := false }
    { k with sb := k.sb ++ [e], fence := false })
  let s := wr (wr (wr s .epc c d.epc) .ecause c (w64 cause)) .eaddr c d.x.addr
  let s := fput (fput (fput s F.pstate_PL c l) F.pstate_ML c h.eml) F.pstate_BIP c 0
  let s := if l = 3 then fput s F.pstate_TE c 0 else s
  setPc (setG s c spReg (w64 f)) c h.handler

/-- One attempt to enter the handler of an exception: the code, the first cause, the ENT field,
INFO, the descriptor and the level (the arguments of `enter` in R125). -/
structure Attempt where
  code : Nat
  orig : Nat
  ent : Nat
  info : Nat
  h : Desc
  l : Nat
  deriving DecidableEq, Repr

/-- `escalate(code, base, why)` of R125 up to its next attempt to enter, or none where the core has
stopped; `info` is the failed frame address or the address of the unusable descriptor (R123). -/
def escalate (c : CoreNo) (d : Delivery) (code base why orig info : Nat) :
    Nat → CpuM (Option Attempt)
  | 0 => pure none
  | fuel + 1 => do
    let s ← get
    let l := min (base + 1) 3
    if l = 3 ∧ d.p = 3 ∧ d.ml = 15 then
      set (stopCore s c d code orig why)
      pure none
    else
      let h ← readDesc c (l = 3) code l true
      let s ← get
      if !h.ok || (l = 3 && !(fbit s F.coreMdtb_EN c)) then
        if l = 3 then
          set (stopCore s c d code orig why)
          pure none
        else escalate c d 0x12 l 0 orig h.addr fuel
      else
        pure (some ⟨code, orig, why, if code = 0x12 then info else d.x.info, h, l⟩)

/-- `enter(code, d, l)` of R125; a push that fails below PL3 escalates, one at PL3 goes to the
reserved stack. The levels rise, so `fuel` does not run out. -/
def enter (c : CoreNo) (d : Delivery) (a : Attempt) : Nat → CpuM Unit
  | 0 => pure ()
  | fuel + 1 => do
    let s ← get
    let src := if a.l = d.p ∧ !a.h.f then (getG s c spReg).toNat
      else (rd s .stk (4 * c + a.h.sel)).toNat
    let f := (src + 2 ^ 64 - 64) % 2 ^ 64 / 64 * 64
    let (why, p) ← pushCheck c f a.h.sel a.l
    if why ≠ 0 ∧ a.l < 3 then
      match ← escalate c d 0x12 a.l why (if a.orig = 0 then d.e else a.orig) f 4 with
      | some b => enter c d b fuel
      | none => pure ()
    else
      -- the frame needs a place in the store buffer (R97); every line of the combining buffer is issued,
      -- and entry does not wait for it (R116, R190)
      sbRoom c 1 97
      modify (issueFor c (fun _ => true))
      let s ← get
      (if why ≠ 0 then
         let f := reservedFrame c
         set (enterAt s c d a.h a.l f f none (ecauseOf d a.code a.orig a.ent true) a.info)
       else
         set (enterAt s c d a.h a.l f p.pa p.tag (ecauseOf d a.code a.orig a.ent false) a.info))
      modify (fun s => if a.code = d.e ∧ 0x50 ≤ a.code then setPend s c a.code false else s)

/-- `deliver(e)` of R125, at the current boundary. -/
def deliver (c : CoreNo) (e : Nat) (epc : Word) (x : Exc) : CpuM Unit := do
  let s ← get
  let p := plOf s c
  let ml := mlOf s c
  let d : Delivery := ⟨e, p, ml, epc, x⟩
  let (r, bad) ← lookupDesc c e
  let a ← match r with
    | none => escalate c d 0x12 (max p 1) 0 e bad 4
    | some (h, t) =>
      if e < 0x40 ∧ t < p then escalate c d 0x13 (p - 1) 0 e x.info 4
      else if e < 0x40 ∧ h.el ≤ ml then escalate c d 0x13 t 0 e x.info 4
      else pure (some ⟨e, 0, 0, x.info, h, t⟩)
  match a with
  | some a => enter c d a 4
  | none => pure ()

/-- The edge vectors whose bits a word of CORE_IPEND holds; its first is `v`. -/
def pendingIn (s : State) (c : CoreNo) (v : Nat) : List Nat :=
  if rd s .coreIpend (6 * c + (v - 64) / 32) = 0 then []
  else ((upto 32).map (fun j => v + j)).filter (fun v => pendBit s c v)

/-- The vectors pending at a core. -/
def pendingVecs (s : State) (c : CoreNo) : List Nat :=
  [0x40, 0x41, 0x42].filter (fun v => pendBit s c v) ++
    (upto 6).flatMap (fun j => (pendingIn s c (0x40 + 32 * j)).filter (fun v => decide (0x50 ≤ v)))

/-- Of the listed pending vectors, the eligible one taken first, with its EL (R135). -/
def pickVec (c : CoreNo) : List Nat → CpuM (Option (Nat × Nat))
  | [] => pure none
  | v :: vs => do
    let (r, _) ← lookupDesc c v
    let s ← get
    let rest ← pickVec c vs
    match r with
    | some (d, t) =>
      if plOf s c ≤ t ∧ mlOf s c < d.el then
        match rest with
        | some (w, el) => pure (if d.el < el then some (w, el) else some (v, d.el))
        | none => pure (some (v, d.el))
      else pure rest
    | none => pure rest

/-- The interrupt that the core would take now. -/
def eligible (c : CoreNo) : CpuM (Option Nat) := do
  let s ← get
  let r ← pickVec c (pendingVecs s c)
  pure (r.map (fun x => x.1))

/-- The checks of an instruction fetch (R43, R44, R123, R139): alignment, translation and the
memory the words lie in, whose line is obtained as for a load (R196, R197, R268, R270). The words
themselves come with the command. -/
def fetchWord (c : CoreNo) (pl : Nat) (te : Bool) (a : Nat) : CpuM Unit := do
  let p ← transl1 c a 4 pl te .fetch
  let s ← get
  let pois : Exc := { code := 0x0E, addr := w64 p.pa, info := if te then a else 0, fetch := true }
  let line : CpuM Unit := do
    acqS c (p.pa / 64)
    let s ← get
    if (poisonOf s (p.pa / 64)).isSome then raise pois else pure ()
  match region s p.pa with
  | .absent => raise pois
  | .fabric _ => do
    let _ ← readLine c pl (p.pa / 64) .cached p.pa (w64 a) false true
    pure ()
  | .secure => if secureDenied s pl p.pa then raise pois else line
  | _ => line

/-- The fetch checks of an instruction of `len` bytes at the pc. -/
def fetchCheck (c : CoreNo) (len : Nat) : CpuM Unit := do
  let s ← get
  let pc := getPc s c
  -- FETCH is 0 for ALIGN at a branch target (DEDUCED, assumption 10)
  if pc.toNat % 4 ≠ 0 then raise { code := 0x03, addr := pc, fetch := false }
  else
    let pl := plOf s c
    let te := fbit s F.pstate_TE c
    fetchWord c pl te pc.toNat
    if len = 8 then fetchWord c pl te ((pc.toNat + 4) % 2 ^ 64) else pure ()

/-- A sample armed on the core takes the retiring instruction (R419, R420). -/
def takeSample (s : State) (c : CoreNo) (pc : Word) (pl : Nat) (ctl : Bool) : State :=
  let k := coreOf s c
  match k.sample with
  | some ⟨n, e, none⟩ =>
    setCore s c { k with sample := some ⟨n, e, some
      { pc := pc, dva := if k.acc.valid then k.acc.addr else 0, tb := tbOf s,
        flags := k.acc.flags ||| (if k.evs.contains evDtlbMiss then 0x40 else 0),
        asid := fget s F.asid_ASID c, vmid := fget s F.vmid_VMID c, pl := pl, npc := k.pc,
        ctl := ctl }⟩ }
  | _ => s

/-- A control transfer trains the predictors (R101). -/
def train (s : State) (c : CoreNo) (pc : Word) (pl : Nat) (evs : List Nat) : State :=
  if evs.contains evBranch then
    modCore s c (fun k => { k with
      pred := ⟨pc, k.pc, pl, fget s F.vmid_VMID c⟩ :: k.pred })
  else s

/-- What a core keeps of an instruction that has left the pipeline: the check buffer holds only what
buffered stores wait for, and no event is left to count. -/
def Core.idle (k : Core) : Core :=
  { k with got := storesOf k.got, evs := [], skip := none, fails := 0, must := false }

/-- A core that is being stepped halts (R460). -/
def Core.stepped (k : Core) : Core :=
  { k with run := if k.run = .stepping then .halted else k.run }

/-- An instruction retires: its events are counted, the check buffer is empty again, and a core
being stepped halts (R413, R460). -/
def retire (s : State) (c : CoreNo) (pc : Word) (pl : Nat) (evs : List Nat) : State :=
  let s := if (coreOf s c).skip = some 9 then s else countAll s c pl (evInst :: evs ++ (coreOf s c).evs)
  let s := if (coreOf s c).acc.fab = 0 then s else count s c pl evFabric (coreOf s c).acc.fab
  let s := train (takeSample s c pc pl (evs.contains evBranch)) c pc pl evs
  modCore (dropSwaps s c) c (fun k => k.idle.stepped)

/-- The core takes an exception at the instruction at `pc`: the effects of its delivery, or a wait
when a descriptor or frame translation is not at hand (R125). Younger instructions are discarded. -/
def takeExc (s : State) (c : CoreNo) (i : Instr) (pc : Word) (e : Exc) : State :=
  let pl := plOf s c
  let s0 := setPc s c pc
  match deliver c e.code (e.epc.getD pc) e s0 with
  | .ok _ s1 =>
    let s1 := count s1 c pl evExc 1
    let s1 := if e.code = 0x0F ∨ e.code = 0x10 then count s1 c pl evFabricNak 1 else s1
    modCore (dropSwaps s1 c) c (fun k => { k.idle.stepped with
      later := [], latch := if e.latched then none else k.latch })
  | .error _ s1 => modCore s1 c (fun k => { k with wait := some i })

/-- Whether an instruction is a WAIT or WAITT, which a pending interrupt ends (R96, R116). -/
def isWait : Instr → Bool
  | .wait .. | .waitt .. => true
  | _ => false

/-- Whether a request of core `c` is one that cannot be discarded once it is issued: an atomic, an
uncached load, or a load through a no-speculate or non-coherent reach (R116). -/
def Tx.mustEnd (s : State) (c : CoreNo) (t : Tx) : Bool :=
  match t.who with
  | .load k => decide (k = c.val) && (decide (t.msg.op.toNat = opAtom) ||
      decide (t.msg.op.toNat = opRdCur) || reachNoSpec s t.reach)
  | .fill k => decide (k = c.val)
  | _ => false

/-- Whether a request at a home is an atomic or an uncached load of core `c`. -/
def HomeReq.mustEnd (c : CoreNo) (q : HomeReq) : Bool :=
  q.who == .req (.core c) && (match q.req with
    | .atom _ (.cas16 _ _) => false
    | .atom .. => true
    | .rdCur => true
    | _ => false)

/-- Whether acceptance must wait for the core's instruction (R116): it has issued what cannot be
discarded, is inside an element of a block instruction, or is an MTS that has written its register; or
its retirement check has failed, or the core is fenced for a move (R341, R342). -/
def undiscardable (s : State) (c : CoreNo) : Bool :=
  let k := coreOf s c
  k.must || k.skip.isSome || decide (k.fails ≠ 0) || fenced s c

/-- An eligible interrupt is accepted at the boundary and delivered (R116, R124, R135); says whether one
was. An instruction that waited is discarded and runs again after XRET; a WAITT that it ends writes
gD := 1 (R96). An entry that must wait for a translation leaves the core as it was. -/
def acceptInt (c : CoreNo) : CpuM Bool := do
  let s ← get
  if (pendingVecs s c).isEmpty || undiscardable s c then pure false
  else
    match ← eligible c with
    | none => pure false
    | some v =>
      let s ← get
      let was := coreOf s c
      let s := match was.waitt with
        | some (_, d) => setG s c d 1
        | none => s
      let s := modCore s c (fun k => { k with run := if k.run = .c1 then .run else k.run,
                                              waitt := none, c6due := false, wait := none,
                                              later := [] })
      let pl := plOf s c
      match deliver c v (getPc s c) { code := v } s with
      | .ok _ s =>
        set (modCore (dropSwaps (count s c pl evInt 1) c) c (fun k => k.idle))
        pure true
      | .error e s =>
        set (modCore s c (fun k => { k with g := was.g, run := was.run, waitt := was.waitt,
                                            c6due := was.c6due, wait := was.wait,
                                            later := was.later }))
        throw e

/-- A branch, call or return to an address that is not a multiple of 4 takes ALIGN at the target
(R43) with FETCH = 0 (DEDUCED, assumption 10), after an interrupt that is eligible there (R124), unless
the core has halted after its step. -/
def alignTarget (s : State) (c : CoreNo) (i : Instr) : State :=
  let pc := getPc s c
  if pc.toNat % 4 = 0 || !(coreOf s c).active then s
  else
    match acceptInt c s with
    | .ok true s => s
    | .ok false s => takeExc s c i pc { code := 0x03, addr := pc }
    | .error _ s => modCore s c (fun k => { k with wait := some i })

/-- The core runs instruction `i` of `len` bytes with the lowest level `lvl` (R37) and body `m`. An
ill-formed instruction takes ILLEGAL_INSTR (R47). The events it counts at retirement are `evs`. -/
def runBody (c : CoreNo) (i : Instr) (len lvl : Nat) (wf : Bool) (evs : List Nat)
    (m : CpuM Unit) (s : State) : State :=
  let pc := getPc s c
  let pl := plOf s c
  let s := modCore s c (fun k => { k with acc := ⟨false, 0, 0, 0⟩ })
  let all : CpuM Unit := do
    fetchCheck c len
    if !wf then raise { code := 0x01 }
    else if pl < lvl then raise { code := 0x02 }
    else
      modify (fun s => setPc s c (pc + BitVec.ofNat 64 len))
      m
  match all s with
  | .ok _ s' => alignTarget (retire s' c pc pl evs) c i
  | .error .stall s' => modCore (setPc s' c pc) c (fun k => { k with wait := some i })
  | .error (.exc e) s' => takeExc s' c i pc e

/-- Whether an instruction cannot be executed at its boundary: its words or its level fault, or its fetch
faults or waits. -/
def cannotRun (c : CoreNo) (len lvl : Nat) (wf : Bool) (s : State) : Bool :=
  !wf || decide (plOf s c < lvl) ||
    (match fetchCheck c len s with
     | .ok _ _ => false
     | .error _ _ => true)

/-- The boundary before an instruction: an interrupt that is eligible there is taken first, and the
instruction is discarded (R116, R118, R124, R138). A WAIT that can be executed is ended by it instead
(R96). -/
def runInstr (c : CoreNo) (i : Instr) (len lvl : Nat) (wf : Bool) (evs : List Nat)
    (m : CpuM Unit) (s : State) : State :=
  if isWait i && !(cannotRun c len lvl wf s) then runBody c i len lvl wf evs m s
  else
    match acceptInt c s with
    | .ok true s => s
    | .ok false s => runBody c i len lvl wf evs m s
    | .error _ s => modCore s c (fun k => { k with wait := some i })

/-- An instruction is issued to core `c`: it runs when the core runs and no older instruction waits; behind
a waiting one, or while its core is being moved (R342), it waits its turn; a core that is held, asleep,
stopped or halted issues nothing (R128, R432, R96). -/
def issue (c : CoreNo) (i : Instr) (len lvl : Nat) (wf : Bool) (evs : List Nat)
    (m : CpuM Unit) (s : State) : Host.Outcome State Fault Refusal :=
  let k := coreOf s c
  if !k.active then .next s
  else if k.wait.isSome then .next (setCore s c { k with later := k.later ++ [i] })
  else if fenced s c then .next (setCore s c { k with wait := some i })
  else .next (runInstr c i len lvl wf evs m s)

end Sys2Proof.Machine
end

