-- ==== Sys2Proof/Machine/Operands.lean ====
section
/-! DEFINITION. Operand forms: immediates (R46, R47), addresses (R48, R49, R57) and displacements,
with the length each gives its instruction (R43). -/

namespace Sys2Proof.Machine

/-- Bytes of an instruction with this immediate. -/
def immLen : Imm → Nat
  | .short _ => 4
  | .long _ => 8

/-- A sign-extended immediate. -/
def immS : Imm → Word
  | .short v => v.signExtend 64
  | .long v => v.signExtend 64

/-- A zero-extended immediate. -/
def immZ : Imm → Word
  | .short v => v.setWidth 64
  | .long v => v.setWidth 64

/-- Bytes of a MOVI. -/
def movLen : MovImm → Nat
  | .short _ => 4
  | .long _ _ => 8

/-- Bytes of an instruction with this address. -/
def mLen : MAddr → Nat
  | .disp .. | .index .. | .pcrel .. => 4
  | .dispX .. | .indexX .. | .pcrelX .. => 8

/-- The effective address of format M (R49), modulo 2^64 (R50); `pc` is the base word's address. -/
def effAddr (s : State) (c : CoreNo) (pc : Word) : MAddr → Word
  | .disp a d => getG s c a + d.signExtend 64
  | .dispX a d => getG s c a + d.signExtend 64
  | .index a b sc => getG s c a + (getG s c b <<< sc.toNat)
  | .indexX a b sc d => getG s c a + (getG s c b <<< sc.toNat) + d.signExtend 64
  | .pcrel d => pc + d.signExtend 64
  | .pcrelX d => pc + d.signExtend 64

/-- Bytes of an instruction with this address. -/
def loLen : LOAddr → Nat
  | .short .. => 4
  | .long .. => 8

/-- The effective address of format LO (R49). -/
def loAddr (s : State) (c : CoreNo) : LOAddr → Word
  | .short b d => getG s c b + (d.signExtend 64 <<< 3)
  | .long b d => getG s c b + d.signExtend 64

/-- Bytes of a branch. -/
def bLen : BDisp → Nat
  | .short _ => 4
  | .long _ => 8

/-- A branch displacement in bytes. -/
def bOff : BDisp → Word
  | .short d => d.signExtend 64 <<< 2
  | .long d => d.signExtend 64 <<< 2

/-- Bytes of a jump. -/
def jLen : JDisp → Nat
  | .short _ => 4
  | .long _ => 8

/-- A jump displacement in bytes. -/
def jOff : JDisp → Word
  | .short d => d.signExtend 64 <<< 2
  | .long d => d.signExtend 64 <<< 2

/-- Bytes of a port access. -/
def pLen : POff → Nat
  | .short _ => 4
  | .long _ => 8

/-- The port number of R57. -/
def portNo (s : State) (c : CoreNo) (a : GReg) : POff → Nat
  | .short d => ((getG s c a).toNat % 2 ^ 32 + d.toNat) % 2 ^ 32
  | .long d => ((getG s c a).toNat % 2 ^ 32 + d.toNat) % 2 ^ 32

end Sys2Proof.Machine
end

