-- ==== Sys2Proof/Machine/Alu.lean ====
section
/-! DEFINITION. The integer instructions: ALU, immediates, compares, selects, bit fields (R65–R68)
and the branches that touch no memory (R69). -/

namespace Sys2Proof.Machine

/-- The instruction writes `f gA gB` to gD (R65). -/
def aluOp (c : CoreNo) (i : Instr) (d a b : GReg) (f : Word → Word → Word) (s : State) :
    Host.Outcome State Fault Refusal :=
  issue c i 4 0 true [] (modify (fun s => setG s c d (f (getG s c a) (getG s c b)))) s

/-- The instruction writes `f gA` to gD (R65). -/
def unOp (c : CoreNo) (i : Instr) (d a : GReg) (f : Word → Word) (s : State) :
    Host.Outcome State Fault Refusal :=
  issue c i 4 0 true [] (modify (fun s => setG s c d (f (getG s c a)))) s

/-- The instruction of `len` bytes writes `f gA` to gD (R67). -/
def immOp (c : CoreNo) (i : Instr) (len : Nat) (d a : GReg) (f : Word → Word) (s : State) :
    Host.Outcome State Fault Refusal :=
  issue c i len 0 true [] (modify (fun s => setG s c d (f (getG s c a)))) s

/-- The instruction of `len` bytes sets a condition register (R68). -/
def cmpOp (c : CoreNo) (i : Instr) (len : Nat) (cd : CReg) (f : State → Nat) (s : State) :
    Host.Outcome State Fault Refusal :=
  issue c i len 0 true [] (modify (fun s => setC s c cd (f s))) s

/-- ADD: gD := gA + gB (R65). -/
def execAdd (c : CoreNo) (d a b : GReg) (s : State) :
    Host.Outcome State Fault Refusal :=
  aluOp c (.add c d a b) d a b (fun x y => x + y) s

/-- SUB: gD := gA − gB (R65). -/
def execSub (c : CoreNo) (d a b : GReg) (s : State) :
    Host.Outcome State Fault Refusal :=
  aluOp c (.sub c d a b) d a b (fun x y => x - y) s

/-- AND (R65). -/
def execAnd (c : CoreNo) (d a b : GReg) (s : State) :
    Host.Outcome State Fault Refusal :=
  aluOp c (.and c d a b) d a b (fun x y => x &&& y) s

/-- OR (R65). -/
def execOr (c : CoreNo) (d a b : GReg) (s : State) :
    Host.Outcome State Fault Refusal :=
  aluOp c (.or c d a b) d a b (fun x y => x ||| y) s

/-- XOR (R65). -/
def execXor (c : CoreNo) (d a b : GReg) (s : State) :
    Host.Outcome State Fault Refusal :=
  aluOp c (.xor c d a b) d a b (fun x y => x ^^^ y) s

/-- ANDN: gD := gA and not gB (R65). -/
def execAndn (c : CoreNo) (d a b : GReg) (s : State) :
    Host.Outcome State Fault Refusal :=
  aluOp c (.andn c d a b) d a b (fun x y => x &&& ~~~y) s

/-- SHL by gB[5:0] (R65). -/
def execShl (c : CoreNo) (d a b : GReg) (s : State) :
    Host.Outcome State Fault Refusal :=
  aluOp c (.shl c d a b) d a b (fun x y => x <<< (y.toNat % 64)) s

/-- SHR, logical, by gB[5:0] (R65). -/
def execShr (c : CoreNo) (d a b : GReg) (s : State) :
    Host.Outcome State Fault Refusal :=
  aluOp c (.shr c d a b) d a b (fun x y => x >>> (y.toNat % 64)) s

/-- SAR, arithmetic, by gB[5:0] (R65). -/
def execSar (c : CoreNo) (d a b : GReg) (s : State) :
    Host.Outcome State Fault Refusal :=
  aluOp c (.sar c d a b) d a b (fun x y => x.sshiftRight (y.toNat % 64)) s

/-- ROR by gB[5:0] (R65). -/
def execRor (c : CoreNo) (d a b : GReg) (s : State) :
    Host.Outcome State Fault Refusal :=
  aluOp c (.ror c d a b) d a b (fun x y => x.rotateRight (y.toNat % 64)) s

/-- MUL, low half (R65). -/
def execMul (c : CoreNo) (d a b : GReg) (s : State) :
    Host.Outcome State Fault Refusal :=
  aluOp c (.mul c d a b) d a b (fun x y => x * y) s

/-- MULH, signed high half (R65). -/
def execMulh (c : CoreNo) (d a b : GReg) (s : State) :
    Host.Outcome State Fault Refusal :=
  aluOp c (.mulh c d a b) d a b mulHi s

/-- MULHU, unsigned high half (R65). -/
def execMulhu (c : CoreNo) (d a b : GReg) (s : State) :
    Host.Outcome State Fault Refusal :=
  aluOp c (.mulhu c d a b) d a b mulHiU s

/-- DIV (R66). -/
def execDiv (c : CoreNo) (d a b : GReg) (s : State) :
    Host.Outcome State Fault Refusal :=
  aluOp c (.div c d a b) d a b divS s

/-- DIVU (R66). -/
def execDivu (c : CoreNo) (d a b : GReg) (s : State) :
    Host.Outcome State Fault Refusal :=
  aluOp c (.divu c d a b) d a b divU s

/-- REM (R66). -/
def execRem (c : CoreNo) (d a b : GReg) (s : State) :
    Host.Outcome State Fault Refusal :=
  aluOp c (.rem c d a b) d a b remS s

/-- REMU (R66). -/
def execRemu (c : CoreNo) (d a b : GReg) (s : State) :
    Host.Outcome State Fault Refusal :=
  aluOp c (.remu c d a b) d a b remU s

/-- MIN, signed (R65). -/
def execMin (c : CoreNo) (d a b : GReg) (s : State) :
    Host.Outcome State Fault Refusal :=
  aluOp c (.min c d a b) d a b (fun x y => if BitVec.slt x y then x else y) s

/-- MAX, signed (R65). -/
def execMax (c : CoreNo) (d a b : GReg) (s : State) :
    Host.Outcome State Fault Refusal :=
  aluOp c (.max c d a b) d a b (fun x y => if BitVec.slt x y then y else x) s

/-- MINU, unsigned (R65). -/
def execMinu (c : CoreNo) (d a b : GReg) (s : State) :
    Host.Outcome State Fault Refusal :=
  aluOp c (.minu c d a b) d a b (fun x y => if BitVec.ult x y then x else y) s

/-- MAXU, unsigned (R65). -/
def execMaxu (c : CoreNo) (d a b : GReg) (s : State) :
    Host.Outcome State Fault Refusal :=
  aluOp c (.maxu c d a b) d a b (fun x y => if BitVec.ult x y then y else x) s

/-- CLZ (R65). -/
def execClz (c : CoreNo) (d a : GReg) (s : State) :
    Host.Outcome State Fault Refusal :=
  unOp c (.clz c d a) d a (fun x => w64 (clzBits x 64)) s

/-- CTZ (R65). -/
def execCtz (c : CoreNo) (d a : GReg) (s : State) :
    Host.Outcome State Fault Refusal :=
  unOp c (.ctz c d a) d a (fun x => w64 (ctzBits x 64)) s

/-- POPC (R65). -/
def execPopc (c : CoreNo) (d a : GReg) (s : State) :
    Host.Outcome State Fault Refusal :=
  unOp c (.popc c d a) d a (fun x => w64 (popBits x 64)) s

/-- BSWAP (R68). -/
def execBswap (c : CoreNo) (d a : GReg) (s : State) :
    Host.Outcome State Fault Refusal :=
  unOp c (.bswap c d a) d a bswap s

/-- SEXT.B, SEXT.H and SEXT.W (R65). -/
def execSext (c : CoreNo) (z : SextSize) (d a : GReg) (s : State) :
    Host.Outcome State Fault Refusal :=
  unOp c (.sext c z d a) d a (fun x => match z with
    | .b => (x.setWidth 8).signExtend 64
    | .h => (x.setWidth 16).signExtend 64
    | .w => (x.setWidth 32).signExtend 64) s

/-- ADDI (R67). -/
def execAddi (c : CoreNo) (d a : GReg) (i : Imm) (s : State) :
    Host.Outcome State Fault Refusal :=
  immOp c (.addi c d a i) (immLen i) d a (fun x => x + immS i) s

/-- ANDI (R67). -/
def execAndi (c : CoreNo) (d a : GReg) (i : Imm) (s : State) :
    Host.Outcome State Fault Refusal :=
  immOp c (.andi c d a i) (immLen i) d a (fun x => x &&& immZ i) s

/-- ORI (R67). -/
def execOri (c : CoreNo) (d a : GReg) (i : Imm) (s : State) :
    Host.Outcome State Fault Refusal :=
  immOp c (.ori c d a i) (immLen i) d a (fun x => x ||| immZ i) s

/-- XORI (R67). -/
def execXori (c : CoreNo) (d a : GReg) (i : Imm) (s : State) :
    Host.Outcome State Fault Refusal :=
  immOp c (.xori c d a i) (immLen i) d a (fun x => x ^^^ immZ i) s

/-- MULI (R67). -/
def execMuli (c : CoreNo) (d a : GReg) (i : Imm) (s : State) :
    Host.Outcome State Fault Refusal :=
  immOp c (.muli c d a i) (immLen i) d a (fun x => x * immS i) s

/-- SHI: a shift or rotate by an immediate amount (R67). -/
def execShi (c : CoreNo) (d a : GReg) (k : ShiftKind) (n : BitVec 6) (s : State) :
    Host.Outcome State Fault Refusal :=
  immOp c (.shi c d a k n) 4 d a (fun x => match k with
    | .shl => x <<< n.toNat
    | .shr => x >>> n.toNat
    | .sar => x.sshiftRight n.toNat
    | .ror => x.rotateRight n.toNat) s

/-- MOVI: the sign-extended immediate, or with H = 0b01 the high half of gD (R46, R67). -/
def execMovi (c : CoreNo) (d : GReg) (i : MovImm) (s : State) :
    Host.Outcome State Fault Refusal :=
  issue c (.movi c d i) (movLen i) 0 (Instr.movi c d i).wellFormed [] (modify (fun s =>
    setG s c d (match i with
      | .short v => v.signExtend 64
      | .long h v =>
        if h = 0 then v.signExtend 64
        else (v.setWidth 64 <<< 32) ||| ((getG s c d) &&& 0xFFFFFFFF#64)))) s

/-- CMP, 64 bits (R68). -/
def execCmp (c : CoreNo) (cd : CReg) (a b : GReg) (s : State) :
    Host.Outcome State Fault Refusal :=
  cmpOp c (.cmp c cd a b) 4 cd (fun s => cmpFlags (getG s c a) (getG s c b)) s

/-- CMP.W, 32 bits (R68). -/
def execCmpW (c : CoreNo) (cd : CReg) (a b : GReg) (s : State) :
    Host.Outcome State Fault Refusal :=
  cmpOp c (.cmpW c cd a b) 4 cd (fun s => cmpFlags ((getG s c a).setWidth 32) ((getG s c b).setWidth 32)) s

/-- TST (R68). -/
def execTst (c : CoreNo) (cd : CReg) (a b : GReg) (s : State) :
    Host.Outcome State Fault Refusal :=
  cmpOp c (.tst c cd a b) 4 cd (fun s => tstFlags (getG s c a) (getG s c b)) s

/-- CMPI, sign-extended (R68). -/
def execCmpi (c : CoreNo) (cd : CReg) (a : GReg) (i : Imm) (s : State) :
    Host.Outcome State Fault Refusal :=
  cmpOp c (.cmpi c cd a i) (immLen i) cd (fun s => cmpFlags (getG s c a) (immS i)) s

/-- CMPUI, zero-extended (R68). -/
def execCmpui (c : CoreNo) (cd : CReg) (a : GReg) (i : Imm) (s : State) :
    Host.Outcome State Fault Refusal :=
  cmpOp c (.cmpui c cd a i) (immLen i) cd (fun s => cmpFlags (getG s c a) (immZ i)) s

/-- CSEL: gA if the condition holds, else gB (R68); a reserved code is ILLEGAL_INSTR (R33). -/
def execCsel (c : CoreNo) (d a b : GReg) (cr : CReg) (cond : BitVec 4) (s : State) :
    Host.Outcome State Fault Refusal :=
  issue c (.csel c d a b cr cond) 4 0 (condOk cond) [] (modify (fun s =>
    setG s c d (if condHolds (getC s c cr) cond then getG s c a else getG s c b))) s

/-- EXTU: the field of gA that gB names (R68). -/
def execExtu (c : CoreNo) (d a b : GReg) (s : State) :
    Host.Outcome State Fault Refusal :=
  aluOp c (.extu c d a b) d a b extU s

/-- EXTS: the field of gA that gB names (R68). -/
def execExts (c : CoreNo) (d a b : GReg) (s : State) :
    Host.Outcome State Fault Refusal :=
  aluOp c (.exts c d a b) d a b extS s

/-- INS: the field of gD that gB names := the low bits of gA (R68). -/
def execIns (c : CoreNo) (d a b : GReg) (s : State) :
    Host.Outcome State Fault Refusal :=
  issue c (.ins c d a b) 4 0 true [] (modify (fun s =>
    setG s c d (insField (getG s c d) (getG s c a) (getG s c b)))) s

/-- BC: a conditional branch (R69); the target's alignment is checked there (R43). -/
def execBc (c : CoreNo) (cr : CReg) (cond : BitVec 4) (disp : BDisp) (s : State) :
    Host.Outcome State Fault Refusal :=
  issue c (.bc c cr cond disp) (bLen disp) 0 (condOk cond) [evBranch] (modify (fun t =>
    if condHolds (getC t c cr) cond then setPc t c (getPc s c + bOff disp) else t)) s

/-- JMP (R69). -/
def execJmp (c : CoreNo) (disp : JDisp) (s : State) :
    Host.Outcome State Fault Refusal :=
  issue c (.jmp c disp) (jLen disp) 0 true [evBranch] (modify (fun t =>
    setPc t c (getPc s c + jOff disp))) s

/-- JMPR (R69). -/
def execJmpr (c : CoreNo) (a : GReg) (s : State) :
    Host.Outcome State Fault Refusal :=
  issue c (.jmpr c a) 4 0 true [evBranch] (modify (fun t => setPc t c (getG t c a))) s

end Sys2Proof.Machine
end

