-- ==== Sys2Proof/Machine/Mem.lean ====
section
/-! DEFINITION. Loads and stores (R70, R72), load-op instructions (R52, R71), and calls and returns
with the hardware return stack (R53, R54). -/

namespace Sys2Proof.Machine

/-- Loads `n` bytes for core `c` at its current level and translation. -/
def loadData (c : CoreNo) (va : Word) (n : Nat) : CpuM (List Byte) := do
  let s ← get
  loadAt c (plOf s c) (fbit s F.pstate_TE c) va n

/-- Stores bytes for core `c` at its current level and translation. -/
def storeData (c : CoreNo) (va : Word) (bs : List Byte) (nt rel : Bool) : CpuM Unit := do
  let s ← get
  storeAt c (plOf s c) (fbit s F.pstate_TE c) va bs nt rel

/-- A load of `n` bytes into gD, `f` extending them (R70). -/
def loadOp (c : CoreNo) (i : Instr) (d : GReg) (m : MAddr) (n : Nat) (align : Bool)
    (f : Nat → Word) (s : State) : Host.Outcome State Fault Refusal :=
  issue c i (mLen m) 0 true [evLoad] (do
    let va := effAddr s c (getPc s c) m
    if align then needAlign va n false else pure ()
    let bs ← loadData c va n
    modify (fun s => setG s c d (f (leNat bs)))) s

/-- A store of the low `n` bytes of gD (R70). -/
def storeOp (c : CoreNo) (i : Instr) (d : GReg) (m : MAddr) (n : Nat) (align nt rel : Bool)
    (s : State) : Host.Outcome State Fault Refusal :=
  issue c i (mLen m) 0 true [evStore] (do
    let va := effAddr s c (getPc s c) m
    if align then needAlign va n true else pure ()
    storeData c va (natLe (getG s c d).toNat n) nt rel) s

/-- A load-op: gD := f gA mem, with an ordinary load (R52, R71). -/
def loOp (c : CoreNo) (i : Instr) (d a : GReg) (m : LOAddr) (f : Word → Word → Word) (s : State) :
    Host.Outcome State Fault Refusal :=
  issue c i (loLen m) 0 true [evLoad] (do
    let bs ← loadData c (loAddr s c m) 8
    modify (fun t => setG t c d (f (getG s c a) (w64 (leNat bs))))) s

/-- LD.B, zero-extended (R70). -/
def execLdB (c : CoreNo) (d : GReg) (m : MAddr) (s : State) :
    Host.Outcome State Fault Refusal :=
  loadOp c (.ldB c d m) d m 1 false w64 s

/-- LD.H, zero-extended (R70). -/
def execLdH (c : CoreNo) (d : GReg) (m : MAddr) (s : State) :
    Host.Outcome State Fault Refusal :=
  loadOp c (.ldH c d m) d m 2 false w64 s

/-- LD.W, zero-extended (R70). -/
def execLdW (c : CoreNo) (d : GReg) (m : MAddr) (s : State) :
    Host.Outcome State Fault Refusal :=
  loadOp c (.ldW c d m) d m 4 false w64 s

/-- LD.D (R70). -/
def execLdD (c : CoreNo) (d : GReg) (m : MAddr) (s : State) :
    Host.Outcome State Fault Refusal :=
  loadOp c (.ldD c d m) d m 8 false w64 s

/-- LD.BS, sign-extended (R70). -/
def execLdBs (c : CoreNo) (d : GReg) (m : MAddr) (s : State) :
    Host.Outcome State Fault Refusal :=
  loadOp c (.ldBs c d m) d m 1 false (fun v => (BitVec.ofNat 8 v).signExtend 64) s

/-- LD.HS, sign-extended (R70). -/
def execLdHs (c : CoreNo) (d : GReg) (m : MAddr) (s : State) :
    Host.Outcome State Fault Refusal :=
  loadOp c (.ldHs c d m) d m 2 false (fun v => (BitVec.ofNat 16 v).signExtend 64) s

/-- LD.WS, sign-extended (R70). -/
def execLdWs (c : CoreNo) (d : GReg) (m : MAddr) (s : State) :
    Host.Outcome State Fault Refusal :=
  loadOp c (.ldWs c d m) d m 4 false (fun v => (BitVec.ofNat 32 v).signExtend 64) s

/-- LDA: an 8-byte aligned load with acquire ordering; loads return in order here, so younger accesses
follow it (R51, R70, R170). -/
def execLda (c : CoreNo) (d : GReg) (m : MAddr) (s : State) :
    Host.Outcome State Fault Refusal :=
  loadOp c (.lda c d m) d m 8 true w64 s

/-- LD16: gD := bytes 0–7, gD+1 := bytes 8–15 (R52, R70); an odd D is ILLEGAL_INSTR (R47). -/
def execLd16 (c : CoreNo) (d : GReg) (m : MAddr) (s : State) :
    Host.Outcome State Fault Refusal :=
  issue c (.ld16 c d m) (mLen m) 0 (pairOk d) [evLoad] (do
    let bs ← loadData c (effAddr s c (getPc s c) m) 16
    modify (fun s => setG (setG s c d (w64 (leNat (bs.take 8)))) c (d + 1)
      (w64 (leNat (bs.drop 8))))) s

/-- ST.B: stores the low bytes of gD (R70). -/
def execStB (c : CoreNo) (d : GReg) (m : MAddr) (s : State) :
    Host.Outcome State Fault Refusal :=
  storeOp c (.stB c d m) d m 1 false false false s

/-- ST.H: stores the low bytes of gD (R70). -/
def execStH (c : CoreNo) (d : GReg) (m : MAddr) (s : State) :
    Host.Outcome State Fault Refusal :=
  storeOp c (.stH c d m) d m 2 false false false s

/-- ST.W: stores the low bytes of gD (R70). -/
def execStW (c : CoreNo) (d : GReg) (m : MAddr) (s : State) :
    Host.Outcome State Fault Refusal :=
  storeOp c (.stW c d m) d m 4 false false false s

/-- ST.D: stores the low bytes of gD (R70). -/
def execStD (c : CoreNo) (d : GReg) (m : MAddr) (s : State) :
    Host.Outcome State Fault Refusal :=
  storeOp c (.stD c d m) d m 8 false false false s

/-- ST16: gD and gD+1 as one 16-byte aligned unit (R51, R52, R70). -/
def execSt16 (c : CoreNo) (d : GReg) (m : MAddr) (s : State) :
    Host.Outcome State Fault Refusal :=
  issue c (.st16 c d m) (mLen m) 0 (pairOk d) [evStore] (do
    let va := effAddr s c (getPc s c) m
    needAlign va 16 true
    storeData c va (natLe (getG s c d).toNat 8 ++ natLe (getG s c (d + 1)).toNat 8) false false) s

/-- STNT: 8 aligned bytes of gD into the combining buffer (R51, R72). -/
def execStnt (c : CoreNo) (d : GReg) (m : MAddr) (s : State) :
    Host.Outcome State Fault Refusal :=
  storeOp c (.stnt c d m) d m 8 true true false s

/-- STL: an 8-byte aligned store with release ordering, performed after every older store (R51, R170). -/
def execStl (c : CoreNo) (d : GReg) (m : MAddr) (s : State) :
    Host.Outcome State Fault Refusal :=
  storeOp c (.stl c d m) d m 8 true false true s

/-- ADD.M (R71). -/
def execAddM (c : CoreNo) (d a : GReg) (m : LOAddr) (s : State) :
    Host.Outcome State Fault Refusal :=
  loOp c (.addM c d a m) d a m (fun x y => x + y) s

/-- SUB.M (R71). -/
def execSubM (c : CoreNo) (d a : GReg) (m : LOAddr) (s : State) :
    Host.Outcome State Fault Refusal :=
  loOp c (.subM c d a m) d a m (fun x y => x - y) s

/-- AND.M (R71). -/
def execAndM (c : CoreNo) (d a : GReg) (m : LOAddr) (s : State) :
    Host.Outcome State Fault Refusal :=
  loOp c (.andM c d a m) d a m (fun x y => x &&& y) s

/-- OR.M (R71). -/
def execOrM (c : CoreNo) (d a : GReg) (m : LOAddr) (s : State) :
    Host.Outcome State Fault Refusal :=
  loOp c (.orM c d a m) d a m (fun x y => x ||| y) s

/-- XOR.M (R71). -/
def execXorM (c : CoreNo) (d a : GReg) (m : LOAddr) (s : State) :
    Host.Outcome State Fault Refusal :=
  loOp c (.xorM c d a m) d a m (fun x y => x ^^^ y) s

/-- MUL.M (R71). -/
def execMulM (c : CoreNo) (d a : GReg) (m : LOAddr) (s : State) :
    Host.Outcome State Fault Refusal :=
  loOp c (.mulM c d a m) d a m (fun x y => x * y) s

/-- CMP.M: condition register D[2:0] := the flags of gA against memory; D[4:3] must be zero (R48, R71). -/
def execCmpM (c : CoreNo) (d a : GReg) (m : LOAddr) (s : State) :
    Host.Outcome State Fault Refusal :=
  issue c (.cmpM c d a m) (loLen m) 0 (decide (d.val < 8)) [evLoad] (do
    let bs ← loadData c (loAddr s c m) 8
    modify (fun t => setC t c (Fin.ofNat 8 d.val) (cmpFlags (getG s c a) (w64 (leNat bs))))) s

/-! The hardware return stack. -/

/-- An entry of the return stack. -/
def hrsAt (s : State) (c : CoreNo) (i : Nat) : Word := (coreOf s c).hrs.toList.getD i 0

/-- The state with an entry of the return stack set. -/
def setHrsAt (s : State) (c : CoreNo) (i : Nat) (v : Word) : State :=
  modCore s c (fun k => { k with hrs := k.hrs.setIfInBounds i v })

/-- DEPTH: the number of valid entries. -/
def hrsDepth (s : State) (c : CoreNo) : Nat := fget s F.hrsctl_DEPTH c

/-- The valid entries shifted down by `n`; every place that none comes to keeps what it held (R54, R55). -/
def hrsShift (s : State) (c : CoreNo) (n : Nat) : State :=
  let old := (coreOf s c).hrs
  let depth := hrsDepth s c
  modCore s c (fun k => { k with hrs := Vector.ofFn (fun i : Fin 32 =>
    if i.val + n < depth then old.toList.getD (i.val + n) 0 else old.get i) })

/-- A return address is pushed; at DEPTH 32 the oldest entry is lost and counted (R54, R415). -/
def hrsPush (s : State) (c : CoreNo) (v : Word) : State :=
  let n := hrsDepth s c
  if n < 32 then fput (setHrsAt s c n v) F.hrsctl_DEPTH c (n + 1)
  else count (setHrsAt (hrsShift s c 1) c 31 v) c (plOf s c) evHrsWrap 1

/-- A call to `target` from an instruction whose next address is `ra` (R53, R54). The push is
checked before the overflow, and nothing changes when either faults. EADDR of HRS_OVERFLOW is
stated nowhere: it is a free value. -/
def callTo (c : CoreNo) (ra target : Word) : CpuM Unit := do
  let s ← get
  let sp := getG s c spReg - 8
  let pl := plOf s c
  let te := fbit s F.pstate_TE c
  let ps ← transl c sp.toNat 8 pl te .store
  let s ← get
  if hrsDepth s c ≥ 32 ∧ fbit s F.hrsctl_OVF c then
    let (v, s) := takeFree s
    set s
    raise { code := 0x0C, addr := w64 v }
  else
    modify (fun s => noteAcc s c sp ps true)
    bufferPieces c pl false false (natLe ra.toNat 8) ps
    modify (fun s => setPc (hrsPush (setG s c spReg sp) c ra) c target)

/-- CALL (R53, R69). -/
def execCall (c : CoreNo) (disp : JDisp) (s : State) :
    Host.Outcome State Fault Refusal :=
  issue c (.call c disp) (jLen disp) 0 true [evBranch]
    (callTo c (getPc s c + BitVec.ofNat 64 (jLen disp)) (getPc s c + jOff disp)) s

/-- CALLR: a call to the address in gA (R53, R69). -/
def execCallr (c : CoreNo) (a : GReg) (s : State) :
    Host.Outcome State Fault Refusal :=
  issue c (.callr c a) 4 0 true [evBranch] (callTo c (getPc s c + 4) (getG s c a)) s

/-- RET (R53, R54): the loaded address is checked against the newest entry, unless SKIP is set or the
stack is empty with UNF clear. EADDR of HRS_UNDERFLOW is stated nowhere: it is a free value. -/
def execRet (c : CoreNo) (s : State) :
    Host.Outcome State Fault Refusal :=
  issue c (.ret c) 4 0 true [evBranch] (do
    let sp := getG s c spReg
    let bs ← loadData c sp 8
    let v := w64 (leNat bs)
    let s ← get
    let n := hrsDepth s c
    if fbit s F.hrsctl_SKIP c then
      set (setPc (setG (fput s F.hrsctl_SKIP c 0) c spReg (sp + 8)) c v)
    else if n = 0 then
      if fbit s F.hrsctl_UNF c then
        let (x, s) := takeFree s
        set s
        raise { code := 0x0D, addr := w64 x }
      else set (setPc (setG s c spReg (sp + 8)) c v)
    else if hrsAt s c (n - 1) = v then
      set (setPc (setG (fput s F.hrsctl_DEPTH c (n - 1)) c spReg (sp + 8)) c v)
    else raise { code := 0x0B, addr := v }) s

end Sys2Proof.Machine
end

