-- ==== Sys2Proof/Machine/Block.lean ====
section
/-! DEFINITION. Block instructions (R75–R80). An instruction runs to its end unless an interrupt is
eligible at an element boundary, where it can be accepted (R78): there it waits, and goes on with its
next element at the next idle step if none has been taken. -/

namespace Sys2Proof.Machine

/-- The registers g1, g2, g3 (R31). -/
def r1 : GReg := 1
def r2 : GReg := 2
def r3 : GReg := 3

/-- The length of the element at g1 (R75). -/
def elemLen (a n : Word) : Nat := min n.toNat (64 - a.toNat % 64)

/-- A piece in units of at most 8 aligned bytes, in ascending order (R77); at most `k` units. -/
def cutUnits (p : Piece) : Nat → List Piece
  | 0 => []
  | k + 1 =>
    if p.len = 0 then []
    else
      let m := min p.len (8 - p.va % 8)
      { p with len := m } :: cutUnits { p with va := p.va + m, pa := p.pa + m, len := p.len - m } k

/-- Stores the bytes of an element, which lie in one line, in units (R75, R77): all of them enter the
buffers at once. -/
def storeElem (c : CoreNo) (a : Word) (bs : List Byte) : CpuM Unit := do
  let s ← get
  let pl := plOf s c
  let p ← transl1 c a.toNat bs.length pl (fbit s F.pstate_TE c) .store
  modify (fun s => noteAcc s c a [p] true)
  bufferUnits c pl bs (cutUnits p 9)

/-- The state with g1, and g2 where it advances, moved on by `k` bytes, and g3 lowered. -/
def advance (s : State) (c : CoreNo) (both : Bool) (k : Nat) : State :=
  let w := BitVec.ofNat 64 k
  let s := setG s c r1 (getG s c r1 + w)
  let s := if both then setG s c r2 (getG s c r2 + w) else s
  setG s c r3 (getG s c r3 - w)

/-- The instruction completes: g3 = 0 and BIP is clear (R76). -/
def blockDone (s : State) (c : CoreNo) : State := fput (setG s c r3 0) F.pstate_BIP c 0

/-- An element has been completed: what it issued only once is done with (R78, R88), and its accesses to
fabric space are counted (R415). -/
def elemDone (s : State) (c : CoreNo) : State :=
  modCore s c (fun k => { k with got := storesOf k.got, must := false,
                                 evs := k.evs ++ List.replicate k.acc.fab evFabric,
                                 acc := { k.acc with fab := 0 } })

/-- One element after another, with BIP set for whatever stops the instruction (R78, R79), until an
element completes it early, g3 is 0, or an interrupt is eligible at an element boundary: then it
waits there, so that the interrupt can be accepted. Inside an element none is accepted (R116). At most
`n` elements. -/
def blockLoop (c : CoreNo) (both : Bool) (elem : Word → Word → Nat → CpuM Bool)
    (atEnd : State → State) : Nat → CpuM Unit
  | 0 => stall
  | fuel + 1 => do
    let s ← get
    let n := getG s c r3
    set (noteMust (fput s F.pstate_BIP c 1) c)
    let a := getG s c r1
    let k := elemLen a n
    let fin ← elem a (getG s c r2) k
    if fin then modify (fun s => blockDone s c)
    else
      modify (fun s => elemDone (advance s c both k) c)
      if k = n.toNat then modify (fun s => atEnd (blockDone s c))
      else
        match ← eligible c with
        | some _ => stall
        | none => blockLoop c both elem atEnd fuel

/-- A block instruction: with g3 = 0 it completes at once (R76). `elem` says whether an element
completed it early; `start` and `atEnd` change the state at its beginning and at its end. -/
def blockOp (c : CoreNo) (i : Instr) (both : Bool) (start : State → State)
    (elem : Word → Word → Nat → CpuM Bool) (atEnd : State → State) (s : State) :
    Host.Outcome State Fault Refusal :=
  issue c i 4 0 true [] (do
    modify start
    let s ← get
    let n := getG s c r3
    if n = 0 then set (atEnd (blockDone s c))
    else blockLoop c both elem atEnd (n.toNat / 64 + 2)) s

/-- Free bytes, for a destination whose contents are undefined (R80). -/
def freeBytes (n : Nat) : CpuM (List Byte) := do
  let s ← get
  let (v, s) := takeFree s
  set s
  pure (natLe v n)

/-- What tells the copy that core `c` runs from every other (R80): its end and its distance, which stay as
it goes on, its address, its address space, and its stack, by which the threads of one space differ (the
model's own; assumption 130). -/
def copyKey (s : State) (c : CoreNo) (pc : Word) : List Nat :=
  let a := getG s c r1
  [(a + getG s c r3).toNat, (a - getG s c r2).toNat, pc.toNat, fget s F.asid_ASID c,
   fget s F.vmid_VMID c, (getG s c spReg).toNat]

/-- Whether the BCPY at hand leaves its destination undefined: its ranges overlap with
g2 < g1 < g2 + g3 (R80), or it continues a copy of which that was true. -/
def undefCopy (s : State) (c : CoreNo) (pc : Word) : Bool :=
  let a := getG s c r1
  let b := getG s c r2
  let n := getG s c r3
  decide (b.toNat < a.toNat) &&
    (decide (a.toNat < b.toNat + n.toNat) ||
      (fbit s F.pstate_BIP c && s.copies.contains (copyKey s c pc)))

/-- Whether the copy at hand has an undefined destination is noted for the case that it stops (R80). -/
def noteCopy (c : CoreNo) (pc : Word) (s : State) : State :=
  let key := copyKey s c pc
  let others := s.copies.filter (fun x => x ≠ key)
  { s with copies := if undefCopy s c pc then key :: others else others }

/-- The copy has been completed. -/
def endCopy (c : CoreNo) (pc : Word) (s : State) : State :=
  { s with copies := s.copies.filter (fun x => x ≠ copyKey s c pc) }

/-- The bytes that an element of a BCPY reads. Where the store of the element would fault too, the cause
of the lower rank is delivered, and of equal ranks the load's (R123; DESIGN CHOICE, assumption 107). -/
def loadBefore (c : CoreNo) (a b : Word) (k : Nat) : CpuM (List Byte) := do
  let s ← get
  match loadData c b k s with
  | .ok bs s' =>
    set s'
    pure bs
  | .error (.exc x) s' =>
    set s'
    if fbit s' F.pstate_TE c then
      match ← xlatFault c a.toNat (plOf s' c) .store with
      | some y => if dataRank y.code < dataRank x.code then raise y else raise x
      | none => raise x
    else raise x
  | .error .stall s' =>
    set s'
    stall

/-- BCPY: copies g3 bytes from g2 to g1 (R75). When the ranges overlap with g2 < g1 < g2 + g3 the
destination's contents are undefined: free values, to the end of the copy (R80). -/
def execBcpy (c : CoreNo) (s : State) : Host.Outcome State Fault Refusal :=
  let pc := getPc s c
  blockOp c (.bcpy c) true (noteCopy c pc) (fun a b k => do
    let bad := undefCopy (← get) c pc
    let bs ← loadBefore c a b k
    let bs ← if bad then freeBytes k else pure bs
    storeElem c a bs
    pure false) (endCopy c pc) s

/-- BSET: the byte at x receives byte x mod 8 of g2 (R75). -/
def execBset (c : CoreNo) (s : State) : Host.Outcome State Fault Refusal :=
  blockOp c (.bset c) false id (fun a b k => do
    let bs := (upto k).map (fun j => BitVec.ofNat 8 (b.toNat >>> (8 * ((a.toNat + j) % 8))))
    storeElem c a bs
    pure false) id s

/-- The index of the first place where two byte lists differ. -/
def firstDiff : List Byte → List Byte → Nat → Option Nat
  | x :: xs, y :: ys, i => if x = y then firstDiff xs ys (i + 1) else some i
  | _, _, _ => none

/-- BCMP finds its first difference `j` bytes into an element, where the bytes are `x` and `y` (R76). -/
def bcmpFound (c : CoreNo) (j : Nat) (x y : Byte) : CpuM Bool := do
  let lt := decide (x.toNat < y.toNat)
  modify (fun s => setC (advance s c true j) c 0 (mkFlags false lt lt false))
  pure true

/-- BCMP: compares byte by byte and stops at the first difference; writes c0 (R75, R76). Of an element it
reads the bytes of g2 beyond a line boundary only when those before it are equal. Where both ranges
fault in one element, the cause of the lower rank is delivered, and of equal ranks that at g1 (R123;
DESIGN CHOICE, assumption 107). -/
def execBcmp (c : CoreNo) (s : State) : Host.Outcome State Fault Refusal :=
  blockOp c (.bcmp c) true id (fun a b k => do
    let m := min k (64 - b.toNat % 64)
    let (xs, ys) ← lowest (loadData c a k) (loadData c b m)
    match firstDiff xs ys 0 with
    | some j => bcmpFound c j (xs.getD j 0) (ys.getD j 0)
    | none =>
      if m = k then pure false
      else
        let zs ← loadData c (b + BitVec.ofNat 64 m) (k - m)
        match firstDiff (xs.drop m) zs 0 with
        | some j => bcmpFound c (m + j) (xs.getD (m + j) 0) (zs.getD j 0)
        | none => pure false) (fun s => setC s c 0 (mkFlags true false false false)) s

/-- BSCN: scans for the first byte equal to g2[7:0]; writes c0 (R75, R76). -/
def execBscn (c : CoreNo) (s : State) : Host.Outcome State Fault Refusal :=
  blockOp c (.bscn c) false id (fun a b k => do
    let xs ← loadData c a k
    match firstDiff (xs.map (fun x => if x = b.setWidth 8 then 1 else 0)) (List.replicate k 0) 0 with
    | none => pure false
    | some j =>
      modify (fun s => setC (advance s c false j) c 0 (mkFlags true false false false))
      pure true) (fun s => setC s c 0 0) s

end Sys2Proof.Machine
end

