-- ==== Sys2Proof/Machine/RegWrite.lean ====
section
/-! DEFINITION. Reading and writing a register by its Access codes (R9, R11): the fields, and the
encodings that each field reserves. -/

namespace Sys2Proof.Machine

/-- A mask 2^k − 1 with 12 ≤ k ≤ 28 (R140). -/
def ftMaskOk (m : Nat) : Bool := (upto 17).any (fun k => decide (m = 2 ^ (k + 12) - 1))

/-- Architectural event numbers of R415 and monitor event numbers of R426. -/
def coreEvents : List Nat :=
  [0x000, 0x001, 0x002, 0x003, 0x008, 0x009, 0x00A, 0x00B, 0x00C, 0x010, 0x011, 0x012, 0x013,
   0x020, 0x021, 0x022, 0x023, 0x024, 0x025, 0x026, 0x027, 0x028, 0x029, 0x02A, 0x030, 0x031,
   0x032, 0x033, 0x034, 0x035, 0x040, 0x041, 0x042, 0x043, 0x044, 0x050, 0x051, 0x052, 0x053,
   0x060, 0x200, 0x201, 0x202, 0x203, 0x204, 0x205]
def monEvents : List Nat :=
  [0x000, 0x001, 0x002, 0x003, 0x004, 0x005, 0x006, 0x010, 0x011, 0x012, 0x013, 0x020, 0x021,
   0x022, 0x023, 0x024, 0x030, 0x031, 0x032, 0x033, 0x034, 0x040, 0x041, 0x042, 0x050, 0x051,
   0x060, 0x0FF]

/-- CAP_CFG.SRC values that are not reserved (R407). -/
def capSrcOk (v : Nat) : Bool :=
  decide (v ≤ 5) || (decide (0x10 ≤ v) && decide (v ≤ 0x1F)) || decide (0x20 ≤ v ∧ v ≤ 0x22)

/-- An interrupt vector field: 0x00 is none, 0x01–0x4F are reserved (R210). -/
def vecOk (v : Nat) : Bool := decide (v = 0) || decide (0x50 ≤ v)

/-- Whether a value written to the field of `r` at bit `lo` is a reserved encoding, which leaves
the field as it was (R11). -/
def reservedEnc (r : Reg) (lo v : Nat) : Bool :=
  match r, lo with
  | .hrsctl, 8 => decide (32 < v)
  | .hrsctl, 24 => decide (32 < v)
  | .ftmask, 0 => !(ftMaskOk v)
  | .cmtFtmask, 0 => !(ftMaskOk v)
  | .fltRclRing, 1 => decide (12 ≤ v)
  | .fltLogRing, 1 => decide (13 ≤ v)
  | .svcReq, 1 => decide (9 ≤ v)
  | .svcRsp, 1 => decide (9 ≤ v)
  | .psbbase, 8 => decide (13 ≤ v)
  | .pmcDump, 8 => decide (9 ≤ v)
  | .pmsel, 0 => !(coreEvents.contains v)
  | .monSel, 0 => !(monEvents.contains v)
  | .fltRclInt, 0 | .winMint, 0 | .cmtInt, 0 | .svcInt, 0 | .capInt, 0 | .fltLogCtl, 0 => !(vecOk v)
  | .vpInt, 24 | .vpInt, 8 => decide (127 < v)
  | .vpInt, 16 | .vpInt, 0 => !(vecOk v)
  | .nodeLctl, _ => decide (v = 0)
  | .memqScrub, 8 => decide (v = 0)
  | .tbSync, 0 => decide (v = 3)
  | .pegBase, 0 => decide (v < 1000)
  | .pegCfg, 48 => decide (v = 0)
  | .capCfg, 8 => decide (v = 0)
  | .capCfg, 0 => !(capSrcOk v)
  | .toutCfg, 0 => decide (v = 0)
  | .coreClctl, 40 => decide (v < 8) || decide (0x22 < v)
  | .corePkgctl, 32 => decide (v < 0x1E) || decide (0x82 < v)
  | _, _ => false

/-- The value of a register after a write of `new`, of which only the bits `mask` are written: each
field by its Access code (R9, R11). -/
def fieldWrite (r : Reg) (old new mask : Nat) : Nat :=
  r.fields.foldl (fun acc f =>
    let o := bitsOf old f.hi f.lo
    let m := bitsOf mask f.hi f.lo
    let n := (bitsOf new f.hi f.lo &&& m) ||| (o &&& (m ^^^ (2 ^ (f.hi + 1 - f.lo) - 1)))
    match f.acc with
    | .rw => if m = 0 ∨ reservedEnc r f.lo n then acc else setBitsOf acc f.hi f.lo n
    | .w1c => setBitsOf acc f.hi f.lo (o - (o &&& (bitsOf new f.hi f.lo &&& m)))
    | .w1s => setBitsOf acc f.hi f.lo (o ||| (bitsOf new f.hi f.lo &&& m))
    | _ => acc) old

/-- What a read of a register returns: write-only fields and reserved bits read as zero (R9). -/
def fieldRead (r : Reg) (v : Nat) : Nat :=
  r.fields.foldl (fun acc f =>
    match f.acc with
    | .wo | .rsvd => acc
    | _ => setBitsOf acc f.hi f.lo (bitsOf v f.hi f.lo)) 0

/-- A register after a read clears its RC fields (R9). -/
def fieldClear (r : Reg) (v mask : Nat) : Nat :=
  r.fields.foldl (fun acc f =>
    match f.acc with
    | .rc => if bitsOf mask f.hi f.lo = 0 then acc else setBitsOf acc f.hi f.lo 0
    | _ => acc) v

/-- All 64 bits. -/
def fullMask : Nat := 2 ^ 64 - 1

/-- A write of a whole register by its Access codes, with no further effect. -/
def regWrite (s : State) (r : Reg) (i : Nat) (v : Word) : State :=
  wr s r i (w64 (fieldWrite r (rd s r i).toNat v.toNat fullMask))

end Sys2Proof.Machine
end

