-- ==== Sys2Proof/Machine/Time.lean ====
section
/-! DEFINITION. The timebase block: TB and its discipline (R394–R402), the periodic event generators
and their consumers (R403–R406, R300, R423), captures and timing pins (R407–R410). -/

namespace Sys2Proof.Machine

/-! The windows of corrected records (R351). -/

/-- The window of a corrected record closes: it takes its SEQ (R351). -/
def closeRec (s : State) (r : LogRec) : State :=
  { s with logSeq := s.logSeq + 1,
           logHeld := s.logHeld.map (fun x => if x = r then { r with seq := some s.logSeq } else x) }

/-- Closes every window whose first event is 1 ms old (R351). -/
def closeDue (s : State) : State :=
  (s.logHeld.filter (fun r => decide (r.seq = none) && decide (r.tb + 1000000 ≤ tbOf s))).foldl
    closeRec s

/-! Captures (R407, R408). -/

/-- Channel `n` queues a capture at time `ts`, or drops a fifth one (R407). -/
def capOne (s : State) (n ts : Nat) : State :=
  let q := Tab.get [] s.time.caps n
  if q.length < 4 then
    let s := { s with time := { s.time with caps := Tab.set s.time.caps n (q ++ [(ts, false)]) } }
    let s := fput s F.capCfg_COUNT n (q.length + 1)
    raiseVec s (fget s F.capInt_TARGET n) (fget s F.capInt_VECTOR n)
  else
    let first := (ts, 1, fbit s F.capCfg_OVF n, q.getLast?.any (fun x => x.2))
    let d := match Tab.find s.time.dropped n with
      | some (t, k, x) => if t = ts then (ts, k + 1, x) else first
      | none => first
    let q := q.dropLast ++ (q.getLast?.toList.map (fun x => (x.1, true)))
    fput { s with time := { s.time with caps := Tab.set s.time.caps n q,
                                        dropped := Tab.set s.time.dropped n d } } F.capCfg_OVF n 1

/-- An event of source `src` is stamped into every channel that selects it; a pin edge only where
EDGE admits it: bit 0 rising, bit 1 falling (R407). -/
def capture (s : State) (src : Nat) (edge : Option Bool) : State :=
  let ts := tbOf s
  (upto 16).foldl (fun s n =>
    let admits : Bool := match edge with
      | none => true
      | some rise => bit (fget s F.capCfg_EDGE n) (if rise then 0 else 1)
    if fget s F.capCfg_SRC n = src ∧ admits = true then capOne s n ts else s) s

/-- The capture that a full queue has dropped in this tick is queued after all, behind the entries `q` that
a pop of the same tick leaves (R408). -/
def unDrop (s : State) (n : Nat) (q : List (Nat × Bool)) : State :=
  match Tab.find s.time.dropped n with
  | some (t, k, ovf, lost) =>
    if t = tbOf s then
      let q := q.dropLast ++ q.getLast?.toList.map (fun x => (x.1, lost)) ++ [(t, decide (2 ≤ k))]
      let s := { s with time := { s.time with caps := Tab.set s.time.caps n q,
                                              dropped := Tab.erase s.time.dropped n } }
      let s := fput (fput s F.capCfg_OVF n (b2n (ovf || decide (2 ≤ k)))) F.capCfg_COUNT n q.length
      raiseVec s (fget s F.capInt_TARGET n) (fget s F.capInt_VECTOR n)
    else s
  | none => s

/-- A read of the capture queue head pops it. The first pop of a tick takes effect before the captures of
that tick (R408). -/
def capPop (s : State) (n : Nat) : Word × State :=
  let t := tbOf s
  let q := Tab.get [] s.time.caps n
  let first := decide (Tab.find s.time.popped n ≠ some t)
  let old := if first then q.filter (fun x => decide (x.1 ≠ t)) else q
  let s := { s with time := { s.time with popped := Tab.set s.time.popped n t } }
  match old with
  | [] => (w64 (2 ^ 63), s)
  | (ts, lost) :: r =>
    let left := r ++ q.drop old.length
    let s := { s with time := { s.time with caps := Tab.set s.time.caps n left } }
    let s := fput s F.capCfg_COUNT n left.length
    (w64 (ts % 2 ^ 62 + b2n lost * 2 ^ 62), if first then unDrop s n left else s)

/-- What a read of the head shows without popping it. -/
def capPeek (s : State) (n : Nat) : Word := (capPop s n).1

/-- A write of CAP_CFG; a change of SRC or EDGE empties the queue (R407). -/
def writeCapCfg (s : State) (n : Nat) (v : Word) : State :=
  let src := fget s F.capCfg_SRC n
  let edge := fget s F.capCfg_EDGE n
  let s := regWrite s .capCfg n v
  if src ≠ fget s F.capCfg_SRC n ∨ edge ≠ fget s F.capCfg_EDGE n then
    fput { s with time := { s.time with caps := Tab.erase s.time.caps n,
                                        dropped := Tab.erase s.time.dropped n } } F.capCfg_COUNT n 0
  else s

/-! Generators (R403–R406). -/

/-- The period of generator `k`. -/
def pegPeriod (s : State) (k : Nat) : Nat := fget s F.pegBase_PERIOD 0 * fget s F.pegCfg_MULT k

/-- The first event time of generator `k` above `t` (R403). -/
def pegNext (s : State) (k t : Nat) : Nat :=
  let ph := fget s F.pegCfg_PHASE k
  let p := pegPeriod s k
  if t < ph then ph else ph + ((t - ph) / p + 1) * p

/-- The next event time of generator `k`, from TB = `t` where none has been set (R403). -/
def pegDue (s : State) (k t : Nat) : Nat := (Tab.find s.time.peg k).getD (pegNext s k t)

/-- Each enabled generator of `ks` takes as its next event the first event time above TB (R403,
R404). -/
def setDues (s : State) (ks : Nat → Bool) : State :=
  let f (t : Tab Nat Nat) (k : Nat) : Tab Nat Nat :=
    if !(ks k) then t
    else if fbit s F.pegCfg_EN k && decide (0 < pegPeriod s k) then
      Tab.set t k (pegNext s k (tbOf s))
    else Tab.erase t k
  { s with time := { s.time with peg := (upto 16).foldl f s.time.peg } }

/-- The pin TIME_OUT `j` at an event of its generator (R409). -/
def toutEvent (s : State) (j : Nat) : State :=
  let (lvl, _) := Tab.get (false, none) s.time.tout j
  let nw := if fbit s F.toutCfg_TGL j then (!lvl, none)
    else (true, some (tbOf s + fget s F.toutCfg_WIDTH j))
  { s with time := { s.time with tout := Tab.set s.time.tout j nw } }

/-- The two lines of a dump record (R424). -/
def dumpBytes (s : State) (n : Nat) : List Byte :=
  let c := coreOf s n
  let pmc (k : Nat) : List Byte := natLe (fget s F.pmc_COUNT (8 * n + k)) 8
  natLe c.dumps 4 ++ natLe n 2 ++ natLe (plOf s n) 1 ++ natLe 0 1 ++ natLe (tbOf s) 8 ++
    natLe (rd s .pmcCyc n).toNat 8 ++ (upto 5).flatMap pmc ++
    natLe c.dumps 4 ++ natLe (fget s F.vmid_VMID n) 2 ++ natLe 0 2 ++ pmc 5 ++ pmc 6 ++ pmc 7 ++
    (upto 8).flatMap (fun k => natLe (fget s F.pmsel_EVENT (8 * n + k)) 2) ++ natLe 0 16

/-- A dump of core `n` (R423): line 0 then line 1 leave through its store buffer. A core whose power
is off takes none, and one being moved takes those of the pause when the spare resumes. -/
def dumpEvent (s : State) (n : Nat) : State :=
  let k := coreOf s n
  match Tab.find s.moves n with
  | some (t, m) => { s with moves := Tab.set s.moves n (t, m + 1) }
  | none =>
    if k.run = .c6 then s
    else
      let depth := fget s F.pmcDump_DEPTH n
      let base := fget s F.pmcDump_BASE n * 4096
      if visTop s < base + 128 * 2 ^ depth then fput s F.pmcDump_ERR n 1
      else
        let a := base + k.dumps % 2 ^ depth * 128
        let s := if k.active then lapse s n else s
        let bs := dumpBytes s n
        let e (o : Nat) (f : Bool) : SbEntry :=
          { pa := a + o, bytes := (bs.drop o).take 64, mt := .cached, va := w64 (a + o), tag := none,
            fence := f, rel := false, kind := .dump }
        modCore (pushStores s n [e 0 false, e 64 true]) n (fun k => { k with dumps := (k.dumps + 1) % 2 ^ 32 })

/-- An event of generator `k`, whose next one is then the first above TB, reaches every consumer that
names it (R403, R406). -/
def firePeg (s : State) (k : Nat) : State :=
  let s := setDues s (fun n => decide (n = k))
  let s := capture s (0x10 + k) none
  let s := (upto 4).foldl (fun s j =>
    if fbit s F.toutCfg_EN j && decide (fget s F.toutCfg_PEG j = k) then toutEvent s j else s) s
  let s := (upto 4).foldl (fun s q =>
    if fbit s F.memqScrub_EN q && decide (fget s F.memqScrub_PEG q = k) && !s.dev.ps1 then
      scrubEvent s q else s) s
  (s.regs.filter (fun e => decide (e.1.1 = .pmcDump))).foldl (fun s e =>
    let n := e.1.2
    if fbit s F.pmcDump_EN n && decide (fget s F.pmcDump_PEG n = k) then dumpEvent s n else s) s

/-- PPS_OUT rises for the second that TB has reached; with PPSO = 0 it is held low (R410). -/
def ppsRise (s : State) : State :=
  let s := { s with time := { s.time with sec := tbOf s / 1000000000 } }
  if fbit s F.tbSync_PPSO 0 then
    let s := capture s 0x22 none
    { s with time := { s.time with pps := some (tbOf s + 100000000) } }
  else s

/-- Pulses that have lasted their ticks end (R409, R410). An end is kept as the value of TB at which it
comes if every tick adds 1; `d` is what the latest tick has added. -/
def endPulses (s : State) (d : Nat) : State :=
  let t := tbOf s
  let fall (x : Bool × Option Nat) : Bool × Option Nat := match x.2 with
    | some e => if e + d - 1 ≤ t then (false, none) else (x.1, some (e + d - 1))
    | none => x
  { s with time := { s.time with
      tout := s.time.tout.map (fun e => (e.1, fall e.2)),
      pps := match s.time.pps with
        | some e => if e + d - 1 ≤ t then none else some (e + d - 1)
        | none => none } }

/-- Ticks of the TB clock pass: the cores that run count them, and an offset whose removal they complete no
longer sets the rate (R401, R415). -/
def passTicks (s : State) (d : Nat) : State :=
  let s := tickCores s d
  if s.time.left = 0 then s
  else if d < s.time.left then { s with time := { s.time with left := s.time.left - d } }
  else { s with time := { s.time with left := 0, corr := s.time.freq } }

/-- TB has come to `t` by a tick that has added `d`: pulses end, windows close, and each generator and
PPS_OUT acts at most once for the event times reached (R351, R394, R403, R410). -/
def reach (s : State) (t d : Nat) : State :=
  let old := tbOf s
  let s := closeDue (endPulses (wr s .tbVal 0 (w64 t)) d)
  let s := (upto 16).foldl (fun s k =>
    if fbit s F.pegCfg_EN k && decide (0 < pegPeriod s k) && decide (pegDue s k old ≤ t) then
      firePeg s k else s) s
  if s.time.sec < t / 1000000000 then ppsRise s else s

/-- TB goes from its value to `t` in one tick. -/
def tickTo (s : State) (t : Nat) : State := if t ≤ tbOf s then s else reach s t (t - tbOf s)

/-- The times at which the timebase block, or a window of the log, is to act by itself. -/
def ownTimes (s : State) : List Nat :=
  ((upto 16).filter (fun k => fbit s F.pegCfg_EN k && decide (0 < pegPeriod s k))).map
      (fun k => pegDue s k (tbOf s)) ++
    s.time.tout.filterMap (fun e => e.2.2) ++ s.time.pps.toList ++
    (if fbit s F.tbSync_PPSO 0 then [(s.time.sec + 1) * 1000000000] else []) ++
    (s.logHeld.filter (fun r => decide (r.seq = none))).map (fun r => r.tb + 1000000)

/-- The first of those times above TB, if it comes before `t`; else `t`. -/
def nextTime (s : State) (t : Nat) : Nat :=
  (ownTimes s).foldl (fun m x => if tbOf s < x then min m x else m) t

/-- TB moves on to `t` tick by tick, and everything acts at its time; in at most `n` moves. -/
def advanceFor (s : State) (t : Nat) : Nat → State
  | 0 => s
  | n + 1 =>
    if t ≤ tbOf s then s
    else
      let x := nextTime s t
      advanceFor (reach (passTicks s (x - tbOf s)) x 1) t n

/-- TB moves on to a time that an event marks as reached; it never moves back (R394). What falls on the way
acts at its time (R351, R403, R409, R410). -/
def advanceTb (s : State) (t : Nat) : State := advanceFor s t (t - tbOf s)

/-- A forward step of TB (R394): the whole step in one tick, noted by captures of source 0x21. The times
from which a wait for a TSYNC or for PPS_IN counts move with it. -/
def stepTb (s : State) (t : Nat) : State :=
  if tbOf s < t then
    let d := t - tbOf s
    let s := { s with time := { s.time with
      tsync := s.time.tsync.map (fun e => (e.1, e.2 + d)),
      timeSet := s.time.timeSet.map (fun x => (x.1, x.2.1, x.2.2 + d)) } }
    capture (tickTo s t) 0x21 none
  else s

/-- PEG_EVENT: generator `n` reaches its next event time, which TB may have reached already with
another event (R403). -/
def execPegEvent (n : Fin 16) (s : State) : Host.Outcome State Fault Refusal :=
  if fbit s F.pegCfg_EN n && decide (0 < pegPeriod s n) then
    let t := pegDue s n (tbOf s)
    .next (if tbOf s < t then advanceTb s t else firePeg s n)
  else .next s

/-- A write of PEG_CFG; a PHASE not below PERIOD × MULT is reserved (R403, R404). -/
def writePegCfg (s : State) (k : Nat) (v : Word) : State :=
  let old := fget s F.pegCfg_PHASE k
  let s := regWrite s .pegCfg k v
  setDues (if fget s F.pegCfg_PHASE k < pegPeriod s k then s else fput s F.pegCfg_PHASE k old)
    (fun n => decide (n = k))

/-- A write of PEG_BASE changes the schedule of every generator (R404). -/
def writePegBase (s : State) (v : Word) : State := setDues (regWrite s .pegBase 0 v) (fun _ => true)

/-- PEG_CFG_WRITE: a write of PEG_BASE, or of PEG_CFG of a generator. It fires nothing; the next
event is the first one above TB on the new schedule (R404). -/
def execPegCfgWrite (n : Option (Fin 16)) (v : Word) (s : State) :
    Host.Outcome State Fault Refusal :=
  match n with
  | none => .next (writePegBase s v)
  | some k => .next (writePegCfg s k v)

/-- STAGGER (R405). -/
def stagger (s : State) (mask : Nat) : State :=
  let ks := (upto 16).filter (fun k => bit mask k)
  match ks with
  | [] => s
  | k0 :: _ =>
    if ks.all (fun k => decide (fget s F.pegCfg_MULT k = fget s F.pegCfg_MULT k0)) then
      let m := ks.length
      let s := (upto m).foldl (fun s i =>
        let k := ks.getD i 0
        fput s F.pegCfg_PHASE k (i * pegPeriod s k / m)) s
      setDues (fput s F.pegCtl_SERR 0 0) (bit mask)
    else fput s F.pegCtl_SERR 0 1

/-- STAGGER (R405). -/
def execStagger (x : BitVec 16) (s : State) : Host.Outcome State Fault Refusal :=
  .next (stagger s x.toNat)

/-! Reads of TB_VAL and CAP_HEAD (R396). -/

/-- The latch of a reader: a core, or the TAP. -/
def latchKey (c : Option CoreNo) : Nat :=
  match c with
  | some c => c
  | none => 128

/-- A 32-bit read of a low half: the value read, with its high half in the reader's latch. -/
def readLow (s : State) (key : Nat) (v : Word) : Word × State :=
  (w64 (v.toNat % 2 ^ 32),
   { s with time := { s.time with latch := Tab.set s.time.latch key (v.toNat / 2 ^ 32) } })

/-- The value read by something outside the cores. -/
def setOut (s : State) (v : Word) : State := { s with out := { s.out with word := v } }

/-- TB_VAL_READ: a 32-bit low-half read of TB_VAL, or of CAP_HEAD `n`, which also pops (R396, R408). -/
def execTbValRead (c : Option CoreNo) (n : Option (Fin 16)) (s : State) :
    Host.Outcome State Fault Refusal :=
  let (v, s) := match n with
    | none => (rd s .tbVal 0, s)
    | some k => capPop s k
  let (w, s) := readLow s (latchKey c) v
  .next (setOut s w)

/-- CAP_HEAD_READ: a 64-bit read of the head pops it (R408). -/
def execCapHeadRead (n : Fin 16) (s : State) : Host.Outcome State Fault Refusal :=
  let (v, s) := capPop s n
  .next (setOut s v)

/-- CAP_CFG_WRITE (R407). -/
def execCapCfgWrite (n : Fin 16) (v : BitVec 32) (s : State) : Host.Outcome State Fault Refusal :=
  .next (writeCapCfg s n (v.setWidth 64))

/-- TIME_IN: an edge of a pin is stamped into the channels that select it (R407). -/
def execTimeIn (n : Fin 4) (rise : Bool) (s : State) : Host.Outcome State Fault Refusal :=
  .next (capture s (n.val + 1) (some rise))

/-- TIME_OUT_PULSE_END: WIDTH ticks after the event the pin falls (R409). -/
def execTimeOutPulseEnd (n : Fin 4) (s : State) : Host.Outcome State Fault Refusal :=
  match Tab.find s.time.tout n.val with
  | some (_, some e) => .next (if tbOf s < e then advanceTb s e else endPulses s 1)
  | _ => .next s

/-- PPS_OUT_RISE: TB reaches the next multiple of 10^9 at which the pin has not risen (R410). -/
def execPpsOutRise (s : State) : Host.Outcome State Fault Refusal :=
  let t := (s.time.sec + 1) * 1000000000
  .next (if tbOf s < t then advanceTb s t else ppsRise s)

/-- PPS_OUT_FALL: 100,000,000 ticks after its rise PPS_OUT falls (R410). -/
def execPpsOutFall (s : State) : Host.Outcome State Fault Refusal :=
  match s.time.pps with
  | some e => .next (if tbOf s < e then advanceTb s e else endPulses s 1)
  | none => .next s

/-- A write of TOUT_CFG: with EN = 0 the pin is driven low (R409). -/
def writeTout (s : State) (j : Nat) (v : Word) : State :=
  let s := regWrite s .toutCfg j v
  if fbit s F.toutCfg_EN j then s
  else { s with time := { s.time with tout := Tab.set s.time.tout j (false, none) } }

/-! Discipline (R399–R402). -/

/-- The TSYNC interval in ns. -/
def tsyncNs (s : State) : Nat := 2 ^ (fget s F.tbSync_INTV 0 + 4) * 1000

/-- The largest correction of ±500 ppm, in 1/64 ns per interval. -/
def corrMax (s : State) : Int := (tsyncNs s / 2000 * 64 : Nat)

/-- A value held within ±m. -/
def clampI (m v : Int) : Int := if v < -m then -m else if m < v then m else v

/-- STRAT and LOCK of a node that is not locked. -/
def unlock (s : State) : State :=
  fput (fput { s with time := { s.time with good := 0 } } F.tbSync_LOCK 0 0) F.tbSync_STRAT 0 0xFF

/-- An offset is applied (R401); `strat` is what the node sends once locked. The rate that removes it lasts
until it is removed: 16 intervals, or at −500 ppm until it lies within ±1,000 ns. -/
def applyOffset (s : State) (off : Int) (strat : Nat) : State :=
  let s := fput s F.tbSync_OFS 0 (((clampI 8388607 off) % (2 ^ 24 : Int)).toNat)
  if 1000 < off then
    unlock (stepTb { s with time := { s.time with corr := s.time.freq, left := 0 } } (tbOf s + off.toNat))
  else if off < -1000 then
    unlock { s with time := { s.time with corr := -(corrMax s), left := ((-off).toNat - 1000) * 2000 } }
  else
    let f := clampI (corrMax s) (s.time.freq + off)
    let good := if -50 ≤ off ∧ off ≤ 50 then s.time.good + 1 else 0
    let s := { s with time := { s.time with freq := f, corr := clampI (corrMax s) (f + 4 * off),
                                            left := 16 * tsyncNs s, good := good } }
    if 8 ≤ good ∨ fbit s F.tbSync_LOCK 0 then
      fput (fput s F.tbSync_LOCK 0 1) F.tbSync_STRAT 0 strat
    else s

/-- Whether a port is UP or DEGRADED. -/
def portUp (s : State) (p : Nat) : Bool :=
  decide (fget s F.fabPstat_ST p = 3) || decide (fget s F.fabPstat_ST p = 4)

/-- Whether the port that is followed first has delivered a TSYNC within 2 intervals (R401). -/
def followsMain (s : State) : Bool :=
  let p := fget s F.tbSync_PORT 0
  portUp s p && (match Tab.find s.time.tsync p with
    | some t => decide (tbOf s ≤ t + 2 * tsyncNs s)
    | none => false)

/-- The TB at which the first bit of a TSYNC came: that of now, but for one that has been held ahead of a
gap (R401). -/
def rxOf (s : State) (m : Msg) : Nat :=
  ((s.time.rx.find? (fun x => decide (x.1 = m))).map (fun x => x.2)).getD (tbOf s)

/-- TSYNC: in FOLLOW mode the message of the followed port steps or steers TB (R401); the fraction of DLY
below 1 ns is dropped (DESIGN CHOICE, assumption 126). -/
def tsyncArrive (s : State) (m : Msg) : State :=
  let rx := rxOf s m
  let s := { s with time := { s.time with rx := s.time.rx.filter (fun x => decide (x.1 ≠ m)) } }
  let g := (m.data.getD 0 0).toNat
  let strat := bitsOf g 71 64
  let p := m.port.val
  if fget s F.tbSync_MODE 0 ≠ 2 ∨ strat = 0xFF then s
  else
    let s := { s with time := { s.time with tsync := Tab.set s.time.tsync p (tbOf s) } }
    let main := followsMain s
    let takes := if p = fget s F.tbSync_PORT 0 then main
      else !main && fbit s F.tbSync_AV 0 && decide (p = fget s F.tbSync_ALTPORT 0)
    if takes then
      let off : Int := (bitsOf g 63 0 : Int) + (fget s F.tbPdly_DLY p / 256 : Nat) - (rx : Int)
      let s := { s with time := { s.time with tsync := Tab.set s.time.tsync 512 (tbOf s) } }
      let s := capture s 0x20 none
      let s := fput (fput s F.tbSync_USE 0 (b2n !main)) F.tbSync_HOLD 0 0
      applyOffset s off (min (strat + 1) 0xFE)
    else s

/-- TSYNC (R401). -/
def execTsync (m : Msg) (s : State) : Host.Outcome State Fault Refusal := .next (tsyncArrive s m)

/-- TSYNC_HOLD: no TSYNC has been accepted for 8 intervals (R401). -/
def execTsyncHold (s : State) : Host.Outcome State Fault Refusal :=
  if fget s F.tbSync_MODE 0 = 2 then .next (fput (unlock s) F.tbSync_HOLD 0 1) else .next s

/-- TSYNC_INTERVAL: with TXEN, one TSYNC leaves on every port that is UP or DEGRADED (R399); its port
writes T1 (`stampT1`). A node without an ID sources nothing (R241). -/
def execTsyncInterval (s : State) : Host.Outcome State Fault Refusal :=
  if fbit s F.tbSync_TXEN 0 && decide (selfId s ≠ 0xFFFF) then
    .next ((upto 512).foldl (fun s p =>
      if portUp s p then
        let g := BitVec.ofNat 128 (fget s F.tbSync_STRAT 0 * 2 ^ 64)
        (sendSeq s { newMsg s (fget s F.fabPstat_PEER p) 0 opTsync false with
          stream := 0xFE#8, data := [g], port := Fin.ofNat 512 p }).2
      else s) s)
  else .next s

/-- ROOT has STRAT 0 and LOCK 1 (R402). -/
def rootLock (s : State) : State :=
  if fget s F.tbSync_MODE 0 = 1 then fput (fput s F.tbSync_LOCK 0 1) F.tbSync_STRAT 0 0 else s

/-- The discipline's amounts for each interval, at an interval of `new` ns in place of `old`: the rate stays
(R394, R401). -/
def rescale (s : State) (old new : Nat) : State :=
  let f (x : Int) : Int := x * (new : Int) / (old : Int)
  { s with time := { s.time with freq := f s.time.freq, corr := f s.time.corr, acc := f s.time.acc } }

/-- A write of TB_SYNC: ROOT has STRAT 0 and LOCK 1, FREE never adjusts the rate, a change of mode
unlocks, a change of INTV keeps the rate; with PPSO = 0 PPS_OUT is low (R402, R410). -/
def writeTbSync (s : State) (v : Word) : State :=
  let old := fget s F.tbSync_MODE 0
  let ns := tsyncNs s
  let s := regWrite s .tbSync 0 v
  let s := if fbit s F.tbSync_PPSO 0 then s else { s with time := { s.time with pps := none } }
  let s := if fget s F.tbSync_MODE 0 = old then rescale s ns (tsyncNs s)
    else unlock { s with time := { s.time with freq := 0, corr := 0, acc := 0, left := 0 } }
  rootLock s

/-- The tick of the TB clock: adds 1, or 0 or 2 as the discipline asks (R394). -/
def tbTick (s : State) : State :=
  let s := passTicks s 1
  let n : Int := (64 * tsyncNs s : Nat)
  let a := s.time.acc + s.time.corr
  let set (x : Int) : State := { s with time := { s.time with acc := x } }
  if n ≤ a then tickTo (set (a - n)) (tbOf s + 2)
  else if a ≤ -n then endPulses (set (a + n)) 0
  else tickTo (set a) (tbOf s + 1)

end Sys2Proof.Machine
end

