-- ==== Sys2Proof/Machine/Log.lean ====
section
/-! DEFINITION. The event-log ring (R350, R351), and writes of the device itself to its rings in
local DRAM (R210). -/

namespace Sys2Proof.Machine

/-- The bytes of a record (R350). -/
def LogRec.bytes (r : LogRec) : List Byte :=
  natLe r.tb 8 ++ natLe (r.seq.getD 0) 4 ++ natLe r.code 2 ++ natLe r.cls 1 ++ natLe r.kind 1 ++
    natLe r.unit 2 ++ natLe r.node 2 ++ natLe r.count 4 ++ natLe r.addr 8 ++ natLe r.d0 8 ++
    natLe r.d1 8 ++ natLe r.d2 8 ++ natLe 0 8

/-- Number of records of the ring. -/
def logSize (s : State) : Nat := 2 ^ (fget s F.fltLogRing_SIZE 0 + 8)

/-- The ring takes a record: enabled, not full, wholly in visible local DRAM (R351). -/
def logRoom (s : State) : Bool :=
  fbit s F.fltLogRing_EN 0 && !s.dev.halted &&
    decide ((fget s F.fltLogIdx_WIDX 0 + 2 ^ 32 - fget s F.fltLogIdx_RIDX 0) % 2 ^ 32 ≠ logSize s) &&
    decide (fget s F.fltLogRing_BASE 0 * 4096 + 64 * logSize s ≤ visTop s)

/-- The held record with the lowest SEQ. -/
def nextRec : List LogRec → Option LogRec
  | [] => none
  | r :: rs =>
    match r.seq, nextRec rs with
    | none, x => x
    | some _, none => some r
    | some n, some x => if n ≤ x.seq.getD 0 then some r else some x

/-- Writes held records into the ring in SEQ order while it takes them; at most `n` (R351). -/
def writeHeld (s : State) : Nat → State
  | 0 => s
  | n + 1 =>
    match nextRec s.logHeld with
    | none => s
    | some r =>
      if logRoom s then
        let w := fget s F.fltLogIdx_WIDX 0
        let (ok, t) := devTry s (fget s F.fltLogRing_BASE 0 * 4096 + w % logSize s * 64) r.bytes
        if ok then
          let t := noteHeld { t with logHeld := t.logHeld.erase r }
          let t := fput t F.fltLogIdx_WIDX 0 (w + 1)
          let t := if fget t F.fltLogCtl_MINCLASS 0 ≤ r.cls then
              raiseVec t (fget t F.fltLogCtl_TARGET 0) (fget t F.fltLogCtl_VECTOR 0) else t
          writeHeld t n
        else t
      else s

/-- The log moves on: windows close and held records enter the ring (R351). -/
def flushLog (s : State) : State :=
  let s := closeDue s
  writeHeld s s.logHeld.length

/-- MERGE_WINDOW_CLOSE: the oldest open window closes, 1 ms after its first event (R351). -/
def execMergeWindowClose (s : State) : Host.Outcome State Fault Refusal :=
  match s.logHeld.find? (fun r => decide (r.seq = none)) with
  | some r =>
    let t := r.tb + 1000000
    let s := closeDue (advanceTb s t)
    .next (writeHeld s s.logHeld.length)
  | none => .next s

/-- A write of FLT_LOG_IDX: RIDX advances, and held records enter the ring (R351). -/
def writeLogIdx (s : State) (v : Word) : State :=
  let s := regWrite s .fltLogIdx 0 v
  writeHeld s s.logHeld.length

/-- FLT_LOG_IDX_WRITE (R351). -/
def execFltLogIdxWrite (v : Word) (s : State) : Host.Outcome State Fault Refusal :=
  .next (writeLogIdx s v)

/-- A write of FLT_LOG_RING; with EN set, the held records are written in SEQ order (R351). -/
def writeLogRing (s : State) (v : Word) : State :=
  let s := regWrite s .fltLogRing 0 v
  writeHeld s s.logHeld.length

/-- FLT_LOG_RING_WRITE (R351). -/
def execFltLogRingWrite (v : Word) (s : State) : Host.Outcome State Fault Refusal :=
  .next (writeLogRing s v)

end Sys2Proof.Machine
end

