-- ==== Sys2Proof/Machine/Fec.lean ====
section
/-! DEFINITION. The FEC of a port: RS(544,514) over GF(2^10) as IEEE 802.3 Clause 91 has it, encoder and decoder
(R211, R220). -/

namespace Sys2Proof.Machine

/-! GF(2^10), with x^10 + x^3 + 1 (Clause 91, which R211 names; PRESUMED, assumption 115). -/

/-- Multiplication and division of a field element by its generator. -/
def gfUp (a : Nat) : Nat := 2 * a ^^^ a / 512 * 0x409
def gfDown (a : Nat) : Nat := (a ^^^ a % 2 * 0x409) / 2

/-- The sum of `acc` and the product of `a` with the low `n` bits of `b`. -/
def gfMulAdd (acc a b : Nat) : Nat → Nat
  | 0 => acc
  | n + 1 => gfMulAdd (acc ^^^ b % 2 * a) (gfUp a) (b / 2) n

/-- The product of two elements. -/
def gfMul (a b : Nat) : Nat := gfMulAdd 0 a b 10

/-- Power `n` of the generator. -/
def gfExp : Nat → Nat
  | 0 => 1
  | n + 1 => gfUp (gfExp n)

/-- The product of `acc` with the next `n` squarings of `a`. -/
def gfSquares (acc a : Nat) : Nat → Nat
  | 0 => acc
  | n + 1 => gfSquares (gfMul acc (gfMul a a)) (gfMul a a) n

/-- The inverse of an element: its power 1,022. -/
def gfInv (a : Nat) : Nat := gfSquares 1 a 9

/-! Polynomials, the constant term first. -/

/-- The sum of two polynomials. -/
def polyAdd : List Nat → List Nat → List Nat
  | [], q => q
  | p, [] => p
  | a :: p, b :: q => (a ^^^ b) :: polyAdd p q

/-- A polynomial times an element. -/
def polyScale (c : Nat) (p : List Nat) : List Nat := p.map (gfMul c)

/-- The product of two polynomials. -/
def polyMul : List Nat → List Nat → List Nat
  | [], _ => []
  | a :: p, q => polyAdd (polyScale a q) (0 :: polyMul p q)

/-- The value of a polynomial. -/
def polyEval (p : List Nat) (x : Nat) : Nat := p.foldr (fun c a => c ^^^ gfMul a x) 0

/-- The derivative of a polynomial: in characteristic 2 the even terms vanish. -/
def polyDeriv (p : List Nat) : List Nat :=
  (p.drop 1).mapIdx (fun i c => if i % 2 = 0 then c else 0)

/-! Encoding. -/

/-- The symbols of a codeword, of its message and of its parity. -/
def rsN : Nat := 544
def rsK : Nat := 514
def rsT : Nat := 30

/-- The generator polynomial: its roots are powers 0 to 29 of the generator. -/
def rsGen : List Nat := (upto rsT).foldl (fun p j => polyMul p [gfExp j, 1]) [1]

/-- One step of the division by the generator polynomial; the remainder's highest term comes first. -/
def rsStep (rem : List Nat) (m : Nat) : List Nat :=
  let f := m ^^^ rem.headD 0
  List.zipWith (fun a g => a ^^^ gfMul f g) (rem.drop 1 ++ [0]) ((rsGen.take rsT).reverse)

/-- The codeword of a message: its symbols in the order sent, and the parity symbols after them (R211). -/
def rsEncode (msg : List Nat) : List Nat := msg ++ msg.foldl rsStep (List.replicate rsT 0)

/-- The symbols of the 5,140 message bits, the first bit sent being bit 0 of the first symbol (PRESUMED,
assumption 115). -/
def messageBits : Nat := 5140
def symbolsOf (bits : Nat) : List Nat := (upto rsK).map (fun j => bits >>> (10 * j) % 1024)

/-- The symbols of a codeword that lane `j` of `w` carries: they are dealt in rotation (R220). -/
def dealt (syms : List Nat) (w j : Nat) : List Nat :=
  (syms.zipIdx.filter (fun x => decide (x.2 % w = j))).map (fun x => x.1)

/-! Decoding. A received word is listed as positions, the power that a symbol is the coefficient of, with what
each holds; since the code is linear, the decoder does with a word what it does with the word's errors. -/

/-- The values `v`, `v * x`, `v * x ^ 2`, ... -/
def gfSeries (v x : Nat) : Nat → List Nat
  | 0 => []
  | n + 1 => v :: gfSeries (gfMul v x) x n

/-- The syndromes of a word. -/
def syndromes (w : List (Nat × Nat)) : List Nat :=
  w.foldl (fun t e => List.zipWith (fun a b => a ^^^ b) t (gfSeries e.2 (gfExp e.1) rsT))
    (List.replicate rsT 0)

/-- The state of the search for the locator: the locator, the one before its last change, its length, the
steps since and the discrepancy then. -/
structure Locator where
  cur : List Nat
  old : List Nat
  len : Nat
  gap : Nat
  disc : Nat
  deriving DecidableEq, Repr

/-- One step of the Berlekamp–Massey search, on syndrome number `n`. -/
def locateStep (syn : List Nat) (x : Locator) (n : Nat) : Locator :=
  let d := (upto (x.len + 1)).foldl (fun a i => a ^^^ gfMul (x.cur.getD i 0) (syn.getD (n - i) 0)) 0
  if d = 0 then { x with gap := x.gap + 1 }
  else
    let shift := List.replicate x.gap 0 ++ polyScale (gfMul d (gfInv x.disc)) x.old
    let new := polyAdd x.cur shift
    if 2 * x.len ≤ n then { cur := new, old := x.cur, len := n + 1 - x.len, gap := 1, disc := d }
    else { x with cur := new, gap := x.gap + 1 }

/-- The error locator of the syndromes. -/
def locate (syn : List Nat) : List Nat :=
  ((upto rsT).foldl (locateStep syn) { cur := [1], old := [1], len := 0, gap := 1, disc := 1 }).cur

/-- The positions from `i` on at which the locator has a root, `x` being the inverse of power `i`. -/
def errorPlaces (loc : List Nat) (i x : Nat) : Nat → List Nat
  | 0 => []
  | n + 1 =>
    let rest := errorPlaces loc (i + 1) (gfDown x) n
    if polyEval loc x = 0 then i :: rest else rest

/-- The value of the error at a position (Forney). -/
def errorValue (loc omega : List Nat) (i : Nat) : Nat :=
  let x := gfExp i
  let y := gfInv x
  gfMul x (gfMul (polyEval omega y) (gfInv (polyEval (polyDeriv loc) y)))

/-- The errors that the decoder corrects: at most 15 symbols; none where it finds the word uncorrectable
(R211). -/
def rsDecode (w : List (Nat × Nat)) : Option (List (Nat × Nat)) :=
  let syn := syndromes w
  if syn.all (fun x => decide (x = 0)) then some []
  else
    let loc := locate syn
    let omega := (polyMul syn loc).take rsT
    let found := (errorPlaces loc 0 1 rsN).map (fun i => (i, errorValue loc omega i))
    if found.length ≤ 15 && decide (syndromes found = syn) then some found else none

/-- What errors change in the 5,140 message bits, the highest position being sent first. -/
def messageErrors (e : List (Nat × Nat)) : Nat :=
  e.foldl (fun a x => if rsT ≤ x.1 then a ^^^ x.2 <<< (10 * (rsN - 1 - x.1)) else a) 0

end Sys2Proof.Machine
end

