-- ==== Sys2Proof/Machine/Switch.lean ====
section
/-! DEFINITION. Links and the transit switch: flits as bits (R221–R224), credits and retry
(R227–R230), egress order (R249), routing (R235–R240), tide flows (R250–R253, R260), lane sparing
(R231–R234), training (R217–R219) and ports going down. -/

namespace Sys2Proof.Machine

/-! Ports. -/

/-- The width code at the position of port `p` in its group's FAB_GCFG (R215); 0: no port starts. -/
def widthCode (s : State) (p : Nat) : Nat :=
  bitsOf (fget s F.fabGcfg_W (p / 16)) (3 * (p % 16) + 2) (3 * (p % 16))

/-- The lanes of a width code. -/
def widthOf (code : Nat) : Nat := 2 ^ (code - 1)

/-- Whether a port starts at `p` (R213, R246). -/
def portExists (s : State) (p : Nat) : Bool :=
  let c := widthCode s p
  decide (1 ≤ c) && decide (c ≤ 5)

/-- The port that holds position `j` of group `g`, if one does. -/
def portAt (s : State) (g j : Nat) : Option Nat :=
  ((upto 16).filter (fun b =>
    portExists s (16 * g + b) && decide (b ≤ j) &&
      decide (j < b + widthOf (widthCode s (16 * g + b))))).head?.map (fun b => 16 * g + b)

/-- Whether the switch forwards (R27): not in OFF, PS1, a reset or a fatal halt. -/
def switchOn (s : State) : Bool :=
  !s.dev.off && !s.dev.ps1 && !s.dev.halted && !s.dev.coldLow && !s.dev.warmLow

/-- The link of port `p`. -/
def link (s : State) (p : Nat) : Link := Tab.get Link.reset s.fab.links p

/-- The state with the link of port `p` replaced. -/
def setLink (s : State) (p : Nat) (k : Link) : State :=
  { s with fab := { s.fab with links := Tab.set s.fab.links p k } }

/-- Whether the ports of lane group `g` may carry TC3 commands (fuse TC3, R372). -/
def tc3Ok (s : State) (p : Nat) : Bool :=
  bit (leNat (Memory.readBytes s.keep.fuses 0xE8 4)) (p / 16)

/-- A discarded flit is logged with its reason (R352). -/
def logDiscard (s : State) (node why : Nat) : State :=
  logEv s { code := 0x43, cls := clsContained, kind := kDevice, node := node, d0 := why }

/-- A routing loop is logged with SRC, as NODE, and DST, as D1 (R239). -/
def logLoop (s : State) (src dst : Nat) : State :=
  logEv s { code := 0x43, cls := clsContained, kind := kDevice, node := src, d0 := 1, d1 := dst }

/-! Messages and flits as bits. -/

/-- The header granule of a message (R224). -/
def msgHeader (m : Msg) : BitVec 128 :=
  BitVec.ofNat 128 (m.op.toNat + b2n m.spec * 2 ^ 6 + b2n m.pois * 2 ^ 7 + m.data.length * 2 ^ 8 +
    m.tag.toNat * 2 ^ 12 + m.stat.toNat * 2 ^ 26 + b2n m.first * 2 ^ 30 +
    m.stream.toNat * 2 ^ 32 + m.sseq.toNat * 2 ^ 40 + m.addr.toNat * 2 ^ 62 +
    m.sub.toNat * 2 ^ 114)

/-- The granules of a message. -/
def msgGranules (m : Msg) : List (BitVec 128) := msgHeader m :: m.data

/-- The messages of a flit's payload, each a header granule and LEN data granules (R223); at most
`n`. -/
def parseMsgs (f : Flit) (port : Nat) : List (BitVec 128) → Nat → List Msg
  | _, 0 => []
  | [], _ => []
  | h :: rest, n + 1 =>
    let v := h.toNat
    let len := bitsOf v 11 8
    { src := BitVec.ofNat 16 f.src, dst := BitVec.ofNat 16 f.dst,
      sepoch := BitVec.ofNat 8 f.sepoch, cls := BitVec.ofNat 2 f.cls, vc := f.vc,
      flow := BitVec.ofNat 12 f.flow, op := BitVec.ofNat 6 v, spec := bit v 6, pois := bit v 7,
      tag := BitVec.ofNat 14 (bitsOf v 25 12), stat := BitVec.ofNat 4 (bitsOf v 29 26),
      first := bit v 30, stream := BitVec.ofNat 8 (bitsOf v 39 32),
      sseq := BitVec.ofNat 16 (bitsOf v 55 40), addr := BitVec.ofNat 52 (bitsOf v 113 62),
      sub := BitVec.ofNat 4 (bitsOf v 117 114), data := rest.take len,
      port := Fin.ofNat 512 port } :: parseMsgs f port (rest.drop len) n

/-- The messages of a flit. -/
def flitMsgs (f : Flit) (port : Nat) : List Msg := parseMsgs f port f.payload f.payload.length

/-- The link fields that each node writes afresh (R222). -/
structure LinkFields where
  typ : Nat
  nak : Bool
  ackv : Bool
  ack : Nat
  lseq : Nat
  crp : Nat
  crn : Nat
  deriving DecidableEq, Repr

/-- The header of a flit without its LCRC (R221). -/
def flitHeader (l : LinkFields) (f : Flit) : Nat :=
  l.typ + b2n l.nak * 2 ^ 2 + b2n l.ackv * 2 ^ 3 + f.cls * 2 ^ 4 + b2n f.vc * 2 ^ 6 +
    b2n f.alt * 2 ^ 7 + l.lseq * 2 ^ 8 + l.ack * 2 ^ 16 + l.crp * 2 ^ 24 + l.crn * 2 ^ 28 +
    f.dst * 2 ^ 32 + f.src * 2 ^ 48 + f.sepoch * 2 ^ 64 + f.hops * 2 ^ 72 +
    f.payload.length * 2 ^ 76 + f.flow * 2 ^ 80

/-- LCRC of a flit: over bytes 0–11 and 16–255 (R221). -/
def lcrcOf (v : Nat) : Nat :=
  let bs := natLe v 256
  crc32 (bs.take 12 ++ bs.drop 16)

/-- A flit as the 2,048 bits of its link. -/
def flitBits (l : LinkFields) (f : Flit) : BitVec 2048 :=
  let pay := (f.payload.foldr (fun g acc => g.toNat + acc * 2 ^ 128) 0)
  let v := flitHeader l f + pay * 2 ^ 128
  BitVec.ofNat 2048 (v + lcrcOf v * 2 ^ 96)

/-- The link fields of arriving bits. -/
def linkFieldsOf (v : Nat) : LinkFields :=
  { typ := bitsOf v 1 0, nak := bit v 2, ackv := bit v 3, ack := bitsOf v 23 16,
    lseq := bitsOf v 15 8, crp := bitsOf v 27 24, crn := bitsOf v 31 28 }

/-- The flit of arriving bits. -/
def flitOf (v : Nat) : Flit :=
  { cls := bitsOf v 5 4, vc := bit v 6, alt := bit v 7, dst := bitsOf v 47 32,
    src := bitsOf v 63 48, sepoch := bitsOf v 71 64, hops := bitsOf v 75 72,
    flow := bitsOf v 91 80,
    payload := (upto (bitsOf v 79 76)).map (fun i =>
      BitVec.ofNat 128 (v >>> (128 * (i + 1)))) }

/-- Whether the LCRC of arriving bits checks, and whether they are a stomped flit (R230). -/
def lcrcOk (v : Nat) : Bool := decide (bitsOf v 127 96 = lcrcOf v)
def stomped (v : Nat) : Bool := decide (bitsOf v 127 96 = lcrcOf v ^^^ 0xFFFFFFFF)

/-- The credit pool of a flit: CLASS × 4 + VC × 2 + ALT (R221). -/
def Flit.pool (f : Flit) : Nat := f.cls * 4 + b2n f.vc * 2 + b2n f.alt

/-! Sending on a port. -/

/-- An empty flit, for IDLE flits. -/
def Flit.idle : Flit :=
  { cls := 0, vc := false, alt := false, dst := 0, src := 0, sepoch := 0, hops := 0, flow := 0,
    payload := [] }

/-- The acknowledgement that the port sends now: the last flit received in order. -/
def Link.ackOf (k : Link) : Nat := (k.rxNext + 255) % 256

/-- The message bits of a codeword are complete: it is encoded, and its symbols are dealt to the `w` lanes
in use, the first position first (R220). -/
def Link.sendCode (k : Link) (w : Nat) : Link :=
  let syms := rsEncode (symbolsOf k.txBits)
  let lanes := (upto w).foldl (fun t j =>
    Tab.set t (k.lo + j) (Tab.get [] t (k.lo + j) ++ dealt syms w j)) k.lanes
  { k with lanes := lanes, txBits := k.txBits >>> messageBits, txLen := k.txLen - messageBits }

/-- A flit leaves on the `w` lanes in use: flits fill the message bits of codewords back to back (R220). -/
def Link.send (k : Link) (w : Nat) (f : BitVec 2048) : Link :=
  let k := { k with wire := k.wire ++ [f], txBits := k.txBits + f.toNat <<< k.txLen,
                    txLen := k.txLen + 2048 }
  if messageBits ≤ k.txLen then k.sendCode w else k

/-- The lanes that port `p` uses now. -/
def widthInUse (s : State) (p : Nat) : Nat := widthOf (fget s F.fabPstat_AW p)

/-- A flit that takes no LSEQ leaves on a port, with its acknowledgement, a NAK, or returned credits
(R222, R227–R229). -/
def sendLink (s : State) (p typ : Nat) (nak : Bool) (crp crn : Nat) (payload : List (BitVec 128)) :
    State :=
  if portUp s p then
    let k := link s p
    let f := flitBits { typ := typ, nak := nak, ackv := nak || decide (0 < k.toAck), ack := k.ackOf,
                        lseq := 0, crp := crp, crn := crn } { Flit.idle with payload := payload }
    setLink s p ({ k with toAck := 0 }.send (widthInUse s p) f)
  else s

/-- An IDLE flit (R222). -/
def sendIdle (s : State) (p : Nat) (nak : Bool) (crp crn : Nat) : State :=
  sendLink s p 0 nak crp crn []

/-- A link-control word as granule 0 of a CTRL flit; the spec does not give its bits (R222). -/
def ctrlBits : Ctrl → BitVec 128
  | .swap j => Config.ctrlWord 0 j
  | .shadow j => Config.ctrlWord 1 j
  | .taken j => Config.ctrlWord 2 j
  | .reform j w => Config.ctrlWord 3 (16 * w.val + j.val)
  | .equalise j => Config.ctrlWord 4 j
  | .delay => Config.ctrlWord 5 0

/-- A CTRL flit leaves on a port (R222), with a NAK where a link retry goes with it (R233). -/
def sendCtrlFlit (s : State) (p : Nat) (c : Ctrl) (nak : Bool) : State :=
  sendLink s p 2 nak 0 0 [ctrlBits c]

/-- A CTRL word is sent, and is repeated until the peer acknowledges it (R222). -/
def sendCtrl (s : State) (p : Nat) (c : Ctrl) (nak : Bool) : State :=
  let k := link s p
  sendCtrlFlit (setLink s p { k with ctrls := addNew k.ctrls c }) p c nak

/-- The bits of DATA flit `f` with LSEQ `n` on a link. -/
def dataBits (k : Link) (n : Nat) (f : Flit) : BitVec 2048 :=
  flitBits { typ := 1, nak := false, ackv := decide (0 < k.toAck), ack := k.ackOf, lseq := n,
             crp := 0, crn := 0 } f

/-- The vport that a flit's flow belongs to, for the monitors. -/
def flitVport (s : State) (f : Flit) : Nat := if f.cls = 0 then vportOfFlow s f.flow else 0

/-- Whether a flit carries TSYNC messages, which share a flit with no others. -/
def Flit.isTsync (f : Flit) : Bool :=
  match flitMsgs f 0 with
  | [] => false
  | ms => ms.all (fun m => decide (m.op.toNat = opTsync))

/-- A flit as its first bit leaves the port: a TSYNC has T1 written by the port (R399). -/
def stampT1 (s : State) (f : Flit) : Flit :=
  if f.isTsync then
    let at_ (d : BitVec 128) : BitVec 128 := BitVec.ofNat 128 (d.toNat / 2 ^ 64 * 2 ^ 64 + tbOf s)
    { f with payload := (flitMsgs f 0).flatMap (fun m =>
        msgGranules { m with data := m.data.map at_ }) }
  else f

/-- A DATA flit is transmitted: it takes the next LSEQ and a credit, and enters the replay buffer
(R228). -/
def transmit (s : State) (p : Nat) (f : Flit) (came : Option Nat) : State :=
  let k := link s p
  let n := Tab.get 0 k.credits f.pool
  let sent := k.send (widthInUse s p) (dataBits k k.lseq (stampT1 s f))
  let s := setLink s p { sent with
    replay := k.replay ++ [(k.lseq, f, came)],
    lseq := (k.lseq + 1) % 256, toAck := 0, credits := Tab.set k.credits f.pool (n - 1) }
  let s := mon s mFlitTx p (flitVport s f) 1
  if f.cls = 0 ∧ f.vc = false then mon s mTc0Tx p (flitVport s f) 1 else s

/-! Receive buffers (R227, R254). -/

/-- Whether the pin of flow `f` names port `p`. -/
def pins (s : State) (f p : Nat) : Bool :=
  (decide (fget s F.tideFlowa_ROLE f = 1) || decide (fget s F.tideFlowa_ROLE f = 2)) &&
    (decide (fget s F.tideFlowa_PINA f = p) || decide (fget s F.tideFlowa_PINB f = p))

/-- The flows that have an entry here. -/
def flowsHere (s : State) : List Nat :=
  (s.regs.filter (fun e => decide (e.1.1 = .tideFlowa))).map (fun e => e.1.2)

/-- The flits that the receive buffer of a port holds: 32 for each lane of its width. -/
def rxTotal (s : State) (p : Nat) : Nat := 32 * widthOf (widthCode s p)

/-- The receive pools of a port in CRP order: equal parts, or for a member of a pin half the buffer for
TC0 VC 0 ALT 0 and the rest over the other 15 pools, any remainder to the lowest-numbered ones. -/
def rxPools (s : State) (p : Nat) : List Nat :=
  let n := rxTotal s p
  if (flowsHere s).any (fun f => pins s f p) then
    let rest := n - n / 2
    n / 2 :: (upto 15).map (fun i => rest / 15 + b2n (decide (i < rest % 15)))
  else List.replicate 16 (n / 16)

/-- Credits for a pool are returned, at most 15 in a flit; at most `fuel` flits. -/
def sendCredits (s : State) (p pool n : Nat) : Nat → State
  | 0 => s
  | fuel + 1 =>
    if n = 0 then s else sendCredits (sendIdle s p false pool (min n 15)) p pool (n - 15) fuel

/-- The peer is given every credit that a receive pool has room for, within the whole buffer. -/
def topUp (s : State) (p : Nat) : State :=
  if portUp s p then
    let pools := rxPools s p
    (upto 16).foldl (fun s i =>
      let k := link s p
      let had := Tab.get 0 k.given i
      let all := (k.given.map (fun e => e.2)).foldl (fun a b => a + b) 0
      let n := min (pools.getD i 0 - had) (rxTotal s p - all)
      if n = 0 then s
      else sendCredits (setLink s p { k with given := Tab.set k.given i (had + n) }) p i n 35) s
  else s

/-- A buffer of an ingress pool is free again: its credit is returned (R227). -/
def freeBuf (s : State) (src : Option (Nat × Nat)) : State :=
  match src with
  | some (p, pool) =>
    let k := link s p
    topUp (setLink s p { k with given := Tab.set k.given pool (Tab.get 0 k.given pool - 1) }) p
  | none => s

/-- A flit without the receive buffer of port `p`. -/
def QFlit.unbuf (p : Nat) (q : QFlit) : QFlit :=
  if q.src.any (fun x => x.1 == p) then { q with src := none } else q

/-- Port `p` starts anew: no flit holds a buffer of it any more (R227). -/
def forgetBufs (s : State) (p : Nat) : State :=
  let fab := s.fab
  { s with fab := { fab with
    links := fab.links.map (fun e => (e.1, { e.2 with queue := e.2.queue.map (QFlit.unbuf p) })),
    buckets := fab.buckets.map (fun e =>
      (e.1, { e.2 with queue := e.2.queue.map (QFlit.unbuf p) })) } }

/-- The place of a queued flit in the order of R249, the smallest first; `tc2` says that TC2 has the
turn. -/
def QFlit.rank (q : QFlit) (tc2 : Bool) : Nat :=
  let grp := if q.tide then 0 else if q.flit.cls = 3 then 1
    else if decide (q.flit.cls = 1) != tc2 then 2 else 3
  grp * 4 + (if q.flit.vc then 0 else 2) + b2n q.flit.alt

/-- The first flit of least rank among those that hold a credit. -/
def pickFlit (k : Link) : List QFlit → Option QFlit
  | [] => none
  | q :: qs =>
    let rest := pickFlit k qs
    if Tab.get 0 k.credits q.flit.pool = 0 then rest
    else
      match rest with
      | none => some q
      | some r => if q.rank (decide (k.turn = 3)) ≤ r.rank (decide (k.turn = 3)) then some q
          else some r

/-- A port sends what it may of its queue, at most `n` flits (R227, R228, R249). -/
def pumpPort (s : State) (p : Nat) : Nat → State
  | 0 => s
  | n + 1 =>
    let k := link s p
    if portUp s p && switchOn s && decide (k.replay.length < 128) then
      match pickFlit k k.queue with
      | none => s
      | some q =>
        let low := !q.tide && decide (q.flit.cls ≠ 3)
        let both := k.queue.any (fun x => !x.tide && x.flit.cls == 1) &&
          k.queue.any (fun x => !x.tide && x.flit.cls != 1 && x.flit.cls != 3)
        let turn := if low && both then (if q.flit.cls = 1 then k.turn + 1 else 0) else k.turn
        let s := setLink s p { k with queue := k.queue.erase q, turn := turn % 4 }
        pumpPort (freeBuf (transmit s p q.flit q.came) q.src) p n
    else s

/-- A port sends what it may. -/
def pumpOut (s : State) (p : Nat) : State := pumpPort s p (link s p).queue.length

/-- A flit joins the queue of an egress port. -/
def enqueue (s : State) (p : Nat) (q : QFlit) : State :=
  let k := link s p
  pumpOut (setLink s p { k with queue := k.queue ++ [q] }) p

/-! Routing by the node table. -/

/-- The port that the node table gives for a destination, and whether it is the alternate (R237
step 3). -/
def tableRoute (s : State) (dst : Nat) (arrived : Option Nat) : Option (Nat × Bool) :=
  let ok (v : Bool) (p : Nat) : Bool := v && portUp s p && decide (some p ≠ arrived)
  let pri := fget s F.nodeEnt_PRI dst
  let alt := fget s F.nodeEnt_ALT dst
  if ok (fbit s F.nodeEnt_PV dst) pri then some (pri, false)
  else if ok (fbit s F.nodeEnt_AV dst) alt then some (alt, true)
  else none

/-- A flit has reached this node. -/
def intoInbox (s : State) (port : Nat) (f : Flit) : State :=
  { s with fab := { s.fab with inbox := s.fab.inbox ++ [(port, f)] } }

/-- Routes a flit by the active bank (R237 steps 3 and 4). `arrived` is its ingress port; a flit that
this node sourced and cannot send is handed back with port 513. -/
def routeByTable (s : State) (q : QFlit) (arrived : Option Nat) : State :=
  let f := q.flit
  match tableRoute s f.dst (arrived.or q.came) with
  | some (p, a) =>
    let s := match arrived with
      | some i => mon s mFlitTransit i (flitVport s f) 1
      | none => s
    enqueue s p { q with flit := { f with alt := f.alt || a }, tide := false }
  | none =>
    let s := freeBuf (logDiscard s f.dst 0) q.src
    if q.came.isNone && decide (f.src = selfId s) then intoInbox s 513 f else s

/-! Tide flows. -/

/-- Whether this node holds an entry of the flit's flow with its source and destination that pins it
to ports here (R237 step 2, R260). -/
def tideHere (s : State) (f : Flit) : Bool :=
  decide (f.cls = 0) && !f.vc &&
    (decide (fget s F.tideFlowa_ROLE f.flow = 1) || decide (fget s F.tideFlowa_ROLE f.flow = 2)) &&
    decide (fget s F.tideFlowa_SRC f.flow = f.src) && decide (fget s F.tideFlowa_DST f.flow = f.dst)

/-- Whether a port is UP and runs PAM4. -/
def portFull (s : State) (p : Nat) : Bool :=
  decide (fget s F.fabPstat_ST p = 3) && !(fbit s F.fabPstat_RATE p)

/-- Whether a member port of flow `f` is UP at its admitted width and rate (R260). -/
def memberOk (s : State) (f p : Nat) : Bool :=
  portFull s p && decide (fget s F.fabPstat_AW p = Tab.get 0 s.fab.width f)

/-- The members of a flow's pin that carry it now. -/
def membersOf (s : State) (f : Nat) : List Nat :=
  [fget s F.tideFlowa_PINA f, fget s F.tideFlowa_PINB f].filter (memberOk s f)

/-- The members that carry a flit of the flow now: not the port on which it arrived (R237). -/
def membersFor (s : State) (q : QFlit) : List Nat :=
  (membersOf s q.flit.flow).filter (fun p => decide (some p ≠ q.came))

/-- One flit, in the unit of a bucket's level. -/
def oneFlit : Nat := 1920000

/-- The bucket of flow `f` brought up to now (R252). -/
def bucketNow (s : State) (f : Nat) : Bucket :=
  let full := fget s F.tideFlowb_BURST f * oneFlit
  match Tab.find s.fab.buckets f with
  | some b =>
    { b with level := min full (b.level + fget s F.tideFlowb_RATE f * (tbOf s - b.tb)),
             tb := tbOf s }
  | none => { level := full, tb := tbOf s, queue := [] }

/-- The state with the bucket of flow `f` replaced. -/
def setBucket (s : State) (f : Nat) (b : Bucket) : State :=
  { s with fab := { s.fab with buckets := Tab.set s.fab.buckets f b } }

/-- A released flit is sent on every member that is up, each copy with ALT = 0 (R251, R260); where none
is left it goes by the node table (R260). -/
def sendTide (s : State) (q : QFlit) : State :=
  let fl := q.flit.flow
  let ms := membersFor s q
  let v := vportOfFlow s fl
  match ms with
  | [] => routeByTable s q none
  | p :: ps =>
    let s := mon s mTideFlit fl v 1
    let s := if ms.length = 1 then mon s mTideSolo fl v 1 else s
    let q := { q with flit := { q.flit with alt := false } }
    ps.foldl (fun s p => enqueue s p { q with src := none }) (enqueue s p q)

/-- Flits of a flow leave its bucket while it holds a token, at most `n` (R252). -/
def drainBucket (s : State) (f : Nat) : Nat → State
  | 0 => s
  | n + 1 =>
    let b := bucketNow s f
    match b.queue with
    | [] => setBucket s f b
    | q :: qs =>
      if oneFlit ≤ b.level then
        drainBucket (sendTide (setBucket s f { b with level := b.level - oneFlit, queue := qs }) q)
          f n
      else setBucket s f b

/-- A flit of an admitted flow enters the bucket of its flow. -/
def regulate (s : State) (q : QFlit) : State :=
  let b := bucketNow s q.flit.flow
  let s := setBucket s q.flit.flow { b with queue := b.queue ++ [q] }
  drainBucket s q.flit.flow (b.queue.length + 1)

/-- The copy check of a transit node (R253): false for a duplicate; else NEXT advances. -/
def tideNext (s : State) (f : Flit) : Bool × State :=
  let ms := flitMsgs f 0
  let first := (ms.head?.map (fun m => m.sseq.toNat)).getD 0
  let last := (ms.getLast?.map (fun m => m.sseq.toNat)).getD 0
  let nx := fget s F.tideFlowb_NEXT f.flow
  let d := (nx + 65536 - first) % 65536
  if fbit s F.tideFlowb_NV f.flow && decide (1 ≤ d) && decide (d ≤ 32768) then (false, s)
  else
    (true, fput (fput s F.tideFlowb_NEXT f.flow ((last + 1) % 65536)) F.tideFlowb_NV f.flow 1)

/-! Routing. -/

/-- Chooses the egress of a flit (R237). `arrived` is its ingress port. -/
def routeFlit (s : State) (q : QFlit) (arrived : Option Nat) : State :=
  let f := q.flit
  let self := selfId s
  if f.dst = self ∧ self ≠ 0xFFFF then
    freeBuf (intoInbox s (arrived.getD 512) f) q.src
  else if self = 0xFFFF then
    let s := freeBuf (logDiscard s f.dst 0) q.src
    if q.came.isNone then intoInbox s 513 f else s
  else if tideHere s f && arrived.isSome && decide (fget s F.tideFlowa_ROLE f.flow = 2) then
    let (fresh, s) := tideNext s f
    if !fresh then freeBuf s q.src
    else if (membersFor s q).isEmpty then routeByTable s q arrived
    else regulate (mon s mFlitTransit (arrived.getD 0) (flitVport s f) 1) { q with tide := true }
  else if tideHere s f && !(membersFor s q).isEmpty then regulate s { q with tide := true }
  else routeByTable s q arrived

/-- An accepted flit enters the switch (R237, R239, R240). A TSYNC is consumed here and never forwarded
(R399). R230 lets the switch begin an egress copy before the last codeword has decoded; the model never
begins one early (DESIGN CHOICE, assumption 114). -/
def ingress (s : State) (p : Nat) (f : Flit) : State :=
  let src := some (p, f.pool)
  let self := selfId s
  if f.dst = 0xFFFF then
    let cmds := (flitMsgs f p).all (fun m => m.op.toNat == opCmd)
    if self = 0xFFFF ∧ f.cls = 3 ∧ cmds = true ∧ tc3Ok s p = true then
      freeBuf (intoInbox s p f) src
    else freeBuf (logDiscard s f.dst 3) src
  else if f.dst = self then routeFlit s { flit := f, src := src, tide := false, came := some p } (some p)
  else if f.isTsync && decide (self ≠ 0xFFFF) then freeBuf (intoInbox s p f) src
  else if 15 ≤ f.hops then freeBuf (logLoop s f.src f.dst) src
  else
    routeFlit s { flit := { f with hops := f.hops + 1 }, src := src, tide := false, came := some p }
      (some p)

/-! Packing this node's messages. -/

/-- Whether a CMD message carries a reply: FLAGS bit 0 of its packet (R379). -/
def isReply (m : Msg) : Bool := bit (m.data.getD 0 0).toNat 48

/-- Whether a message goes straight to its port: TSYNC (R399), a CMD that VIA 2 sends out of a port (R393),
and a reply that has no other way out (R375). -/
def direct (s : State) (m : Msg) : Bool :=
  decide (m.op.toNat = opTsync) || (decide (m.op.toNat = opCmd) &&
    (decide (m.dst.toNat = 0xFFFF) || (isReply m && (decide (selfId s = 0xFFFF) ||
      ((tableRoute s m.dst.toNat none).isNone && decide (m.dst.toNat ≠ selfId s))))))

/-- The messages that may share a flit with `m` (R223, R250). -/
def shares (s : State) (m x : Msg) : Bool :=
  decide (x.dst = m.dst) && decide (x.cls = m.cls) && decide (x.vc = m.vc) &&
    decide (x.flow = m.flow) && decide (x.sepoch = m.sepoch) &&
    (!(direct s m) && !(direct s x) || (direct s m && direct s x && decide (x.port = m.port)))

/-- Takes from the list the messages that fit with `m` into 15 granules: those taken, and the
rest. -/
def fill (s : State) (m : Msg) : List Msg → Nat → List Msg × List Msg
  | [], _ => ([], [])
  | x :: xs, room =>
    if shares s m x && decide ((msgGranules x).length ≤ room) then
      let (a, b) := fill s m xs (room - (msgGranules x).length)
      (x :: a, b)
    else
      let (a, b) := fill s m xs (if shares s m x then 0 else room)
      (a, x :: b)

/-- The oldest waiting message is sent with those that share its flit (R223). -/
def packOne (s : State) : State :=
  match s.outbox with
  | [] => s
  | m :: _ =>
    let (ms, rest) := fill s m s.outbox 15
    let f : Flit :=
      { cls := m.cls.toNat, vc := m.vc, alt := false, dst := m.dst.toNat, src := m.src.toNat,
        sepoch := m.sepoch.toNat, hops := 0, flow := m.flow.toNat,
        payload := ms.flatMap msgGranules }
    let d := direct s m
    let s := { s with outbox := rest }
    let q : QFlit := { flit := f, src := none, tide := false }
    if d then
      if portUp s m.port then enqueue s m.port q
      else if m.op.toNat = opCmd then intoInbox (logDiscard s f.dst 0) 513 f
      else s
    else routeFlit s q none

/-- Every waiting message is sent; at most `n` flits. -/
def packAll (s : State) : Nat → State
  | 0 => s
  | n + 1 => if s.outbox.isEmpty then s else packAll (packOne s) n

/-! Ports going down and lanes. -/

/-- The members of flow `f` that are excluded from its pin. -/
def excluded (s : State) (f : Nat) : List Nat :=
  (s.fab.excl.filter (fun x => x.1 == f)).map (fun x => x.2)

/-- Port `p` is taken as a member of flow `f` again, or excluded from it with a TIDE_SINGLE record
(R260). -/
def setMember (s : State) (f p : Nat) : State :=
  let fab := s.fab
  let rest := fab.excl.filter (fun x => decide (x ≠ (f, p)))
  let s :=
    if memberOk s f p then { s with fab := { fab with excl := rest } }
    else if (excluded s f).contains p then s
    else
      let s := { s with fab := { fab with excl := (f, p) :: rest } }
      logEv s { code := 0x44, cls := clsRecovered, kind := kPort, unit := p, d0 := f }
  fput s F.tideFlowb_SOLO f (b2n (!(excluded s f).isEmpty))

/-- SOLO of every flow pinned to port `p` follows the port's state (R260). -/
def updateSolo (s : State) (p : Nat) : State :=
  (flowsHere s).foldl (fun s f => if pins s f p then setMember s f p else s) s

/-- A port goes DOWN (R217, R235, R260): its state and REASON, its log record, and its flits routed
again with ALT set (a tide flit goes to the other member). A TSYNC has no other port (R399). -/
def portDown (s : State) (p reason : Nat) : State :=
  let k := link s p
  let s := fput (fput (fput s F.fabPstat_ST p 1) F.fabPstat_REASON p reason) F.fabPstat_AW p 0
  let s := fput s F.tbPdly_V p 0
  let s := logEv s { code := 0x42, cls := clsRecovered, kind := kPort, unit := p, d0 := reason }
  let fresh : Link := { Link.reset with fails := k.fails, plain := k.plain }
  let s := updateSolo (forgetBufs (setLink s p { fresh with wire := k.wire, lanes := k.lanes }) p) p
  let held := (k.replay.map (fun x =>
    ({ flit := x.2.1, src := none, tide := false, came := x.2.2 } : QFlit)) ++
      k.queue.map (QFlit.unbuf p)).filter (fun q => !q.flit.isTsync)
  if switchOn s then
    held.foldl (fun s q =>
      match membersFor s q with
      | m :: ms =>
        if tideHere s q.flit then
          let q := { q with flit := { q.flit with alt := false }, tide := true }
          ms.foldl (fun s m => enqueue s m { q with src := none }) (enqueue s m q)
        else routeByTable s { q with flit := { q.flit with alt := true } } none
      | [] => routeByTable s { q with flit := { q.flit with alt := true } } none) s
  else s

/-- Every unacknowledged flit is sent again in its order (R229). The eighth resend in succession
without progress takes the port DOWN. -/
def resend (s : State) (p : Nat) : State :=
  let k := link s p
  if k.replay.isEmpty then s
  else if 8 ≤ k.resends then portDown s p 4
  else
    let s := fsat s F.fabPerr_REPLAY p 1
    let s := mon s mLinkReplay p 0 1
    let s := k.replay.foldl (fun s x => mon s mFlitTx p (flitVport s x.2.1) 1) s
    let sent := k.replay.foldl (fun j x => j.send (widthInUse s p) (dataBits k x.1 (stampT1 s x.2.1))) k
    setLink s p { sent with resends := k.resends + 1, toAck := 0 }

/-- The entries of a replay buffer after LSEQ `n`, if it holds `n`. -/
def afterLseq (n : Nat) :
    List (Nat × Flit × Option Nat) → Option (List (Nat × Flit × Option Nat))
  | [] => none
  | x :: xs => if x.1 = n then some xs else afterLseq n xs

/-- An acknowledgement frees every flit up to it (R228). -/
def ackTo (s : State) (p n : Nat) : State :=
  let k := link s p
  match afterLseq n k.replay with
  | some r => setLink s p { k with replay := r, resends := 0 }
  | none => s

/-- The link fields of an arriving flit act: acknowledgement, NAK and credits (R227–R229). -/
def linkFields (s : State) (p : Nat) (l : LinkFields) : State :=
  let s := if l.ackv then ackTo s p l.ack else s
  let s := if l.crn = 0 then s
    else
      let k := link s p
      let n := Tab.get 0 k.credits l.crp + l.crn
      setLink s p { k with credits := Tab.set k.credits l.crp n }
  let s := if l.nak then resend s p else s
  pumpOut s p

/-- The receiver discards until the flit it expects arrives (R229). -/
def awaitResend (s : State) (p : Nat) : State := setLink s p { link s p with discard := true }

/-- The receiver sends NAK and discards until the flit it expects arrives (R229). -/
def sendNak (s : State) (p : Nat) : State := sendIdle (awaitResend s p) p true 0 0

/-- What the decoder makes of a codeword with these symbols in error (R211): what is still wrong in its
message bits, and the number of symbols that it corrected; none where it is uncorrectable. -/
def decodeWord (e : List (Fin 544 × BitVec 10)) : Option (Nat × Nat) :=
  let w := e.map (fun x => (x.1.val, x.2.toNat))
  (rsDecode w).map (fun c => (messageErrors w ^^^ messageErrors c, c.length))

/-- The codewords that a flit is the first to use are decoded and counted (R211, R246); whether every
codeword that holds part of the flit has decoded (R220). The command says where the flit lies in its codewords
and what the link has added to them (DESIGN CHOICE, assumption 115). -/
def decodeFec (s : State) (p : Nat) (e : Fec) : Bool × State :=
  let before := !e.shared || (link s p).last.isSome
  if e.errs.isEmpty then (before, s)
  else
  let out := e.errs.map decodeWord
  let s := fsat s F.fabPerr_UNCOR p (out.filter (fun x => x.isNone)).length
  let s := fsat s F.fabPerr_CORR p (out.filter (fun x => x.any (fun y => decide (y.2 ≠ 0)))).length
  (before && out.all (fun x => x.isSome),
   setLink s p { link s p with last := (out.getLastD none).map (fun x => x.1) })

/-- The bits of an arriving flit as its decoded codewords give them: `v` as it was sent, with what a decoder
that took a codeword for another one has made wrong in them (R220). `s` is the state before the flit. -/
def fecBits (s : State) (p : Nat) (e : Fec) (v : Nat) : Nat :=
  let old := if e.shared then [((link s p).last).getD 0] else []
  let all := old ++ e.errs.map (fun x => ((decodeWord x).map (fun y => y.1)).getD 0)
  let wrong := all.foldr (fun r a => r + a <<< messageBits) 0
  v ^^^ wrong >>> e.start.val % 2 ^ 2048

/-- A DATA flit arrives (R220, R228–R230, R237). While the receiver waits for a resend, a further LSEQ
gap sends no NAK: the flits are discarded. -/
def receiveData (s : State) (p : Nat) (e : Fec) (v : Nat) : State :=
  if !(portUp s p && switchOn s) then s
  else
  let v := fecBits s p e v
  let (ok, s) := decodeFec s p e
  if !ok then sendNak s p
  else if stomped v then s
  else if !(lcrcOk v) then sendNak (fsat s F.fabPerr_CRCERR p 1) p
  else
    let l := linkFieldsOf v
    let s := linkFields s p l
    let k := link s p
    if l.typ ≠ 1 then s
    else if l.lseq ≠ k.rxNext then
      if (k.rxNext + 255 - l.lseq) % 256 < 128 then
        sendIdle (setLink s p { k with toAck := max k.toAck 1 }) p false 0 0
      else if k.discard then s
      else sendNak s p
    else
      let k := { k with rxNext := (k.rxNext + 1) % 256, discard := false, toAck := k.toAck + 1 }
      let s := setLink s p k
      let s := if 16 ≤ k.toAck then sendIdle s p false 0 0 else s
      let f := flitOf v
      let s := mon s mFlitRx p (flitVport s f) 1
      ingress s p f

/-- IDLE_FLIT: it carries only link fields (R222, R227). -/
def execIdleFlit (p : PortNo) (e : Fec) (f : BitVec 2048) (s : State) :
    Host.Outcome State Fault Refusal :=
  if !(portUp s p) then .next s
  else
  let v := fecBits s p e f.toNat
  let (ok, s) := decodeFec s p e
  if !ok then .next (sendNak s p)
  else if lcrcOk v then .next (linkFields s p (linkFieldsOf v))
  else .next (sendNak (fsat s F.fabPerr_CRCERR p 1) p)

/-- LINK_NAK: every flit up to ACK is freed and the rest is resent (R229). -/
def execLinkNak (p : PortNo) (ack : BitVec 8) (s : State) : Host.Outcome State Fault Refusal :=
  if portUp s p then .next (pumpOut (resend (ackTo s p ack.toNat) p) p) else .next s

/-- REPLAY_TIMEOUT: the oldest unacknowledged flit has waited 4 µs (R229). -/
def execReplayTimeout (p : PortNo) (s : State) : Host.Outcome State Fault Refusal :=
  if portUp s p then .next (resend s p) else .next s

/-- PORT_DELAY_MEASURE: a port that is UP or DEGRADED measures its one-way delay by a CTRL exchange; `d` is
the round trip less the peer's turnaround time, in 1/256 ns, as the stamps at both ends give it (R400;
DESIGN CHOICE, assumption 133). -/
def execPortDelayMeasure (p : PortNo) (d : BitVec 32) (s : State) :
    Host.Outcome State Fault Refusal :=
  if portUp s p then
    .next (fput (fput (sendCtrl s p .delay false) F.tbPdly_DLY p (d.toNat / 2)) F.tbPdly_V p 1)
  else .next s

/-- ACK_TIMER: an acknowledgement is sent for flits that wait for one (R228), and the CTRL words that
the peer has not acknowledged are repeated (R222; DESIGN CHOICE, assumption 113). -/
def execAckTimer (p : PortNo) (s : State) : Host.Outcome State Fault Refusal :=
  let s := if 0 < (link s p).toAck then sendIdle s p false 0 0 else s
  .next ((link s p).ctrls.foldl (fun s c => sendCtrlFlit s p c false) s)

/-- FLIT_FILL_TIMEOUT: the oldest waiting message has waited 8 SWITCH cycles and is sent (R223). -/
def execFlitFillTimeout (s : State) : Host.Outcome State Fault Refusal := .next (packOne s)

/-- TOKEN_BUCKET_RELEASE: the bucket of flow `f` comes to hold a token, and a waiting flit is
released (R252). -/
def execTokenBucketRelease (f : Fin 4096) (s : State) : Host.Outcome State Fault Refusal :=
  let b := bucketNow s f
  let rate := fget s F.tideFlowb_RATE f
  if b.queue.isEmpty ∨ rate = 0 then .next s
  else
    let wait := (oneFlit - b.level + rate - 1) / rate
    .next (drainBucket (advanceTb s (tbOf s + wait)) f 1)

/-- TIDE_COPY_TIMEOUT: the oldest copy of flow `f` queued on member `p` is discarded (R253). -/
def execTideCopyTimeout (f : Fin 4096) (p : PortNo) (s : State) :
    Host.Outcome State Fault Refusal :=
  let k := link s p
  match k.queue.find? (fun q => q.tide && q.flit.flow == f.val) with
  | some q => .next (freeBuf (setLink s p { k with queue := k.queue.erase q }) q.src)
  | none => .next s

/-! Lane sparing (R231–R234). -/

/-- The lane at position `j` of group `g` has been lost or replaced. -/
def markFail (s : State) (g j : Nat) : State :=
  fput s F.fabGstat_FAIL g (fget s F.fabGstat_FAIL g ||| 2 ^ j)

/-- The spare carries position `j` (R232, R233). -/
def spareTakes (s : State) (g j : Nat) : State :=
  fput (fput (markFail s g j) F.fabGstat_SPOS g j) F.fabGstat_SST g 2

/-- A CTRL word on the port that holds a position. -/
def ctrlAt (s : State) (g j : Nat) (c : Ctrl) : State :=
  match portAt s g j with
  | some p => if portUp s p then sendCtrl s p c false else s
  | none => s

/-- A CTRL word and the NAK of one link retry leave on a port in one flit (R233, R234). -/
def askRetry (s : State) (p : Nat) (c : Ctrl) : State := sendCtrl (awaitResend s p) p c true

/-- Whether the positions of port `p` from `lo` on, `n` of them, hold no lost lane; a position that
the spare carries is not lost (R232, R234). -/
def healthyRun (s : State) (p lo n : Nat) : Bool :=
  let g := p / 16
  (upto n).all (fun i =>
    let j := p % 16 + lo + i
    !(bit (fget s F.fabGstat_FAIL g) j) ||
      (decide (fget s F.fabGstat_SST g = 2) && decide (fget s F.fabGstat_SPOS g = j)))

/-- Port `p` goes on with the half of its width that starts at offset `lo`, of width code `aw`
(R234). -/
def useHalf (s : State) (p lo aw : Nat) : State :=
  let s := setLink s p { link s p with lo := lo }
  updateSolo (fput (fput s F.fabPstat_AW p aw) F.fabPstat_ST p 4) p

/-- The port in whose lanes in use one was lost reforms, through one link retry, on a half of its
width made of healthy lanes, the lower one first; an x1 port goes DOWN (R234). -/
def reform (s : State) (p lo : Nat) : Nat → State
  | 0 | 1 => portDown s p 5
  | aw + 2 =>
    let n := 2 ^ aw
    let go (h : Nat) : State :=
      let s := logEv (useHalf s p h (aw + 1)) { code := 0x41, cls := clsRecovered, kind := kPort,
                                                 unit := p, d0 := aw + 1 }
      askRetry s p (.reform (Fin.ofNat 16 (p % 16 + h)) (Fin.ofNat 6 (aw + 1)))
    if healthyRun s p lo n then go lo
    else if healthyRun s p (lo + n) n then go (lo + n)
    else reform s p lo (aw + 1)

/-- A lane is lost in a group whose spare is ACTIVE or FAILED: its port reforms on half its width or
goes DOWN (R234). A lane that the port no longer uses changes no port. -/
def loseLane (s : State) (g j : Nat) : State :=
  let s := markFail s g j
  match portAt s g j with
  | some p =>
    let lo := (link s p).lo
    let aw := fget s F.fabPstat_AW p
    if portUp s p && decide (p % 16 + lo ≤ j) && decide (j < p % 16 + lo + widthOf aw) then
      reform s p lo aw
    else s
  | none => s

/-- A position becomes suspect, or is to be retired (R232, R348): the spare starts to shadow it when
it is STANDBY. -/
def suspectLane (s : State) (g j : Nat) : State :=
  if fget s F.fabGstat_SST g = 0 ∧ (portAt s g j).isSome = true then
    ctrlAt (fput (fput s F.fabGstat_SST g 1) F.fabGstat_SHIDX g j) g j (.shadow (Fin.ofNat 16 j))
  else s

/-- LANE_SUSPECT (R232). -/
def execLaneSuspect (g : Fin 32) (pos : Fin 16) (s : State) : Host.Outcome State Fault Refusal :=
  .next (suspectLane s g pos)

/-- The shadowing spare takes its position over (R232). -/
def laneSpared (s : State) (g : Nat) : State :=
  if fget s F.fabGstat_SST g = 1 then
    let j := fget s F.fabGstat_SHIDX g
    let s := ctrlAt (spareTakes s g j) g j (.taken (Fin.ofNat 16 j))
    logEv s { code := 0x40, cls := clsRecovered, kind := kGroup, unit := g, d0 := j, d1 := 0 }
  else s

/-- LANE_LOST (R231, R233, R234); position 16 is the spare. A position without a port is powered
down (R213), and one that the spare carries is no longer driven (R232): neither changes anything. -/
def execLaneLost (g : Fin 32) (pos : Fin 17) (s : State) : Host.Outcome State Fault Refusal :=
  let sst := fget s F.fabGstat_SST g
  if pos.val = 16 then
    let s1 := fput s F.fabGstat_SST g 3
    .next (if sst = 2 then loseLane s1 g (fget s F.fabGstat_SPOS g) else s1)
  else if (portAt s g pos).isNone then .next s
  else if sst = 2 ∧ fget s F.fabGstat_SPOS g = pos.val then .next s
  else if sst = 0 ∨ sst = 1 then
    let s := spareTakes s g pos
    let s := match portAt s g pos with
      | some p => if portUp s p then askRetry s p (.swap (Fin.ofNat 16 pos)) else s
      | none => s
    .next (logEv s { code := 0x40, cls := clsRecovered, kind := kGroup, unit := g, d0 := pos,
                     d1 := 1 })
  else .next (loseLane s g pos)

/-- STANDBY_ROTATE: SHIDX moves to the next position in a port that is UP (R231). -/
def execStandbyRotate (g : Fin 32) (s : State) : Host.Outcome State Fault Refusal :=
  if fget s F.fabGstat_SST g = 0 then
    let i := fget s F.fabGstat_SHIDX g
    let up (j : Nat) : Bool := match portAt s g j with
      | some p => decide (fget s F.fabPstat_ST p = 3)
      | none => false
    match ((upto 16).map (fun d => (i + 1 + d) % 16)).find? up with
    | some j => .next (fput s F.fabGstat_SHIDX g j)
    | none => .next s
  else .next s

/-- The effect of a CTRL word of the peer on this transmitter (R232–R234): a repeated one changes
nothing more. An equaliser update and a delay exchange change no register; the word that goes back is the
answer of the exchange (R400). -/
def ctrlEffect (s : State) (p : PortNo) (k : Ctrl) : State :=
  let g := p.val / 16
  match k with
  | .shadow j =>
    if fget s F.fabGstat_SST g = 0 then fput (fput s F.fabGstat_SST g 1) F.fabGstat_SHIDX g j else s
  | .taken j => spareTakes s g j
  | .swap j => spareTakes s g j
  | .reform j w =>
    if 1 ≤ w.val ∧ w.val < fget s F.fabPstat_AW p then useHalf s p (j.val - p.val % 16) w else s
  | .equalise _ => s
  | .delay => s

/-- CTRL_FLIT (R222, R232–R234): its link fields act as those of every flit, so that the link retry of a
swap or reform is that of its NAK, once the word has had its effect. The peer acknowledges a word by
sending it back (DESIGN CHOICE, assumption 113). -/
def execCtrlFlit (p : PortNo) (x : CtrlFlit) (s : State) : Host.Outcome State Fault Refusal :=
  let k := x.word
  if !(portUp s p) then .next s
  else
  let v := fecBits s p x.fec x.bits.toNat
  let (ok, s) := decodeFec s p x.fec
  if !ok then .next (sendNak s p)
  else if !(lcrcOk v) then .next (sendNak (fsat s F.fabPerr_CRCERR p 1) p)
  else
    let asked := link s p
    let s := if asked.ctrls.contains k then setLink s p { asked with ctrls := asked.ctrls.erase k }
      else sendCtrlFlit (ctrlEffect s p k) p k false
    .next (linkFields s p (linkFieldsOf v))

/-! Training (R217–R219, R442–R444). -/

/-- Whether no other port of the group of port `p` trains or runs: the spare trains with it (R217). -/
def firstOfGroup (s : State) (p : Nat) : Bool :=
  (upto 16).all (fun b =>
    let q := 16 * (p / 16) + b
    decide (q = p) || !(portUp s q || decide (fget s F.fabPstat_ST q = 2)))

/-- The positions of a port. -/
def portLanes (s : State) (p : Nat) : List Nat :=
  (upto (widthOf (widthCode s p))).map (fun j => p % 16 + j)

/-- The physical lane of group `g` that serves a position: the spare, physical lane 16, serves the position
that it has taken (R5, R442). -/
def physLane (s : State) (g j : Nat) : Nat :=
  if fget s F.fabGstat_SST g = 2 ∧ fget s F.fabGstat_SPOS g = j then 16 else j

/-- One bit of a field of 17 positions set or cleared. -/
def bit17 (v j : Nat) (b : Bool) : Nat := setBitsOf v j j (b2n b)

/-- A port starts to train, and with the first port of its group the spare (R217): each lane starts from
kept coefficients where it has them and PEND is 0 (R443), and its PEND is cleared (R449). What a lane trains
is its physical unit (R442). -/
def startTraining (s : State) (p : Nat) : State :=
  if portExists s p && !s.dev.ps1 && !s.dev.off then
    let k := link s p
    let g := p / 16
    let spare := firstOfGroup s p
    let lanes := (portLanes s p).map (physLane s g)
    let s := (lanes ++ (if spare && !(lanes.contains 16) then [16] else [])).foldl (fun s j =>
      let pend := bit (fget s F.calGstat_PEND g) j
      let kept := s.fab.kept.contains (17 * g + j) && !pend && !k.plain
      let s := fput s F.calGstat_PEND g (bit17 (fget s F.calGstat_PEND g) j false)
      fput s F.calGstat_REC g (bit17 (fget s F.calGstat_REC g) j kept)) s
    let s := fput s F.fabPstat_ST p 2
    setLink s p { k with phase := 1, spare := spare }
  else s

/-- TRAINING_RETRY: 10 ms after a DOWN training starts again (R217). -/
def execTrainingRetry (p : PortNo) (s : State) : Host.Outcome State Fault Refusal :=
  if fget s F.fabPstat_ST p = 1 then .next (startTraining s p) else .next s

/-- Phase 6 is complete: credits are known, LSEQ is 0 at both ends, and the port is UP (R217, R227,
R260). -/
def linkStart (s : State) (p : Nat) (nrz : Bool) (credits : List Nat) : State :=
  let k := link s p
  let s := fput (fput (fput s F.fabPstat_ST p 3) F.fabPstat_AW p (widthCode s p))
    F.fabPstat_RATE p (b2n nrz)
  let pools := (upto 16).map (fun i => (i, credits.getD i 0))
  let given := (upto 16).map (fun i => (i, (rxPools s p).getD i 0))
  let fresh := { Link.reset with credits := pools, given := given }
  let s := setLink s p { fresh with wire := k.wire, lanes := k.lanes }
  let lanes := (portLanes s p).map (physLane s (p / 16))
  let units := (lanes ++ (if k.spare && !(lanes.contains 16) then [16] else [])).map (fun j => 17 * (p / 16) + j)
  let new := units.filter (fun u => !(s.fab.kept.contains u))
  let s := { s with fab := { s.fab with kept := s.fab.kept ++ new } }
  updateSolo s p

/-- TRAINING_PHASE_DONE: a training phase completes and the next starts (R217, R218). A group set to
NRZ does not attempt PAM4. -/
def execTrainingPhaseDone (p : PortNo) (info : TrainInfo) (s : State) :
    Host.Outcome State Fault Refusal :=
  let k := link s p
  if fget s F.fabPstat_ST p ≠ 2 then .next s
  else if k.phase = 3 then
    if !info.wired then .next (portDown s p 3)
    else
      let s := fput (fput (fput s F.fabPstat_PEER p info.peer.toNat) F.fabPstat_PPORT p info.pport)
        F.fabPstat_REV p (b2n info.rev)
      let nrz := fbit s F.fabGcfg_NRZ (p.val / 16)
      .next (setLink s p { k with phase := if nrz then 6 else 4, nrz := nrz })
  else if 6 ≤ k.phase then .next (linkStart s p k.nrz info.credits)
  else .next (setLink s p { k with phase := k.phase + 1 })

/-- TRAINING_LIMIT: a phase exceeds its limit (R217). The second failure of phase 4 or 5 in
succession goes on to phase 6 in NRZ (R218); a first failure makes the next attempt start from
defaults (R444). -/
def execTrainingLimit (p : PortNo) (s : State) : Host.Outcome State Fault Refusal :=
  let k := link s p
  if fget s F.fabPstat_ST p ≠ 2 then .next s
  else if k.phase = 4 ∨ k.phase = 5 then
    if 1 ≤ k.fails then .next (setLink s p { k with phase := 6, nrz := true, fails := 0 })
    else .next (portDown (setLink s p { k with fails := k.fails + 1, plain := true }) p 2)
  else .next (portDown s p 2)

/-- A port that is not OFF or already DOWN goes DOWN. -/
def dropPort (s : State) (p reason : Nat) : State :=
  if portUp s p || decide (fget s F.fabPstat_ST p = 2) then portDown s p reason else s

/-- GREFCLK_LOSS: every port of the group goes DOWN (R456). -/
def execGrefclkLoss (g : Fin 32) (s : State) : Host.Outcome State Fault Refusal :=
  .next ((upto 16).foldl (fun s b => dropPort s (16 * g + b) 1) s)

/-- NO_SIGNAL: the peer's signal disappears from a running port (R235, R246). -/
def execNoSignal (p : PortNo) (s : State) : Host.Outcome State Fault Refusal :=
  .next (dropPort s p 1)

/-- A PORT reset: the port goes DOWN and retrains, and its error counts and delay take their Warm
values; ignored where no port starts (R13, R219, R246). Its tide reservation stays with the entries
(R441). -/
def portReset (s : State) (p : Nat) : State :=
  if portExists s p then
    let s := if fget s F.fabPstat_ST p = 1 then fput s F.fabPstat_REASON p 7 else portDown s p 7
    startTraining (wr (wr s .fabPerr p 0) .tbPdly p 0) p
  else s

/-- PORT_RESET (R219). -/
def execPortReset (p : PortNo) (s : State) : Host.Outcome State Fault Refusal :=
  .next (portReset s p)

/-- Whether the codes of W are laid out as R215 asks. -/
def gcfgOk (w : Nat) : Bool :=
  let code (j : Nat) : Nat := bitsOf w (3 * j + 2) (3 * j)
  (upto 16).all (fun j =>
    decide (code j ≤ 5) && (decide (code j = 0) ||
      (decide (j % widthOf (code j) = 0) &&
        (upto 16).all (fun i => decide (i ≤ j) || decide (j + widthOf (code j) ≤ i) ||
          decide (code i = 0)))))

/-- PORT_SET's effect on group `g` (R215, R386): ports whose width code changes, or all of them when
MR or NRZ changes, go DOWN and retrain; a position at which no port starts any more is OFF. -/
def setGroup (s : State) (g : Nat) (mr nrz : Bool) (w : Nat) : State :=
  let modes := decide (fget s F.fabGcfg_MR g ≠ b2n mr) || decide (fget s F.fabGcfg_NRZ g ≠ b2n nrz)
  let oldW := fget s F.fabGcfg_W g
  let changed (b : Nat) : Bool :=
    modes || decide (bitsOf oldW (3 * b + 2) (3 * b) ≠ bitsOf w (3 * b + 2) (3 * b))
  let ps := ((upto 16).filter changed).map (fun b => 16 * g + b)
  let s := ps.foldl (fun s p => if portExists s p then dropPort s p 6 else s) s
  let s := fput (fput (fput s F.fabGcfg_W g w) F.fabGcfg_MR g (b2n mr)) F.fabGcfg_NRZ g (b2n nrz)
  ps.foldl (fun s p =>
    if portExists s p then
      startTraining (fput s F.fabPstat_REASON p 6) p
    else
      let s := wr (wr s .fabPstat p (w64 (0xFFFF * 2 ^ 48))) .fabPerr p 0
      { s with fab := { s.fab with links := Tab.erase s.fab.links p } }) s

end Sys2Proof.Machine
end

