-- ==== Sys2Proof/Machine/Window.lean ====
section
/-! DEFINITION. The window buffer (R272–R277), the window-miss queue (R278), dirty logs (R285) and
the mailboxes of vports (R282–R284). -/

namespace Sys2Proof.Machine

/-- A refusal of a partner's request (R225). -/
def nak (s : State) (m : Msg) (stat : Nat) : State :=
  emit s { newMsg s m.src.toNat m.cls.toNat opNak true with
    tag := m.tag, stream := m.stream, sseq := m.sseq, flow := m.flow, stat := BitVec.ofNat 4 stat,
    spec := m.spec && decide (stat = 1) }

/-! Windows. -/

/-- Whether window entry `i` matches address `ra` from node `n` (R273). -/
def winMatch (s : State) (i n ra : Nat) : Bool :=
  let lg := fget s F.winA_LOG2 i
  fbit s F.winA_V i && (fbit s F.winA_ANY i || decide (fget s F.winB_SRC i = n)) &&
    decide (ra / 2 ^ lg = fget s F.winA_WBASE i * 4096 / 2 ^ lg)

/-- The indices of the valid window entries. -/
def winIdx (s : State) : List Nat :=
  ((s.regs.filter (fun e => decide (e.1.1 = .winA))).map (fun e => e.1.2)).filter
    (fun i => fbit s F.winA_V i)

/-- The least of a list of numbers. -/
def least : List Nat → Option Nat
  | [] => none
  | x :: xs =>
    match least xs with
    | some y => some (min x y)
    | none => some x

/-- The lowest matching window entry (R273). -/
def findWindow (s : State) (n ra : Nat) : Option Nat :=
  least ((winIdx s).filter (fun i => winMatch s i n ra))

/-- The local address of `ra` through window `i` (R273). -/
def winLocal (s : State) (i ra : Nat) : Nat :=
  fget s F.winB_LBASE i * 4096 + ra % 2 ^ (fget s F.winA_LOG2 i)

/-- Whether an opcode is a coherent request, and whether it needs the read and the write right
(R273). -/
def opCoh (op : Nat) : Bool := [opRdS, opRdX, opUpg].contains op
def opNeedR (op : Nat) : Bool := [opRdS, opRdX, opUpg, opRdCur, opCcln, opCfls, opAtom].contains op
def opNeedW (op : Nat) : Bool := [opRdX, opUpg, opWrLine, opCinv, opAtom].contains op

/-- A request that matches no entry: NAK with STAT 0x1, and unless it is speculative a record of the
miss queue and the vector of WIN_MINT (R278). -/
def windowMiss (s : State) (m : Msg) : State :=
  let s := mon (nak s m 1) mWindowMiss m.src.toNat 0 1
  if m.spec then s
  else
    let op := m.op.toNat
    let key := b2n (opNeedW op) * 2 ^ 62 + m.src.toNat * 2 ^ 40 + m.addr.toNat / 4096
    let same (r : Nat) : Bool :=
      decide (setBitsOf (setBitsOf (setBitsOf r 63 63 0) 61 61 0) 60 60 0 = key)
    let s :=
      if s.missQ.getLast?.any same then s
      else if 64 ≤ s.missQ.length then { s with missOvf := true }
      else
        let r := key + 2 ^ 63 + b2n (opCoh op) * 2 ^ 61 + b2n s.missOvf * 2 ^ 60
        { s with missQ := s.missQ ++ [r], missOvf := false }
    raiseVec s (fget s F.winMint_TARGET 0) (fget s F.winMint_VECTOR 0)

/-- A read of the miss queue's head removes it (R278). -/
def missPop (s : State) : Word × State :=
  match s.missQ with
  | [] => (0, s)
  | r :: q => (w64 r, { s with missQ := q })

/-- WIN_MQ_READ (R278). -/
def execWinMqRead (s : State) : Host.Outcome State Fault Refusal :=
  let (v, s) := missPop s
  .next (setOut s v)

/-- The window entries of a vport, other than index `i`. -/
def winOf (s : State) (v : Nat) (i : Option Nat) : List Nat :=
  (winIdx s).filter (fun j => decide (fget s F.winA_VPORT j = v) && decide (some j ≠ i))

/-- The sum of WQUOTA over the vports that are not FREE (R275). -/
def quotaSum (s : State) : Nat :=
  s.vps.foldl (fun a e => if fget s F.vpStat_STATE e.1 = 0 then a else a + e.2.wquota) 0

/-- The window quota of a vport (R275). -/
def quotaOf (s : State) (v : Nat) : Nat :=
  if v = 0 then 32768 - quotaSum s
  else match Tab.find s.vps v with
    | some p => p.wquota
    | none => 0

/-- Whether a vport is not FREE; vport 0 never is (R279). -/
def vpLive (s : State) (v : Nat) : Bool := decide (v = 0) || decide (fget s F.vpStat_STATE v ≠ 0)

/-- The checks of R274 on the staged entry that do not concern quotas. -/
def stagedOk (s : State) : Bool :=
  let lg := fget s F.winStg0_LOG2 0
  let wb := fget s F.winStg0_WBASE 0 * 4096
  let lb := fget s F.winStg1_LBASE 0 * 4096
  fbit s F.winStg0_V 0 && decide (12 ≤ lg) && decide (lg ≤ 38) && decide (wb % 2 ^ lg = 0) &&
    decide (lb % 2 ^ lg = 0) && !(bit wb 51) &&
    (decide (lb + 2 ^ lg ≤ visTop s) ||
      (decide (spdBase ≤ lb) && decide (lb + 2 ^ lg ≤ spdSecure)))

/-- STATUS codes of WIN_CMD. -/
def winStatus (s : State) (c : Nat) : State := fput s F.winCmd_STATUS 0 c

/-- The requests of partners that entry `i` translated are marked: WIN_CMD and DESTROY wait for them
when the entry goes (R277, R281). -/
def markWin (s : State) (i : Nat) : State :=
  { s with homeQ := s.homeQ.map (fun q => if q.win = some i then { q with gone := true } else q) }

/-- The staged entry is placed at index `i`, in place of what it holds. -/
def placeWin (s : State) (i : Nat) : State :=
  let s := markWin s i
  let s := wr (wr s .winA i (rd s .winStg0 0)) .winB i (rd s .winStg1 0)
  { s with winUse := Tab.set s.winUse i s.stamp, stamp := s.stamp + 1 }

/-- Entry `i` is removed. -/
def dropWin (s : State) (i : Nat) : State := wr (wr (markWin s i) .winA i 0) .winB i 0

/-- BUSY stays 1 while requests translated through a removed or replaced entry are not performed
(R277). -/
def winBusy (s : State) : State := fput s F.winCmd_BUSY 0 (b2n (s.homeQ.any (fun q => q.gone)))

/-- The least recently used of some entries. -/
def lruOf (s : State) : List Nat → Option Nat
  | [] => none
  | i :: is =>
    match lruOf s is with
    | some j => if Tab.get 0 s.winUse i ≤ Tab.get 0 s.winUse j then some i else some j
    | none => some i

/-- LOAD at index `i` (R274, R276). -/
def winLoad (s : State) (i : Nat) : State :=
  let v := fget s F.winStg0_VPORT 0
  if !(stagedOk s) then winStatus s 1
  else if !(vpLive s v) || decide (quotaOf s v < (winOf s v (some i)).length + 1) then winStatus s 3
  else winBusy (winStatus (placeWin s i) 0)

/-- INSERT (R274, R276). -/
def winInsert (s : State) : State :=
  let v := fget s F.winStg0_VPORT 0
  if !(stagedOk s) then winStatus s 1
  else if !(vpLive s v) then winStatus s 3
  else
    let mine := winOf s v none
    let put (i : Nat) : State :=
      winBusy (winStatus (fput (placeWin s i) F.winCmd_INDEX 0 i) 0)
    if mine.length < quotaOf s v then
      match (upto 32768).find? (fun i => !(fbit s F.winA_V i)) with
      | some i => put i
      | none => winStatus s 2
    else
      match lruOf s (mine.filter (fun i => !(fbit s F.winA_L i))) with
      | some i => put i
      | none => winStatus s 2

/-- INVALIDATE at index `i`. -/
def winInvalidate (s : State) (i : Nat) : State := winBusy (winStatus (dropWin s i) 0)

/-- Every entry of a vport is removed, locked ones included. -/
def winInvalidateAll (s : State) (v : Nat) : State := (winOf s v none).foldl dropWin s

/-- A write of WIN_CMD; ignored while BUSY (R274–R277). -/
def winCommand (s : State) (v : Nat) : State :=
  if fbit s F.winCmd_BUSY 0 then s
  else
    let i := bitsOf v 46 32
    let s := if i < 32768 then fput s F.winCmd_INDEX 0 i else s
    let op := bitsOf v 3 0
    if op = 1 then winLoad s i
    else if op = 2 then winInsert s
    else if op = 3 then winInvalidate s i
    else if op = 4 then
      winBusy (winStatus (winInvalidateAll s (fget s F.winStg0_VPORT 0)) 0)
    else s

/-- LOAD (R276). -/
def execWinLoad (i : Fin 32768) (s : State) : Host.Outcome State Fault Refusal :=
  .next (winCommand s (i * 2 ^ 32 + 1))

/-- INSERT (R276). -/
def execWinInsert (s : State) : Host.Outcome State Fault Refusal :=
  .next (winCommand s (fget s F.winCmd_INDEX 0 * 2 ^ 32 + 2))

/-- INVALIDATE (R275, R276). -/
def execWinInvalidate (i : Fin 32768) (s : State) : Host.Outcome State Fault Refusal :=
  .next (winCommand s (i * 2 ^ 32 + 3))

/-- OP 0x4: every entry of WIN_STG0.VPORT, which the row names (R275). -/
def execWinInvalidateVport (v : Fin 4096) (s : State) : Host.Outcome State Fault Refusal :=
  if fbit s F.winCmd_BUSY 0 then .next s
  else .next (winCommand (fput s F.winStg0_VPORT 0 v) (fget s F.winCmd_INDEX 0 * 2 ^ 32 + 4))

/-- BUSY clears when the requests it waits for have been performed (R277). -/
def winProgress (s : State) : State := if fbit s F.winCmd_BUSY 0 then winBusy s else s

/-! Mailboxes. -/

/-- The difference of two 8-bit indices. -/
def idxDiff (p c : Nat) : Nat := (p + 256 - c) % 256

/-- An index event outside the rules of R283, or an unpaired MSG, is logged. -/
def logVport (s : State) (v why : Nat) : State :=
  logEv s { code := 0x62, cls := clsCorrected, kind := kVport, unit := v, d0 := why }

/-- The tenant's vector, and the manager's. -/
def raiseTenant (s : State) (v : Nat) : State :=
  raiseVec s (fget s F.vpInt_TCORE v) (fget s F.vpInt_TVEC v)
def raiseManager (s : State) (v : Nat) : State :=
  raiseVec s (fget s F.vpInt_MCORE v) (fget s F.vpInt_MVEC v)

/-- A written producer value: accepted if it leaves at most 16 slots in use; a change raises the
other side (R283). -/
def writeProducer (s : State) (v : Nat) (f g : FRef) (x : Nat) (raise : State → Nat → State) :
    State :=
  let p := fget s f v
  if x = p then s
  else if idxDiff x (fget s g v) ≤ 16 then
    raise (mon (fput s f v x) mMboxMsg v v (idxDiff x p)) v
  else logVport s v 0

/-- A written consumer value (R283). -/
def writeConsumer (s : State) (v : Nat) (f g : FRef) (x : Nat) (raise : State → Nat → State) :
    State :=
  if x = fget s f v then s
  else if idxDiff (fget s g v) x ≤ 16 then raise (fput s f v x) v
  else logVport s v 0

/-- A REMOTE vport stops for good (R284). -/
def breakVport (s : State) (v : Nat) : State := fput s F.vpStat_STATE v 3

/-- A REMOTE vport sends waiting slots while it has credits, at most `n` (R284): it reads each at its
home, and goes on when the line has come. The bytes of a poisoned slot are sent as they are (DESIGN
CHOICE, assumption 112). -/
def sendSlots (s : State) (v : Nat) : Nat → State
  | 0 => s
  | n + 1 =>
    match Tab.find s.vps v with
    | none => s
    | some p =>
      let c := fget s F.vpMdb_T2M_C v
      if !p.remote || decide (fget s F.vpStat_STATE v ≠ 1) || decide (c = fget s F.vpMdb_T2M_P v) ||
          decide (fget s F.vpStat_CRED v = 0) then s
      else if fget s F.tideFlowa_ROLE p.pflow ≠ 1 then breakVport s v
      else
        let l := (p.mbox + 0x400 + 64 * (c % 16)) / 64
        match devLine s l with
        | (none, s) => s
        | (some (d, _), s) =>
        let s := devDone s
        let m := { newMsg s p.pnode 0 opMsg false with
          flow := BitVec.ofNat 12 p.pflow, addr := BitVec.ofNat 52 p.pvport,
          stream := BitVec.ofNat 8 (fget s F.tideFlowa_STREAM p.pflow),
          data := lineGranules d }
        let s := (sendSeq s m).2
        let s := fput s F.vpStat_CRED v (fget s F.vpStat_CRED v - 1)
        sendSlots (raiseTenant (fput s F.vpMdb_T2M_C v ((c + 1) % 256)) v) v n

/-- A REMOTE vport returns one credit for each slot that its tenant has consumed (R284): a response to the MSG
that filled the slot, of its flow, stream and SSEQ (R225, R247). -/
def returnCredits (s : State) (v : Nat) : Nat → State
  | 0 => s
  | n + 1 =>
    match Tab.find s.vps v with
    | none => s
    | some p =>
      let q := Tab.get [] s.vmsgs v
      let (flow, stream, sseq) := q.headD (p.pflow, fget s F.tideFlowa_STREAM p.pflow, 0)
      let m := { newMsg s p.pnode 0 opCmp true with
        flow := BitVec.ofNat 12 flow, addr := BitVec.ofNat 52 p.pvport,
        stream := BitVec.ofNat 8 stream, sseq := BitVec.ofNat 16 sseq }
      returnCredits (emit { s with vmsgs := Tab.set s.vmsgs v (q.drop 1) } m) v n

/-- A MSG has filled a slot of vport `v`, whose credit is still to be returned (R284). -/
def noteMsg (s : State) (v : Nat) (m : Msg) : State :=
  let q := Tab.get [] s.vmsgs v ++ [(m.flow.toNat, m.stream.toNat, m.sseq.toNat)]
  { s with vmsgs := Tab.set s.vmsgs v q }

/-- Whether vport `v` is REMOTE and paired with node `n`. -/
def pairedWith (s : State) (v n : Nat) : Bool :=
  match Tab.find s.vps v with
  | some p => p.remote && decide (p.pnode = n) && decide (fget s F.vpStat_STATE v ≠ 0)
  | none => false

/-- A write of VP_MDB by the manager (R282, R283). -/
def writeVpMdb (s : State) (v x : Nat) : State :=
  let remote := fbit s F.vpStat_REM v
  let s := writeConsumer s v F.vpMdb_T2M_C F.vpMdb_T2M_P (bitsOf x 15 8) raiseTenant
  if remote then s
  else writeProducer s v F.vpMdb_M2T_P F.vpMdb_M2T_C (bitsOf x 7 0) raiseTenant

/-- VP_MDB_WRITE (R283). -/
def execVpMdbWrite (v : Fin 4096) (x : BitVec 32) (s : State) :
    Host.Outcome State Fault Refusal :=
  .next (writeVpMdb s v x.toNat)

/-- The vport that VT_DB at index `k` names for a VMID (R283). -/
def tenantVport (s : State) (vmid k : Nat) : Option Nat :=
  (s.vps.find? (fun e => decide (e.2.vmid = vmid) && decide (e.2.lidx = k) &&
    decide (fget s F.vpStat_STATE e.1 ≠ 0))).map (fun e => e.1)

/-- A write of VT_DB by the tenant (R282–R284). -/
def writeVtDb (s : State) (v x : Nat) : State :=
  let c := fget s F.vpMdb_M2T_C v
  let s := writeConsumer s v F.vpMdb_M2T_C F.vpMdb_M2T_P (bitsOf x 15 8) raiseManager
  let s := if fbit s F.vpStat_REM v then
      returnCredits s v (idxDiff (fget s F.vpMdb_M2T_C v) c) else s
  let s := writeProducer s v F.vpMdb_T2M_P F.vpMdb_T2M_C (bitsOf x 7 0) raiseManager
  sendSlots s v 16

/-- VT_DB_WRITE by core `c`; where no vport of its VM has the index, the port is unassigned (R283,
R25). -/
def execVtDbWrite (c : CoreNo) (k : Fin 16) (x : BitVec 32) (s : State) :
    Host.Outcome State Fault Refusal :=
  match tenantVport s (fget s F.vmid_VMID c) k with
  | some v => .next (writeVtDb s v x.toNat)
  | none => .next s

/-- What VT_DB reads: the indices of the vport from the tenant's side. -/
def vtDbRead (s : State) (v : Nat) : Nat :=
  fget s F.vpMdb_T2M_P v + fget s F.vpMdb_M2T_C v * 2 ^ 8 + fget s F.vpMdb_T2M_C v * 2 ^ 16 +
    fget s F.vpMdb_M2T_P v * 2 ^ 24

/-- A MSG arrives: a paired REMOTE vport takes it into its next manager-to-tenant slot; any other is
discarded and logged (R284). The index moves when the slot has been written (R182), and its dirty log
before (R285); until then the message waits, and later ones behind it. -/
def msgArrive (s : State) (m : Msg) : State :=
  let v := m.addr.toNat % 4096
  match Tab.find s.vps v, pairedWith s v m.src.toNat with
  | some p, true =>
    let i := fget s F.vpMdb_M2T_P v
    let a := p.mbox + 64 * (i % 16)
    if s.fab.deferred.any (fun x => x.op == m.op && decide (x.addr.toNat % 4096 = v)) then deferMsg s m
    else
      let (ok, s) := dirtyLog s v a (a / 64)
      if !ok then deferMsg s m
      else
        let (ok, s) := devTry s a (lineBytes (granulesLine m.data))
        if ok then raiseTenant (mon (fput (noteMsg s v m) F.vpMdb_M2T_P v ((i + 1) % 256)) mMboxMsg v v 1) v
        else deferMsg s m
  | _, _ => logVport s v 1

/-- MSG (R284). -/
def execMsg (m : Msg) (s : State) : Host.Outcome State Fault Refusal := .next (msgArrive s m)

/-- A credit comes back to a REMOTE vport (R284). -/
def creditArrive (s : State) (v : Nat) : State :=
  sendSlots (fput s F.vpStat_CRED v (min 16 (fget s F.vpStat_CRED v + 1))) v 16

end Sys2Proof.Machine
end

