-- ==== Sys2Proof/Machine/Coh.lean ====
section
/-! DEFINITION. Coherence with partners: the answers to this node's requests (R225, R236, R464), the
proxy's answers to snoops (R193, R201), snoop answers at the home, the requests of partners (R197,
R273), hold windows (R202), the reclaim of a dead partner (R207–R210) and liveness (R243–R245). -/

namespace Sys2Proof.Machine

/-! Answers to this node's requests. -/

/-- The key of a response in its core's check buffer. -/
def Tx.key (t : Tx) : Nat :=
  match t.who with
  | .line _ => storeKey (t.pa / 64)
  | .walk _ => walkKey (if t.msg.op.toNat = opAtom then t.pa else t.pa / 64)
  | _ => if t.msg.op.toNat = opAtom then t.pa else t.pa / 64

/-- The key of an access of a comet channel: reads, writes and atomics of one address are kept
apart. -/
def chanKeyOf (pa op : Nat) : Nat :=
  4 * pa + (if op = opWrLine then 1 else if op = opAtom then 2 else 0)

/-- The key of a response to a comet channel. -/
def Tx.chanKey (t : Tx) : Nat := chanKeyOf t.pa t.msg.op.toNat

/-- A response is put into the check buffer of core `c`. -/
def putGot (s : State) (c key : Nat) (k : Chk) : State :=
  modCore s c (fun x => { x with got := Tab.set x.got key k })

/-- The state of comet channel `n`. -/
def chan (s : State) (n : Nat) : Chan := Tab.get Chan.reset s.chans n

/-- The state with channel `n` replaced. -/
def setChan (s : State) (n : Nat) (k : Chan) : State :=
  { s with chans := Tab.set s.chans n k }

/-- What the next Capture-DR of the TAP returns: data and status (R460). -/
def setTap (s : State) (v st : Nat) : State :=
  { s with dev := { s.dev with tdo := v, dbgStatus := st, dbg := none } }

/-- The byte of its line that the TAP reads. -/
def tapByte (s : State) : Nat := ((s.dev.dbg.map (fun x => x.2.1)).getD 0) % 64

/-- The outcome of a request reaches whoever waits for it (R270, R271, R327). -/
def notify (s : State) (t : Tx) (k : Chk) : State :=
  let s := proxyDone s (t.pa / 64) t.waiter
  match t.who with
  | .load c => putGot s c t.key k
  | .fill c => putGot s c t.key k
  | .line c => putGot s c t.key k
  | .walk c => putGot s c t.key k
  | .comet n => setChan s n { chan s n with got := Tab.set (chan s n).got t.chanKey k }
  | .store c va wr =>
    (match k with
     | .nak r => latchErr s (Fin.ofNat 128 c)
         { timeout := false, retry := r, wr := wr, va := va, pa := t.pa }
     | .timeout => latchErr s (Fin.ofNat 128 c)
         { timeout := true, retry := false, wr := wr, va := va, pa := t.pa }
     | .value _ => s
     | .poison => s)
  | .dropped _ => s
  | .proxy => s
  | .row _ => s
  | .tap =>
    (match k with
     | .value v => setTap s ((v >>> (8 * tapByte s)) % 2 ^ 64) 0
     | .poison => setTap s 0 3
     | .nak _ => setTap s 0 2
     | .timeout => setTap s 0 2)

/-- The transaction that a response answers: TAG, stream, SSEQ and node agree (R236). -/
def txFor (s : State) (m : Msg) : Option Tx :=
  s.txs.find? (fun t => t.tag == m.tag.toNat && t.msg.sseq == m.sseq &&
    t.msg.stream == m.stream && t.msg.dst == m.src)

/-- The transaction has ended, and its tag is free. -/
def endTx (s : State) (t : Tx) : State := sendHeld { s with txs := s.txs.erase t }

/-- Line `l` of fabric memory is granted to core `c`, alone or shared, with its data if it came
(R194, R197); false where the snoop filter has no room yet (R200). -/
def fillLine (s : State) (l c : Nat) (right : Right) (own : Bool) (d : Option (Line × Bool))
    (dirty : Bool) : Bool × State :=
  let (ok, s) := if (lrec s l).inSf then (true, s) else evictSf s l
  if ok then
    let r := lrec s l
    let f := match r.fcore with
      | some f => some f
      | none => some c
    let (data, pois) := match d with
      | some (x, p) => (some x, p)
      | none => (r.data, r.dpois)
    (true, setLrec s l { r with
      present := if own then [c] else addNew r.present c,
      owner := if own then some c else none, fcore := if own then none else f,
      data := data, dpois := pois, dirty := dirty, right := right, hold := own })
  else (false, s)

/-- A grant ends its transaction, or waits for room in the snoop filter. -/
def grantLine (s : State) (t : Tx) (m : Msg) (right : Right) (own : Bool)
    (d : Option (Line × Bool)) (dirty : Bool) : State :=
  match t.who.core? with
  | none => endTx s t
  | some c =>
    let (ok, s') := fillLine (endTx s t) (t.pa / 64) c right own d dirty
    if ok then
      match t.who with
      | .row _ => proxyDone s' (t.pa / 64) t.waiter
      | _ => s'
    else deferMsg s m

/-- A DATA response (R225, R192): data for the requester, or a grant by STAT. -/
def dataArrive (s : State) (m : Msg) : State :=
  match txFor s m with
  | none => s
  | some t =>
    let op := t.msg.op.toNat
    let d := granulesLine m.data
    let val : Chk := if m.pois then .poison else .value d.toNat
    if op = opAtom then
      notify (endTx s t) t (if m.pois then .poison else .value ((m.data.getD 0 0).toNat))
    else if op = opRdCur then
      if t.fills then grantLine s t m .excl false (some (d, m.pois)) false
      else notify (endTx s t) t val
    else if op = opRdS then
      if m.stat = 6 then notify (endTx s t) t val
      else if m.stat = 5 then grantLine s t m .excl true (some (d, m.pois)) false
      else grantLine s t m .shared false (some (d, m.pois)) false
    else if op = opRdX ∨ op = opUpg then
      grantLine s t m .excl true (some (d, m.pois)) true
    else s

/-- A CMP (R225): UNCACHED or the grant of a UPG, a completion, or a credit of a REMOTE vport
(R284). -/
def cmpArrive (s : State) (m : Msg) : State :=
  match txFor s m with
  | some t =>
    let op := t.msg.op.toNat
    if op = opRdX ∨ op = opUpg then
      if m.stat = 6 then notify (endTx s t) t (.value 0)
      else if op = opUpg then grantLine s t m .excl true none true
      else s
    else if [opWrLine, opCinv, opCcln, opCfls].contains op then
      notify (endTx s t) t (.value 0)
    else s
  | none =>
    let v := m.addr.toNat % 4096
    if m.cls = 0 ∧ pairedWith s v m.src.toNat = true then creditArrive s v else s

/-- A NAK (R225): RETRY_BUSY makes the request wait for its resend; any other STAT ends it. -/
def nakArrive (s : State) (m : Msg) : State :=
  match txFor s m with
  | none => if m.stat = 4 then retryPosted s m else s
  | some t =>
    let s := mon s mFabricRefused t.reach (vportOfReach s t.reach) 1
    if m.stat = 4 then
      { s with txs := s.txs.map (fun x => if x = t then { t with busy := true } else x) }
    else notify (endTx s t) t (.nak (decide (m.stat = 1)))

/-- DATA (R225). -/
def execData (m : Msg) (s : State) : Host.Outcome State Fault Refusal := .next (dataArrive s m)

/-- CMP_RESPONSE (R225). -/
def execCmpResponse (m : Msg) (s : State) : Host.Outcome State Fault Refusal :=
  .next (cmpArrive s m)

/-- NAK (R225). -/
def execNak (m : Msg) (s : State) : Host.Outcome State Fault Refusal := .next (nakArrive s m)

/-- A request ends with FABRIC_TIMEOUT (R464). -/
def timeoutTx (s : State) (t : Tx) : State :=
  let s := mon s mFabricRefused t.reach (vportOfReach s t.reach) 1
  notify (endTx s t) t .timeout

/-- FABRIC_TIMEOUT: 1 ms without a response (R464). -/
def execFabricTimeout (tag : BitVec 14) (s : State) : Host.Outcome State Fault Refusal :=
  match s.txs.find? (fun t => t.tag == tag.toNat) with
  | some t => .next (timeoutTx s t)
  | none => .next s

/-- RETRY_BUSY_RESEND: the same request is sent again (R225). -/
def execRetryBusyResend (tag : BitVec 14) (s : State) : Host.Outcome State Fault Refusal :=
  match s.txs.find? (fun t => t.tag == tag.toNat && t.busy) with
  | some t =>
    .next (emit { s with txs := s.txs.map (fun x => if x = t then { t with busy := false } else x) }
      t.msg)
  | none => .next s

/-! Snoops that reach this node's proxy. -/

/-- The fabric line that this node holds and that the home on node `h` knows by address `ra`. -/
def fabLine (s : State) (h ra : Nat) : Option Nat :=
  (s.lines.find? (fun e => decide (2 ^ 51 ≤ 64 * e.1) && decide (e.2.right ≠ .none) &&
    (match heldReach s (64 * e.1) with
     | some i => decide (fget s F.reachB_NODE i = h) &&
         decide (remoteAddr s i (64 * e.1) / 64 = ra / 64)
     | none => false))).map (fun e => e.1)

/-- The answer to a snoop, with data where there is any. -/
def snpr (s : State) (m : Msg) (stat : Nat) (d : Option (Line × Bool)) : State :=
  respond s m.src.toNat m.tag.toNat m.stream.toNat m.sseq.toNat m.cls.toNat m.flow.toNat
    opSnpr stat
    (d.any (fun x => x.2)) ((d.map (fun x => lineGranules x.1)).getD [])

/-- The modified data that this node holds of a line, and whether it is poison. -/
def modified (s : State) (l : Nat) : Option (Line × Bool) :=
  if (lrec s l).dirty then (lrec s l).data.map (fun d => (d, (poisonOf s l).isSome)) else none

/-- Every copy of fabric line `l` on this node is dropped. -/
def dropFab (s : State) (l : Nat) : State := setLrec s l LineRec.none

/-- Whether this node's own CINV, CFLS or ATOM on line `l` is outstanding: no hold window of this node
defers the recall that it causes, an RCL_I (R197, R202). -/
def ownWants (s : State) (k : SnoopKind) (l : Nat) : Bool :=
  decide (k = .rclI) &&
    s.txs.any (fun t => decide (t.pa / 64 = l) && [opCinv, opCfls, opAtom].contains t.msg.op.toNat)

/-- The proxy answers a snoop with its current holding (R201), unless a hold window defers it, which
HOLD_DEFER counts once (`again`: it has been deferred before). -/
def proxySnoop (s : State) (k : SnoopKind) (m : Msg) (again : Bool) : State :=
  match fabLine s m.src.toNat m.addr.toNat with
  | none => snpr s m 3 none
  | some l =>
    let r := lrec s l
    if r.hold && !(ownWants s k l) then
      let v := ((heldReach s (64 * l)).map (vportOfReach s)).getD 0
      if again then deferMsg s m else mon (deferMsg s m) mHoldDefer (sliceOf (64 * l)) v 1
    else
      let s := snpr s m 0 (modified s l)
      match k with
      | .rclS =>
        let f := match r.owner with
          | some o => some o
          | none => r.fcore
        setLrec s l { r with right := .shared, owner := none, fcore := f, dirty := false }
      | .rclI => dropFab s l
      | .binv => dropFab s l
      | .snpCur => s
      | .snpCln => setLrec s l { r with dirty := false }

/-- RCL_S (R201). -/
def execRclS (m : Msg) (s : State) : Host.Outcome State Fault Refusal := .next (proxySnoop s .rclS m false)

/-- RCL_I (R201). -/
def execRclI (m : Msg) (s : State) : Host.Outcome State Fault Refusal := .next (proxySnoop s .rclI m false)

/-- BINV (R200). -/
def execBinv (m : Msg) (s : State) : Host.Outcome State Fault Refusal := .next (proxySnoop s .binv m false)

/-- SNP_CUR (R197, R225). -/
def execSnpCur (m : Msg) (s : State) : Host.Outcome State Fault Refusal :=
  .next (proxySnoop s .snpCur m false)

/-- SNP_CLN (R197, R225). -/
def execSnpCln (m : Msg) (s : State) : Host.Outcome State Fault Refusal :=
  .next (proxySnoop s .snpCln m false)

/-! Snoop answers at the home. -/

/-- The partner owner of line `l`, if it is node `n`. -/
def ownerAt (s : State) (l n : Nat) : Option Partner :=
  match (lrec s l).powner with
  | some (p, _) => if p.node = n then some p else none
  | none => none

/-- The dirty log takes the write that the data of the owner `own` causes; false where it must wait
(R285). -/
def logBack (s : State) (l : Nat) (own : Option Partner) (data : Bool) : Bool × State :=
  match own with
  | some p => if data && decide (p.vport ≠ 0) then dirtyLog s p.vport (64 * l) l else (true, s)
  | none => (true, s)

/-- Modified data of a partner is written at the home (R197, R209); its dirty log has been set. -/
def takeBack (s : State) (l : Nat) (d : Option (Line × Bool)) : State :=
  match d with
  | some (x, p) => homeWrite s l x p
  | none => s

/-- The first waiting request of a line takes a partner's answer. -/
def noteSnooped (l : Nat) (x : Nat × Option (Line × Bool)) : List HomeReq → List HomeReq
  | [] => []
  | q :: qs =>
    if q.line = l then { q with snooped := q.snooped ++ [x] } :: qs else q :: noteSnooped l x qs

/-- The answer of partner `n` to a snoop takes effect (R197, R201). -/
def snoopDone (s : State) (x : Snoop) (n : Nat) (d : Option (Line × Bool)) : State :=
  let l := x.line
  let s := { s with snoops := s.snoops.erase x }
  let own := ownerAt s l n
  match x.kind with
  | .rclS =>
    let s := takeBack s l d
    let r := lrec s l
    (match own with
     | some p => setLrec s l { r with powner := none, partners := r.partners ++ [p] }
     | none => s)
  | .snpCur => { s with homeQ := noteSnooped l (n, d) s.homeQ }
  | .snpCln => { s with homeQ := noteSnooped l (n, d) s.homeQ }
  | .rclI | .binv =>
    let s := takeBack s l d
    let r := lrec s l
    setLrec s l { r with powner := if own.isSome then none else r.powner,
                         partners := r.partners.filter (fun p => p.node ≠ n) }

/-- A snoop answer arrives: the first one counts (R201). An owner's NO_COPY leaves the line to its WB
or EVC, which is on its way. -/
def snprArrive (s : State) (m : Msg) : State :=
  let n := m.src.toNat
  match s.snoops.find? (fun x => x.tag == m.tag.toNat && x.node == n &&
      x.sseqs.contains m.sseq.toNat) with
  | none => s
  | some x =>
    let own := ownerAt s x.line n
    if m.stat = 3 ∧ own.isSome then s
    else
      let d := if m.data.length = 4 then some (granulesLine m.data, m.pois) else none
      let writes := match x.kind with
        | .rclS | .rclI | .binv => d.isSome
        | .snpCur | .snpCln => false
      let (ok, s) := logBack s x.line own writes
      if ok then pumpAll (snoopDone s x n d) else deferMsg s m

/-- SNPR (R201). -/
def execSnpr (m : Msg) (s : State) : Host.Outcome State Fault Refusal := .next (snprArrive s m)

/-- SNOOP_RESEND: a snoop is sent again as a new message with the next SSEQ (R201). -/
def execSnoopResend (addr : LineAddr) (n : NodeId) (s : State) : Host.Outcome State Fault Refusal :=
  match s.snoops.find? (fun x => x.line == addr.toNat && x.node == n.toNat) with
  | none => .next s
  | some x =>
    let (m, s) := sendSeq s { newMsg s x.node 1 x.kind.op true with
      tag := BitVec.ofNat 14 x.tag, stream := 0xF0#8, addr := BitVec.ofNat 52 x.ra }
    let y := { x with sseqs := x.sseqs ++ [m.sseq.toNat] }
    .next { s with snoops := s.snoops.map (fun z => if z = x then y else z) }

/-- PARTNER_SLOW: a snoop has had no answer for 100 µs (R201). -/
def execPartnerSlow (addr : LineAddr) (n : NodeId) (s : State) : Host.Outcome State Fault Refusal :=
  if s.snoops.any (fun x => x.line == addr.toNat && x.node == n.toNat) then
    .next (logEv s { code := 0x21, cls := clsCorrected, kind := kSlice,
                     unit := sliceOf (64 * addr.toNat), node := n.toNat, addr := 64 * addr.toNat })
  else .next s

/-! Requests of partners. -/

/-- The line that the home records for partner `n` under its address `ra`. -/
def lineOfPartner (s : State) (n ra : Nat) : Option Nat :=
  let hit (p : Partner) : Bool := decide (p.node = n) && decide (p.ra / 64 = ra / 64)
  (s.lines.find? (fun e => e.2.partners.any hit || e.2.powner.any (fun x => hit x.1))).map
    (fun e => e.1)

/-- The atomic of an ATOM message (R224, R225); none for a reserved SUB. -/
def msgAtom (m : Msg) : Option AtomOp :=
  let g := m.data.getD 0 0
  let lo : Word := g.setWidth 64
  if m.sub = 0 then some (.add lo)
  else if m.sub = 1 then some (.swap lo)
  else if m.sub = 2 then some (.cas (g.extractLsb' 64 64) lo)
  else if m.sub = 3 then some (.cas16 (m.data.getD 1 0) g)
  else none

/-- The home request that a message makes; none where it is none of R197's. -/
def msgReq (m : Msg) : Option HReq :=
  let op := m.op.toNat
  if op = opRdS then some (.rdS m.spec)
  else if op = opRdX then some .rdX
  else if op = opUpg then some .upg
  else if op = opRdCur then some .rdCur
  else if op = opWrLine then
    some (.wrLine ((m.data.getD 0 0).setWidth 64) (granulesLine (m.data.drop 1)) m.pois)
  else if op = opAtom then (msgAtom m).map (.atom (m.addr.toNat % 64 / 8 * 8))
  else if op = opCinv then some .cinv
  else if op = opCcln then some .ccln
  else if op = opCfls then some .cfls
  else none

/-- The requester that a message names. -/
def msgWho (m : Msg) : Requester := .node m.src m.tag m.stream m.sseq m.cls

/-- The node serves 16,384 inbound transactions at a time (R17). -/
def inboundFull (s : State) : Bool :=
  decide (16384 ≤ (s.homeQ.filter (fun q => q.who.node?.isSome)).length)

/-- Whether a request of a partner would now be answered RETRY_BUSY: its window belongs to a frozen
vport (R286), or 16,384 requests of partners wait (DESIGN CHOICE, assumption 110). -/
def busyAt (s : State) (m : Msg) : Bool :=
  inboundFull s ||
  match findWindow s m.src.toNat m.addr.toNat with
  | some i => vportHeld s (fget s F.winA_VPORT i)
  | none => false

/-- A WB or EVC of a partner; one for a line not recorded for it is stale (R197). -/
def nodeEvict (s : State) (m : Msg) : State :=
  let d := if m.op.toNat = opWb then some (granulesLine m.data, m.pois) else none
  match lineOfPartner s m.src.toNat m.addr.toNat with
  | some l =>
    let (ok, s) := logBack s l (ownerAt s l m.src.toNat) d.isSome
    if ok then pumpAll (homeEvict s (msgWho m) l d) else deferMsg s m
  | none => logDiscard s m.src.toNat 4

/-! Hold windows. -/

/-- A deferred message is served. -/
def redeliver (s : State) (m : Msg) : State :=
  let op := m.op.toNat
  if op = opRclS then proxySnoop s .rclS m true
  else if op = opRclI then proxySnoop s .rclI m true
  else if op = opBinv then proxySnoop s .binv m true
  else if op = opSnpCur then proxySnoop s .snpCur m true
  else if op = opSnpCln then proxySnoop s .snpCln m true
  else if op = opData then dataArrive s m
  else if op = opSnpr then snprArrive s m
  else if op = opWb ∨ op = opEvc then nodeEvict s m
  else if op = opMsg then msgArrive s m
  else cmpArrive s m

/-- Every deferred message is tried again, in its order of arrival. -/
def retryDeferred (s : State) : State :=
  let ms := s.fab.deferred
  ms.foldl redeliver { s with fab := { s.fab with deferred := [] } }

/-- The winner of a line performs its buffered stores before its hold window ends (R203). -/
def performOwn (s : State) (c : Nat) : State :=
  match drainSb (Fin.ofNat 128 c) s with
  | .ok _ t => t
  | .error _ t => t

/-- The hold window of line `l` ends, and what it deferred is served. -/
def endHold (s : State) (l : Nat) : State :=
  let s := { s with lines := Tab.set s.lines l { lrec s l with hold := false, due := false } }
  pumpAll (retryDeferred s)

/-- HOLD_WINDOW_END (R202, R203): the winner performs the oldest of its accesses that wait on the line
first, a buffered store at once, and that of an instruction that waits when the core next runs it. -/
def execHoldWindowEnd (addr : LineAddr) (s : State) : Host.Outcome State Fault Refusal :=
  let l := addr.toNat
  let r := lrec s l
  if r.hold then
    match r.owner with
    | some c =>
      let s := performOwn s c
      let k := coreOf s c
      if k.wait.isSome && k.active && (Tab.find s.moves c).isNone then
        .next { s with lines := Tab.set s.lines l { lrec s l with due := true } }
      else .next (endHold s l)
    | none => .next (endHold s l)
  else .next s

/-- The hold windows whose end has waited for their winner end. -/
def endDue (s : State) : State :=
  ((s.lines.filter (fun e => e.2.due)).map (fun e => e.1)).foldl endHold s

/-! Requests of partners by their windows. -/

/-- A request of a partner (R273): window, rights, and the home of its local address. -/
def nodeRequest (s : State) (m : Msg) : State :=
  let n := m.src.toNat
  let op := m.op.toNat
  let ra := m.addr.toNat
  if op = opWb ∨ op = opEvc then nodeEvict s m
  else
    match msgReq m with
    | none => logDiscard s n 2
    | some req =>
      match findWindow s n ra with
      | none => windowMiss s m
      | some i =>
        let v := fget s F.winA_VPORT i
        if (opCoh op && !(fbit s F.winA_C i)) || (opNeedR op && !(fbit s F.winA_R i)) ||
            (opNeedW op && !(fbit s F.winA_W i)) then nak s m 2
        else if vportHeld s v || inboundFull s then nak s m 4
        else
          let s := mon { s with winUse := Tab.set s.winUse i s.stamp, stamp := s.stamp + 1 }
            mWindowHit i v 1
          arrive s { who := .req (msgWho m), line := winLocal s i ra / 64, ra := ra / 64 * 64,
                     req := req, snooped := [], vport := v, flow := m.flow.toNat, win := some i }

/-- The message of a request row whose requester is a partner. -/
def rowMsg (s : State) (n : NodeId) (tag : BitVec 14) (stream : BitVec 8) (sseq : BitVec 16)
    (cls : BitVec 2) (op addr : Nat) (data : List (BitVec 128)) : Msg :=
  { newMsg s (selfId s) cls.toNat op false with
    src := n, tag := tag, stream := stream, sseq := sseq, addr := BitVec.ofNat 52 addr,
    data := data }

/-- Core `c` asks for line `l` through its proxy slice or its home, with no instruction waiting. A
speculative read leaves the node only through a coherent reach that is not marked no-speculate, and
carries its mark (R110). -/
def coreRow (s : State) (c : CoreNo) (l : Nat) (x spec : Bool) : State :=
  match region s (64 * l) with
  | .fabric i =>
    if reachCoh s i && !(spec && reachNoSpec s i) && (reachRefuses s i (fun _ => true)).isNone then
      match acqFab c i l x (.row c) spec s with
      | .ok _ t => t
      | .error _ t => t
    else s
  | .absent => s
  | .dram => askLine s c l x spec
  | .spd => askLine s c l x spec
  | .secure => if secureDenied s (plOf s c) (64 * l) then s else askLine s c l x spec

/-- A core's own request that waits at a proxy slice is tried again; one whose reach has gone is dropped. -/
def retryRow (s : State) (e : Nat × Nat) : State :=
  if e.2 < 256 then s
  else
    let drop := proxyDone s e.1 (some e.2)
    match region s (64 * e.1) with
    | .fabric i =>
      if reachCoh s i && (reachRefuses s i (fun _ => true)).isNone then
        let c : CoreNo := Fin.ofNat 128 e.2
        match acqFab c i e.1 (decide (e.2 / 128 = 3)) (.row c) (decide (e.2 / 128 = 4)) s with
        | .ok _ t => t
        | .error _ t => t
      else drop
    | _ => drop

/-- Every request of a core that no instruction waits for is tried again, in their order (R203). -/
def retryRows (s : State) : State := s.proxyQ.foldl retryRow s

/-- Whether the policy keeps a requester of this node from the secure part: a core below SLVL, and a channel
unless it is privileged and PCMT is set; the part of the moon cores is for neither (R308, R365). -/
def whoDenied (s : State) (who : Requester) (pa : Nat) : Bool :=
  match who with
  | .core c => secureDenied s (plOf s c) pa
  | .comet n => moonPart pa || !(decide (n.val < 64) && fbit s F.spdPolicy_PCMT 0)
  | .node .. => true

/-- A request to an address that does not exist for its requester: one that would write is discarded and
logged (R23). -/
def goneRow (s : State) (who : Requester) (pa : Nat) (req : HReq) : State :=
  match req, who with
  | .rdCur, _ => s
  | _, .core c => logAccess s kCore c pa 0
  | _, .comet n => logAccess s kComet n pa 0
  | _, .node .. => s

/-- A request of this node for which no instruction waits: at the home of a local line, or through
the reach of a fabric line, in the class of its requester (R247). -/
def localRow (s : State) (who : Requester) (l pa op : Nat) (req : HReq) (data : List (BitVec 128))
    (sub : Nat) : State :=
  let home (s : State) : State :=
    arrive s { who := .req who, line := l, ra := 64 * l, req := req, snooped := [], wants := false }
  match region s (64 * l) with
  | .fabric i =>
    if (reachRefuses s i (fun _ => true)).isNone then
      match who with
      | .core c => sendReq s (.row c) i pa op false data sub false
      | .comet n => sendReq s (.dropped n) i pa op false data sub false
      | .node .. => s
    else s
  | .absent => goneRow s who pa req
  | .secure => if whoDenied s who pa then goneRow s who pa req else home s
  | _ => home s

/-- The core of a requester. -/
def reqCore : Requester → Option CoreNo
  | .core c => some c
  | _ => none

/-- A request row that obtains a copy (R197). A comet channel obtains none (R195). -/
def copyRow (r : Requester) (addr : LineAddr) (op : Nat) (x spec : Bool) (s : State) : State :=
  match r with
  | .core c => coreRow s c addr.toNat x spec
  | .comet _ => s
  | .node n tag stream sseq cls =>
    nodeRequest s { rowMsg s n tag stream sseq cls op (64 * addr.toNat) [] with spec := spec }

/-- A request row that obtains no copy (R197). -/
def plainRow (r : Requester) (pa op : Nat) (req : HReq) (data : List (BitVec 128)) (sub : Nat)
    (s : State) : State :=
  match r with
  | .node n tag stream sseq cls =>
    nodeRequest s { rowMsg s n tag stream sseq cls op pa data with sub := BitVec.ofNat 4 sub }
  | .core _ => localRow s r (pa / 64) pa op req data sub
  | .comet _ => localRow s r (pa / 64) pa op req data sub

/-- RD_S (R197). -/
def execRdS (r : Requester) (addr : LineAddr) (spec : Bool) (s : State) :
    Host.Outcome State Fault Refusal := .next (copyRow r addr opRdS false spec s)

/-- RD_X (R197). -/
def execRdX (r : Requester) (addr : LineAddr) (s : State) : Host.Outcome State Fault Refusal :=
  .next (copyRow r addr opRdX true false s)

/-- UPG (R197); a requester that is no longer a sharer is served as RD_X. -/
def execUpg (r : Requester) (addr : LineAddr) (s : State) : Host.Outcome State Fault Refusal :=
  .next (copyRow r addr opUpg true false s)

/-- A core's line of fabric memory leaves it; the node's last copy goes back to its home (R196). -/
def fabEvict (s : State) (c l : Nat) (d : Option Line) : State :=
  let r := lrec s l
  if c ∈ r.present then
    let data := if r.owner = some c then d.or r.data else r.data
    let left := r.present.filter (fun x => x ≠ c)
    if left.isEmpty then
      let s := match heldReach s (64 * l), data with
        | some i, some x =>
          let p := (poisonOf s l).isSome
          let wb := r.dirty || d.isSome
          if reachCoh s i then
            if wb then sendEvict s i (64 * l) opWb (lineGranules x) p
            else sendEvict s i (64 * l) opEvc [] false
          else if wb then
            sendReq s .proxy i (64 * l) opWrLine false
              (wrLineGranules (BitVec.allOnes 64) x) 0 p
          else s
        | _, _ => s
      dropFab s l
    else
      setLrec s l { r with present := left, data := data,
                           owner := if r.owner = some c then none else r.owner,
                           fcore := if r.fcore = some c then none else r.fcore,
                           hold := r.hold && decide (r.owner ≠ some c) }
  else s

/-- A WB or EVC row (R196, R197). -/
def evictRow (r : Requester) (addr : LineAddr) (d : Option Line) (s : State) : State :=
  let l := addr.toNat
  match r with
  | .core c =>
    let own := if (lrec s l).owner = some c.val ∧ (lrec s l).dirty then (lrec s l).data else none
    if 64 * l < 2 ^ 51 then homeEvict s r l ((d.or own).map (fun x => (x, false)))
    else fabEvict s c l d
  | .comet _ => s
  | .node n tag stream sseq cls =>
    nodeEvict s (rowMsg s n tag stream sseq cls (if d.isSome then opWb else opEvc) (64 * l)
      ((d.map lineGranules).getD []))

/-- WB (R197). -/
def execWb (r : Requester) (addr : LineAddr) (data : Line) (s : State) :
    Host.Outcome State Fault Refusal := .next (evictRow r addr (some data) s)

/-- EVC (R197); a line that the core holds modified leaves with its data. -/
def execEvc (r : Requester) (addr : LineAddr) (s : State) : Host.Outcome State Fault Refusal :=
  .next (evictRow r addr none s)

/-- RD_CUR (R197). -/
def execRdCur (r : Requester) (addr : LineAddr) (s : State) : Host.Outcome State Fault Refusal :=
  .next (plainRow r (64 * addr.toNat) opRdCur .rdCur [] 0 s)

/-- WR_LINE (R197). -/
def execWrLine (r : Requester) (addr : LineAddr) (mask : BitVec 64) (data : Line) (s : State) :
    Host.Outcome State Fault Refusal :=
  .next (plainRow r (64 * addr.toNat) opWrLine (.wrLine mask data false)
    (wrLineGranules mask data) 0 s)

/-- ATOM (R197, R204). -/
def execAtom (r : Requester) (addr : Word) (op : AtomOp) (s : State) :
    Host.Outcome State Fault Refusal :=
  let pa := addr.toNat % 2 ^ 52
  let (d, sub) := atomGranules op
  .next (plainRow r pa opAtom (.atom (pa % 64 / 8 * 8) op) d sub s)

/-- CINV at the home (R197). -/
def execHomeCinv (r : Requester) (addr : LineAddr) (s : State) : Host.Outcome State Fault Refusal :=
  .next (plainRow r (64 * addr.toNat) opCinv .cinv [] 0 s)

/-- CCLN at the home (R197). -/
def execHomeCcln (r : Requester) (addr : LineAddr) (s : State) : Host.Outcome State Fault Refusal :=
  .next (plainRow r (64 * addr.toNat) opCcln .ccln [] 0 s)

/-- CFLS at the home (R197). -/
def execHomeCfls (r : Requester) (addr : LineAddr) (s : State) : Host.Outcome State Fault Refusal :=
  .next (plainRow r (64 * addr.toNat) opCfls .cfls [] 0 s)

end Sys2Proof.Machine
end

