-- ==== Sys2Proof/Machine/Reclaim.lean ====
section
/-! DEFINITION. The reclaim of a dead or reset partner (R207–R210) and liveness (R243–R245). -/

namespace Sys2Proof.Machine

/-! The list of lost lines (R209, R210). -/

/-- Number of entries of the list. -/
def rclSize (s : State) : Nat := 2 ^ (fget s F.fltRclRing_SIZE 0 + 9)

/-- Whether the list takes an entry: not full, and wholly in visible local DRAM. -/
def rclRoom (s : State) : Bool :=
  decide ((fget s F.fltRclIdx_WIDX 0 + 2 ^ 32 - fget s F.fltRclIdx_RIDX 0) % 2 ^ 32 ≠ rclSize s) &&
    decide (fget s F.fltRclRing_BASE 0 * 4096 + 8 * rclSize s ≤ visTop s)

/-- Writes the waiting entries of the running reclaim, oldest first; at most `n`. -/
def writeRcl (s : State) : Nat → State
  | 0 => s
  | n + 1 =>
    match s.reclaims with
    | [] => s
    | r :: rs =>
      match r.todo with
      | [] => s
      | e :: es =>
        let rest (s : State) : State := { s with reclaims := { r with todo := es } :: rs }
        if !(fbit s F.fltRclRing_EN 0) then writeRcl (rest s) n
        else if !(rclRoom s) then writeRcl (fput (rest s) F.fltRclStat_OVF 0 1) n
        else
          let w := fget s F.fltRclIdx_WIDX 0
          let (ok, t) := devTry s (fget s F.fltRclRing_BASE 0 * 4096 + w % rclSize s * 8)
            (natLe e 8)
          if ok then writeRcl (fput (rest t) F.fltRclIdx_WIDX 0 (w + 1)) n else t

/-- Writes what can be written of the list. -/
def flushRcl (s : State) : State :=
  match s.reclaims with
  | [] => s
  | r :: _ => writeRcl s r.todo.length

/-! The scans. -/

/-- The running reclaim changed by `f`. -/
def modRcl (s : State) (f : Reclaim → Reclaim) : State :=
  match s.reclaims with
  | [] => s
  | r :: rs => { s with reclaims := f r :: rs }

/-- Step 3 of R207 on one line: node `n` leaves its record; a line it held X-R or X-W is poisoned as
LOST and listed. -/
def scanHome (s : State) (n l : Nat) : State :=
  let r := lrec s l
  match r.powner with
  | some (p, w) =>
    if p.node = n then
      let s := setLrec s l { r with powner := none, msc := none, mpois := none, data := none,
                                    dpois := false, dirty := false }
      modRcl (writePoison s l .lost) (fun x =>
        { x with poisoned := x.poisoned + 1, todo := x.todo ++ [64 * l + b2n w] })
    else s
  | none =>
    if r.partners.any (fun p => p.node == n) then
      modRcl (setLrec s l { r with partners := r.partners.filter (fun p => p.node ≠ n) })
        (fun x => { x with dropped := x.dropped + 1 })
    else s

/-- Step 4 of R207 on one line of fabric memory: the copy of a line of node `n` is dropped. -/
def scanProxy (s : State) (n l : Nat) : State :=
  let r := lrec s l
  let his := match heldReach s (64 * l) with
    | some i => decide (fget s F.reachB_NODE i = n)
    | none => false
  if his && decide (r.right ≠ .none) then
    modRcl (dropFab s l) (fun x =>
      if r.dirty then { x with discarded := x.discarded + 1 }
      else { x with dropped := x.dropped + 1 })
  else s

/-- Every slice scans its directories for node `n`. -/
def scanLines (s : State) (n : Nat) : State :=
  (s.lines.map (fun e => e.1)).foldl (fun s l =>
    if 64 * l < 2 ^ 51 then scanHome s n l else scanProxy s n l) s

/-- The REMOTE vports paired with a dead node stop (R284). -/
def breakPaired (s : State) (n : Nat) : State :=
  (s.vps.map (fun e => e.1)).foldl (fun s v => if pairedWith s v n then breakVport s v else s) s

/-- Every request to node `n` ends with FABRIC_TIMEOUT (R207, R464). -/
def timeoutAll (s : State) (n : Nat) : State :=
  (s.txs.filter (fun t => t.msg.dst.toNat = n)).foldl timeoutTx s

/-- What node `n` has in progress here is forgotten: queued requests, held messages, snoops to it,
and its ordering state (R207). -/
def forgetNode (s : State) (n : Nat) : State :=
  let fromN (m : Msg) : Bool := decide (m.src.toNat = n)
  let fab := s.fab
  { s with
    homeQ := s.homeQ.filter (fun q => q.who.node? ≠ some n),
    snoops := s.snoops.filter (fun x => x.node ≠ n),
    fab := { fab with order := fab.order.filter (fun e => e.1.1 ≠ n),
                      gaps := fab.gaps.filter (fun m => !(fromN m)),
                      deferred := fab.deferred.filter (fun m => !(fromN m)) } }

/-- The reclaim at the head of the queue begins (R207, R208). One that R243 did not start makes the
node DEAD. -/
def beginReclaim (s : State) : State :=
  match s.reclaims with
  | [] => s
  | r :: _ =>
    let n := r.node
    let s := fput (fput (fput s F.fltRclStat_LOST 0 0) F.fltRclStat_NODE 0 n) F.fltRclStat_BUSY 0 1
    let s := fput s F.nodeEnt_PEPOCH n (fget s F.nodeEnt_PEPOCH n + 1)
    let s := if r.epoch.isNone then breakPaired (fput s F.nodeEnt_LIVE n 3) n else s
    let s := scanLines (timeoutAll (forgetNode s n) n) n
    let s := match s.reclaims with
      | r :: _ => fput s F.fltRclStat_LOST 0 r.poisoned
      | [] => s
    flushRcl (pumpAll s)

/-- A reclaim of node `n` starts; reclaims run one at a time (R208). -/
def startReclaim (s : State) (n : Nat) (epoch : Option Nat) (cmds : List Command) : State :=
  let first := s.reclaims.isEmpty
  let r : Reclaim := { node := n, epoch := epoch, poisoned := 0, todo := [], dropped := 0,
                       discarded := 0, cmds := cmds }
  let s := { s with reclaims := s.reclaims ++ [r] }
  if first then beginReclaim s else s

/-- The running reclaim ends (R207 step 5, R243): status, interrupt and record; the next one begins. -/
def endReclaim (s : State) (r : Reclaim) : State :=
  let s := { s with reclaims := s.reclaims.drop 1 }
  let s := fput (fput s F.fltRclStat_DONE 0 1) F.fltRclStat_BUSY 0 0
  let s := raiseVec s (fget s F.fltRclInt_TARGET 0) (fget s F.fltRclInt_VECTOR 0)
  let s := logEv s { code := 0x22, cls := if 0 < r.poisoned then clsContained else clsRecovered,
                     kind := kDevice, node := r.node, d0 := r.poisoned, d1 := r.dropped,
                     d2 := r.discarded }
  let s := match r.epoch with
    | some e => fput (fput s F.nodeEnt_PEPOCH r.node e) F.nodeEnt_LIVE r.node 1
    | none => s
  beginReclaim s

/-! Liveness. -/

/-- Whether a request or snoop to node `n` is outstanding (R244). -/
def waitsFor (s : State) (n : Nat) : Bool :=
  s.txs.any (fun t => t.msg.dst.toNat == n) || s.snoops.any (fun x => x.node == n)

/-- PROBEs sent to node `n` without an answer. -/
def probesTo (s : State) (n : Nat) : Nat := Tab.get 0 s.fab.probes n

/-- A PROBE leaves, by PRI and ALT in turn (R244). -/
def sendProbe (s : State) (n : Nat) : State :=
  let k := probesTo s n
  let (m, s) := withSseq s { newMsg s n 3 opProbe false with stream := 0xFD#8 }
  let s := keepPosted s m
  let s := { s with fab := { s.fab with probes := Tab.set s.fab.probes n (k + 1) } }
  let alt := fget s F.nodeEnt_ALT n
  let f : Flit := { cls := 3, vc := false, alt := false, dst := n, src := m.src.toNat,
                    sepoch := m.sepoch.toNat, hops := 0, flow := 0, payload := msgGranules m }
  if k % 2 = 1 ∧ fbit s F.nodeEnt_AV n ∧ portUp s alt then
    enqueue s alt { flit := { f with alt := true }, src := none, tide := false }
  else routeFlit s { flit := f, src := none, tide := false } none

/-- A flit of node `n` has been accepted: the node is ALIVE (R243, R244). -/
def heardFrom (s : State) (n : Nat) : State :=
  let s := { s with fab := { s.fab with heard := Tab.set s.fab.heard n (tbOf s),
                                        probes := Tab.erase s.fab.probes n } }
  if fget s F.nodeEnt_LIVE n = 2 then fput s F.nodeEnt_LIVE n 1 else s

/-- SUSPECT: SILENCE has passed with a request outstanding (R244). -/
def execSuspect (n : NodeId) (s : State) : Host.Outcome State Fault Refusal :=
  let n := n.toNat
  if fget s F.nodeEnt_LIVE n = 1 ∧ waitsFor s n then
    .next (sendProbe (fput s F.nodeEnt_LIVE n 2) n)
  else .next s

/-- PROBE_INTERVAL: the next PROBE, or DEAD after NPROBE without an answer (R244). -/
def execProbeInterval (n : NodeId) (s : State) : Host.Outcome State Fault Refusal :=
  let n := n.toNat
  if fget s F.nodeEnt_LIVE n = 2 then
    if fget s F.nodeLctl_NPROBE 0 ≤ probesTo s n then
      let s := logEv (breakPaired (fput s F.nodeEnt_LIVE n 3) n)
        { code := 0x45, cls := clsRecovered, kind := kDevice, node := n }
      .next (if s.reclaims.any (fun r => r.node == n) then s else startReclaim s n none [])
    else .next (sendProbe s n)
  else .next s

/-- PROBE is answered by the switch wherever it forwards (R245). -/
def probeArrive (s : State) (m : Msg) : State :=
  if switchOn s ∧ selfId s ≠ 0xFFFF then
    respond s m.src.toNat m.tag.toNat m.stream.toNat m.sseq.toNat 3 0 opProbeR 0 false []
  else s

/-- PROBE (R245). -/
def execProbe (m : Msg) (s : State) : Host.Outcome State Fault Refusal := .next (probeArrive s m)

/-- PROBE_R returns a SUSPECT node to ALIVE (R244). -/
def execProbeR (m : Msg) (s : State) : Host.Outcome State Fault Refusal :=
  .next (heardFrom s m.src.toNat)

/-- ORDERING_STATE_EXPIRY: 2 ms after its last message a pair is forgotten, with the messages that
it still holds ahead of a gap (R236). -/
def execOrderingStateExpiry (src : NodeId) (stream : BitVec 8) (s : State) :
    Host.Outcome State Fault Refusal :=
  let fab := s.fab
  .next { s with fab := { fab with
    order := Tab.erase fab.order (src.toNat, stream.toNat),
    gaps := fab.gaps.filter (fun m => !(m.src == src && m.stream == stream)) } }

end Sys2Proof.Machine
end

