-- ==== Sys2Proof/Machine/Comet.lean ====
section
/-! DEFINITION. The comet engines (R311–R332): channel accesses and their translation, the six
instructions, bus errors, holding and dropping. A channel has one access outstanding at a time; an
instruction that must wait goes on from its recorded progress. -/

namespace Sys2Proof.Machine

/-- Why a channel does not complete its instruction now: a bus error of a kind of R327 with its
direction and address, a wait, or a stop at a hold point. -/
inductive CStop where
  | err (kind : Nat) (w : Bool) (addr : Nat)
  | stall
  | held
  deriving DecidableEq, Repr

/-- A part of a channel's work. -/
abbrev ChanM := EStateM CStop State

/-- Kinds of bus error (R327). -/
def ceNonexist : Nat := 1
def ceXlate : Nat := 2
def ceRefused : Nat := 3
def ceTimeout : Nat := 4
def ceMiss : Nat := 5
def ceEncoding : Nat := 6
def ceProgram : Nat := 7

/-- Channel states (CMT_STAT.STATE). -/
def csOff : Nat := 0
def csIdle : Nat := 1
def csRun : Nat := 2
def csWait : Nat := 3
def csHeld : Nat := 4
def csHalted : Nat := 5
def csStopped : Nat := 6

/-- The state of channel `n`, and whether it is privileged (R311). -/
def chanSt (s : State) (n : Nat) : Nat := fget s F.cmtStat_STATE n
def privChan (n : Nat) : Bool := decide (n < 64)

/-- The state with CMT_STAT.STATE of channel `n` set. -/
def setChanSt (s : State) (n v : Nat) : State := fput s F.cmtStat_STATE n v

/-- The vport that owns channel `n`, and its VMID (R311, R313). -/
def chanVport (s : State) (n : Nat) : Nat := fget s F.cmtCfg_VPORT n
def chanVmid (s : State) (n : Nat) : Nat :=
  match Tab.find s.vps (chanVport s n) with
  | some p => p.vmid
  | none => 0

/-- The state with channel `n` changed by `f`. -/
def modChan (s : State) (n : Nat) (f : Chan → Chan) : State := setChan s n (f (chan s n))

/-- Whether the requester of a request is channel `n`. -/
def Who.isChan (w : Who) (n : Nat) : Bool :=
  match w with
  | .req (.comet k) => decide (k.val = n)
  | _ => false

/-- Whether an access of channel `n` is outstanding (R331). -/
def chanBusy (s : State) (n : Nat) : Bool :=
  s.homeQ.any (fun q => q.who.isChan n) ||
    s.txs.any (fun t => t.who == .comet n || t.who == .dropped n)

/-- QUIET follows the outstanding accesses. -/
def noteQuiet (s : State) (n : Nat) : State :=
  let q := b2n (!(chanBusy s n))
  if fget s F.cmtStat_QUIET n = q then s else fput s F.cmtStat_QUIET n q

/-- The responses that channel `n` holds are used up. -/
def clearGot (s : State) (n : Nat) : State :=
  let s := { s with homeDone := s.homeDone.filter (fun x => !(x.1.who.isChan n)) }
  modChan s n (fun k => { k with got := [], done := [], retries := 0, retrying := false })

/-- The instruction of channel `n` is dropped, with the list pair read for it: it is fetched again. -/
def refetch (s : State) (n : Nat) : State :=
  clearGot (modChan s n (fun k => { k with cur := none, pair := none, bad := none })) n

/-- Whether the instruction of channel `n` has begun an access that it has not yet finished with: a
fetch is none. -/
def chanBegun (s : State) (n : Nat) : Bool :=
  let k := chan s n
  k.bad.isSome || (k.cur.isSome && (!k.got.isEmpty || !k.done.isEmpty || chanBusy s n ||
    s.homeDone.any (fun x => x.1.who.isChan n)))

/-- Whether channel `n`, if it runs, stands at a hold point with every write that it has issued
performed (R330). -/
def atHoldPoint (s : State) (n : Nat) : Bool :=
  (!(chan s n).prog || decide ((chan s n).sinceHold = 0)) && !(chanBegun s n)

/-! Accesses. -/

/-- An access, or a choice, that the current step of the instruction makes once: what it gave stays
until the step is over, whatever else the step still waits for (R316). The retries of R327 are counted
for each access. -/
def once (n key : Nat) (act : ChanM (Nat × Bool)) : ChanM (Nat × Bool) := do
  match Tab.find (chan (← get) n).done key with
  | some x => pure x
  | none =>
    let x ← act
    modify (fun s => modChan s n (fun k => { k with
      done := Tab.set k.done key x, retries := 0 }))
    pure x

/-- What a walk has read is forgotten. -/
def dropWalk (s : State) (n : Nat) : State :=
  modChan s n (fun k => { k with done := k.done.filter (fun x => decide (x.1 < walkAt 0 ∨ x.1 = choiceKey)) })

/-- A request at a home of this node. -/
def chanAsk (n l : Nat) (req : HReq) : ChanM HVal := do
  let s ← get
  let (v, s') := ask s (.comet (Fin.ofNat 1024 n)) l req (chanVport s n)
  set s'
  match v with
  | some v => pure v
  | none => throw .stall

/-- A request through reach `i` (R314, R268): the value that comes back, or none for poison. A
WINDOW_MISS is retried NAKRETRY times (R327). A walk of the engine (`walk`) may use every reach, and
whatever refuses one of its accesses ends it (R148, R207, R268). A channel goes on through the reaches
of its own vport until the hold point at which a FREEZE stops it, and a privileged channel waits at a
reach of another vport until its FREEZE is undone (R286, R330; DESIGN CHOICE, assumption 116). -/
def chanFab (n i pa op : Nat) (data : List (BitVec 128)) (sub : Nat) (pois : Bool) (va : Nat)
    (w walk : Bool) : ChanM (Option Nat) := do
  let s ← get
  let key := chanKeyOf pa op
  match Tab.find (chan s n).got key with
  | some (.value v) =>
    set (modChan s n (fun k => { k with got := Tab.erase k.got key }))
    pure (some v)
  | some .poison =>
    set (modChan s n (fun k => { k with got := Tab.erase k.got key }))
    pure none
  | some .timeout => throw (.err ceTimeout w va)
  | some (.nak false) => throw (.err ceRefused w va)
  | some (.nak true) =>
    if !walk && decide ((chan s n).retries < fget s F.cmtCfg_NAKRETRY n) then
      set (modChan s n (fun k => { k with retries := k.retries + 1, retrying := true,
                                          got := Tab.erase k.got key }))
      throw .stall
    else throw (.err ceMiss w va)
  | none =>
    if txFull s || s.txs.any (fun t => t.who == .comet n && t.chanKey == key) then throw .stall
    else
      match reachRefusesIf s i (fun v => walk || privChan n || decide (v = chanVport s n))
          (fun v => decide (v ≠ chanVport s n)) with
      | some (true, _) => if walk then throw (.err ceRefused w va) else throw .stall
      | some (false, why) =>
        (match why with
         | some d => set (logAccess s kComet n pa d)
         | none => pure ())
        throw (.err ceRefused w va)
      | none =>
        set (sendReq s (.comet n) i pa op false data sub pois)
        throw .stall

/-- The region of an address as a channel sees it: the secure part only where R308 admits it, and not the
part of the moon cores (R365). -/
def chanRegion (s : State) (n pa : Nat) : Region :=
  match region s pa with
  | .secure => if privChan n && fbit s F.spdPolicy_PCMT 0 && !(moonPart pa) then .spd else .absent
  | r => r

/-- The line that holds a physical address, and whether it is poison (R314). -/
def chanLine (n pa va : Nat) : ChanM (Line × Bool) := do
  let s ← get
  match chanRegion s n pa with
  | .absent => throw (.err ceNonexist false va)
  | r =>
    let (v, p) ← once n (chanKeyOf (pa / 64 * 64) opRdCur) (match r with
      | .fabric i => do
        match ← chanFab n i (pa / 64 * 64) opRdCur [] 0 false va false false with
        | some v => pure (v, false)
        | none => pure (0, true)
      | _ => do
        let v ← chanAsk n (pa / 64) .rdCur
        pure (v.data.toNat, v.pois))
    pure (BitVec.ofNat 512 v, p)

/-- Writes bytes within one line (R314). -/
def chanStore (n pa va : Nat) (bs : List Byte) (pois : Bool) : ChanM Unit := do
  let s ← get
  let o := pa % 64
  let mask := maskOf o bs.length
  let d : Line := BitVec.ofNat 512 (leNat bs * 2 ^ (8 * o))
  match chanRegion s n pa with
  | .absent => throw (.err ceNonexist true va)
  | r =>
    let _ ← once n (chanKeyOf pa opWrLine) (match r with
      | .fabric i => do
        let _ ← chanFab n i pa opWrLine (wrLineGranules mask d) 0 pois va true false
        pure (0, false)
      | _ => do
        let _ ← chanAsk n (pa / 64) (.wrLine mask d pois)
        pure (0, false))
    pure ()

/-! Translation (R313). -/

/-- A fabric access of an engine's walk: whatever refuses it is a walk error, and is logged (R148,
R313). -/
def chanWalkFab (n i pa op b : Nat) (data : List (BitVec 128)) (sub va : Nat) (w : Bool) :
    ChanM (Nat × Bool) :=
  tryCatch (do
    match ← chanFab n i pa op data sub false va w true with
    | some v => pure (v, false)
    | none => pure (0, true))
    (fun e => match e with
      | .err .. => do
        modify (fun s => logAccess s kComet n b 5)
        throw (.err ceXlate w va)
      | e => throw e)

/-- One line of the bucket at `b` for an engine's walk. -/
def chanBucketLine (n b pa va : Nat) (w : Bool) : ChanM Line := do
  let s ← get
  let (d, p) ← once n (walkAt (chanKeyOf pa opRdCur)) (match region s pa with
    | .dram => do
      let v ← chanAsk n (pa / 64) .rdCur
      pure (v.data.toNat, v.pois)
    | .fabric i =>
      if reachCoh s i then chanWalkFab n i pa opRdCur b [] 0 va w
      else throw (.err ceXlate w va)
    | _ => throw (.err ceXlate w va))
  if p then throw (.err ceXlate w va) else pure (BitVec.ofNat 512 d)

/-- Follows one probe through its chain (R149). -/
def chanChain (n vmid a sc va : Nat) (glob w : Bool) (b : Nat) :
    Nat → ChanM (Option (Nat × Nat × Nat))
  | 0 => throw (.err ceXlate w va)
  | k + 1 => do
    let x ← chanBucketLine n b b va w
    let y ← chanBucketLine n b (b + 64) va w
    match scanSlots x y vmid a sc va glob .none 0 8 with
    | .bad => throw (.err ceXlate w va)
    | .hit e0 e1 i => pure (some (e0, e1, b + 16 * i))
    | .none => pure none
    | .next b' => if k = 0 then throw (.err ceXlate w va) else chanChain n vmid a sc va glob w b' k

/-- Tries the probes of a walk in order (R149, R150). -/
def chanProbes (n vmid va : Nat) (w : Bool) :
    List (Bool × Nat × Nat) → ChanM (Option (Nat × Nat × Nat))
  | [] => pure none
  | (g, a, sc) :: ps => do
    let s ← get
    let b := bucketOf (fget s F.cmtFtb_BASE 0) (fget s F.cmtFtmask_M 0) vmid a sc va
    match ← chanChain n vmid a sc va g w b 16 with
    | some x => pure (some x)
    | none => chanProbes n vmid va w ps

/-- The probes that CMT_FTMASK asks for. -/
def chanProbesOf (s : State) (n : Nat) : List (Bool × Nat × Nat) :=
  let sz := (upto 4).filter (fun sc => bit (fget s F.cmtFtmask_SZEN 0) sc)
  sz.map (fun sc => (false, fget s F.cmtCfg_ASID n, sc)) ++
    (if fbit s F.cmtFtmask_GP 0 then sz.map (fun sc => (true, 0, sc)) else [])

/-- The engine TLB takes an entry; it holds 64 (R313). -/
def fillEtlb (s : State) (g : Nat) (e : TlbEnt) : State :=
  let old := (Tab.get [] s.etlb g).filter (fun x => decide (x.tag ≠ e.tag))
  { s with etlb := Tab.set s.etlb g ((e :: old).take 64) }

/-- The compare-and-swap of a slot at its home: whether it succeeded (R152). -/
def chanSwap (n addr va : Nat) (w : Bool) (old new : BitVec 128) : ChanM Bool := do
  let s ← get
  let (v, p) ← once n (walkAt (chanKeyOf addr opAtom)) (match region s addr with
    | .fabric i =>
      let (g, sub) := atomGranules (.cas16 old new)
      chanWalkFab n i addr opAtom (addr / 128 * 128) g sub va w
    | _ => do
      let v ← chanAsk n (addr / 64) (.atom (addr % 64) (.cas16 old new))
      pure (v.old, v.pois))
  if p then throw (.err ceXlate w va) else pure (decide (v = old.toNat))

/-- The walk of an engine for channel `n` (R313); at most `fuel` restarts. -/
def chanWalk (n va pl : Nat) (k : AKind) : Nat → ChanM TlbEnt
  | 0 => throw .stall
  | fuel + 1 => do
    let s ← get
    match ← chanProbes n (chanVmid s n) va k.wr (chanProbesOf s n) with
    | none => throw (.err ceXlate k.wr va)
    | some (e0, e1, addr) =>
      let e := entOf e0 e1
      let e := { e with tag := { e.tag with vpn := bitsOf va 55 (pageShift e.tag.sz) } }
      if !(rightsOk e.rights pl k) then throw (.err ceXlate k.wr va)
      else
        let e0' := setBitsOf e0 5 5 1
        let e0' := if k.setsD then setBitsOf e0' 6 6 1 else e0'
        let e' := { e with d := bit e0' 6 }
        if e0' = e0 then
          modify (fun s => dropWalk (fillEtlb s (n / 32) e') n)
          pure e'
        else
          let x (v : Nat) : BitVec 128 := BitVec.ofNat 128 (v + e1 * 2 ^ 64)
          if ← chanSwap n addr va k.wr (x e0) (x e0') then
            modify (fun s => dropWalk (fillEtlb s (n / 32) e') n)
            pure e'
          else
            modify (fun s => dropWalk s n)
            chanWalk n va pl k fuel

/-- The physical address of a channel's address (R313). -/
def chanPa (n va : Nat) (k : AKind) : ChanM Nat := do
  if privChan n then pure va
  else if !(canonical va) then throw (.err ceXlate k.wr va)
  else
    let s ← get
    let pl := fget s F.cmtCfg_APL n
    let hit := (Tab.get [] s.etlb (n / 32)).find?
      (fun e => entHits e (chanVmid s n) (fget s F.cmtCfg_ASID n) va)
    match hit with
    | some e =>
      if rightsOk e.rights pl k && (e.d || !k.setsD) then pure (entPa e va)
      else
        -- the entry that failed is replaced by the one that the walk finds (R162)
        modify (fun s => { s with
          etlb := Tab.set s.etlb (n / 32) ((Tab.get [] s.etlb (n / 32)).filter (fun x => x ≠ e)) })
        let e ← chanWalk n va pl k 4
        pure (entPa e va)
    | none =>
      let e ← chanWalk n va pl k 4
      pure (entPa e va)

/-! Runs of bytes. -/

/-- Reads `m` bytes from `va`, at most `lines` lines; whether a line was poison. -/
def chanRead (n va m : Nat) : Nat → ChanM (List Byte × Bool)
  | 0 => pure ([], false)
  | lines + 1 => do
    if m = 0 then pure ([], false)
    else
      let j := min m (64 - va % 64)
      let pa ← chanPa n va .load
      let (d, p) ← chanLine n pa va
      let (rest, q) ← chanRead n ((va + j) % 2 ^ 64) (m - j) lines
      pure (natLe (lineSlice d (pa % 64) j) j ++ rest, p || q)

/-- Writes bytes from `va` on, at most `lines` lines. -/
def chanWrite (n va : Nat) (bs : List Byte) (pois : Bool) : Nat → ChanM Unit
  | 0 => pure ()
  | lines + 1 => do
    if bs.isEmpty then pure ()
    else
      let j := min bs.length (64 - va % 64)
      let pa ← chanPa n va .store
      chanStore n pa va (bs.take j) pois
      chanWrite n ((va + j) % 2 ^ 64) (bs.drop j) pois lines

/-- Whether channel `n` must stop at its next hold point (R330, R286). -/
def mustHold (s : State) (n : Nat) : Bool := fbit s F.cmtCtl_HOLD n || vportHeld s (chanVport s n)

/-- `j` bytes have been copied: they count, the responses used are gone, and at 4 KiB of progress a
channel that must stops (R330). -/
def chanCopied (n j : Nat) (f : Chan → Chan) : ChanM Unit := do
  let s ← get
  let v := chanVport s n
  let s := mon (mon s mCmtRead n v j) mCmtWrite n v j
  let since := (chan s n).sinceHold + j
  let stop := decide (4096 ≤ since)
  set (clearGot (modChan s n (fun k => { f k with sinceHold := if stop then 0 else since })) n)
  if stop && mustHold s n then throw .held else pure ()

/-! Instructions. -/

/-- An instruction of a program: operation, flags, IMM and operands (R318). -/
structure CInstr where
  w0 : Nat
  a : Nat
  b : Nat
  c : Nat
  deriving DecidableEq, Repr

/-- Fields of word 0. -/
def CInstr.op (i : CInstr) : Nat := bitsOf i.w0 3 0
def CInstr.f (i : CInstr) : Nat := bitsOf i.w0 15 8
def CInstr.imm (i : CInstr) : Nat := bitsOf i.w0 63 32

/-- An encoding error of the instruction at the pc (R318); it fails no access, and FDIR records 0
(DESIGN CHOICE, assumption 140). -/
def badCode {α : Type} (n : Nat) : ChanM α := do
  let s ← get
  throw (.err ceEncoding false (chan s n).pc)

/-- Copies the rest of a MOVE without a fixed side, a destination line at a time (R320); `undef` says
that the destination's contents are undefined (R80). -/
def moveLines (n : Nat) (undef : Bool) : Nat → ChanM Unit
  | 0 => pure ()
  | fuel + 1 => do
    let s ← get
    let k := chan s n
    if k.left = 0 then pure ()
    else
      let j := min k.left (64 - k.dst % 64)
      let (bs, p) ← chanRead n k.src j 3
      let bs ← if undef then do
          let (v, _) ← once n choiceKey (do
            let (v, s) := takeFree (← get)
            set s
            pure (v, false))
          pure (natLe v j)
        else pure bs
      chanWrite n k.dst bs p 3
      chanCopied n j (fun k => { k with src := (k.src + j) % 2 ^ 64, dst := (k.dst + j) % 2 ^ 64,
                                        left := k.left - j })
      moveLines n undef fuel

/-- Copies the rest of a MOVE with a fixed side, unit by unit (R320). -/
def moveUnits (n u : Nat) (sfix dfix : Bool) : Nat → ChanM Unit
  | 0 => pure ()
  | fuel + 1 => do
    let s ← get
    let k := chan s n
    if k.left = 0 then pure ()
    else
      let (bs, p) ← chanRead n k.src u 3
      chanWrite n k.dst bs p 3
      chanCopied n u (fun k =>
        { k with src := if sfix then k.src else (k.src + u) % 2 ^ 64,
                 dst := if dfix then k.dst else (k.dst + u) % 2 ^ 64, left := k.left - u })
      moveUnits n u sfix dfix fuel

/-- An address operand with its base added where the flag says so. -/
def withBase (s : State) (n k a : Nat) (rel : Bool) : Nat :=
  if rel then (a + fget s F.cmtX_X (2 * n + k)) % 2 ^ 64 else a

/-- MOVE (R320). -/
def doMove (n : Nat) (i : CInstr) : ChanM Unit := do
  let s ← get
  let f := i.f
  let sfix := bit f 0
  let dfix := bit f 1
  let u := 2 ^ bitsOf f 5 4
  let src := withBase s n 0 i.a (bit f 2)
  let dst := withBase s n 1 i.b (bit f 3)
  let fix := sfix || dfix
  let bad := decide (bitsOf f 7 6 ≠ 0) || decide (i.imm ≠ 0) || decide (2 ^ 32 ≤ i.c) ||
    (fix && decide (i.c % u ≠ 0)) ||
    (sfix && decide (src % u ≠ 0)) || (dfix && decide (dst % u ≠ 0))
  if bad then badCode n
  else
    if (chan s n).prog then pure ()
    else
      set (modChan s n (fun k => { k with prog := true, src := src, dst := dst, left := i.c,
                                          pairs := 0, sinceHold := 0 }))
    if fix then moveUnits n u sfix dfix (i.c + 1)
    else moveLines n (decide (src < dst ∧ dst < src + i.c)) (i.c + 1)

/-- The list pair at `va`: its address and length (R321). Poison and reserved bytes are encoding
errors. -/
def readPair (n va : Nat) : ChanM (Nat × Nat) := do
  let (bs, p) ← chanRead n va 16 2
  let v := leNat bs
  if p then throw (.err ceEncoding false va)
  else if bitsOf v 127 96 ≠ 0 then throw (.err ceEncoding false va)
  else pure (bitsOf v 63 0, bitsOf v 95 64)

/-- The rest of the current pair of a GATHER, whose other address is `p`. -/
def pairLines (n p len : Nat) (scatter : Bool) : Nat → ChanM Unit
  | 0 => pure ()
  | fuel + 1 => do
    let s ← get
    let k := chan s n
    if k.left = 0 then pure ()
    else
      let here := (p + (len - k.left)) % 2 ^ 64
      let src := if scatter then k.dst else here
      let dst := if scatter then here else k.dst
      let j := min k.left (64 - dst % 64)
      let (bs, q) ← chanRead n src j 3
      chanWrite n dst bs q 3
      -- the pair ends with its last byte, so a stop there leaves the next pair current
      let fin := decide (k.left = j)
      chanCopied n j (fun k => { k with dst := (k.dst + j) % 2 ^ 64, left := k.left - j,
                                        src := if fin then (k.src + 16) % 2 ^ 64 else k.src,
                                        pairs := if fin then k.pairs - 1 else k.pairs,
                                        pair := if fin then none else k.pair })
      pairLines n p len scatter fuel

/-- The rest of a GATHER, pair by pair (R321). -/
def gatherPairs (n : Nat) (scatter : Bool) : Nat → ChanM Unit
  | 0 => pure ()
  | fuel + 1 => do
    let s ← get
    let k := chan s n
    if k.pairs = 0 then pure ()
    else
      let (p, len) ← match k.pair with
        | some x => pure x
        | none => do
          let x ← readPair n k.src
          modify (fun s => clearGot (modChan s n (fun k => { k with pair := some x })) n)
          pure x
      if len = 0 then
        modify (fun s => clearGot (modChan s n (fun k =>
          { k with src := (k.src + 16) % 2 ^ 64, pairs := k.pairs - 1, left := 0,
                   pair := none })) n)
      else
        modify (fun s => modChan s n (fun k =>
          { k with left := if k.left = 0 then len else min k.left len }))
        pairLines n p len scatter (len + 1)
      gatherPairs n scatter fuel

/-- GATHER (R321). -/
def doGather (n : Nat) (i : CInstr) : ChanM Unit := do
  let s ← get
  let f := i.f
  let list := withBase s n 0 i.a (bit f 2)
  let b := withBase s n 1 i.b (bit f 3)
  let bad := bit f 1 || decide (bitsOf f 7 4 ≠ 0) || decide (i.imm ≠ 0) || decide (2 ^ 32 ≤ i.c) ||
    decide (i.c = 0) || decide (list % 16 ≠ 0)
  if bad then badCode n
  else
    if (chan s n).prog then pure ()
    else
      set (modChan s n (fun k => { k with prog := true, src := list, dst := b, left := 0,
                                          pairs := i.c, sinceHold := 0 }))
    gatherPairs n (bit f 0) (i.c + 1)

/-- LOOP (R322): true when it jumps. -/
def doLoop (n : Nat) (i : CInstr) : ChanM Bool := do
  let s ← get
  let back := bitsOf i.imm 15 0
  if decide (back = 0) || decide (bitsOf i.imm 31 16 ≠ 0) || decide (bitsOf i.f 7 1 ≠ 0) ||
      decide (i.a = 0) || decide (2 ^ 32 ≤ i.a) then badCode n
  else
    let k := chan s n
    let one := bit i.f 0
    let old := if one then k.l1 else k.l0
    let l := (if old = 0 then i.a else old) - 1
    let s := setChan s n (if one then { k with l1 := l } else { k with l0 := l })
    if l = 0 then
      set s
      pure false
    else
      let x0 := fget s F.cmtX_X (2 * n) + i.b
      let x1 := fget s F.cmtX_X (2 * n + 1) + i.c
      let s := fput (fput s F.cmtX_X (2 * n) x0) F.cmtX_X (2 * n + 1) x1
      set (modChan s n (fun k => { k with pc := (k.pc + 2 ^ 64 - 32 * back) % 2 ^ 64 }))
      pure true

/-- The value test of a WAIT: one 8-byte RD_CUR (R323). -/
def testValue (n : Nat) (i : CInstr) : ChanM Bool := do
  let (bs, p) ← chanRead n i.a 8 2
  if p then throw (.err ceEncoding false i.a)
  else pure (decide (leNat bs &&& i.c = i.b))

/-- The channel waits (R323). -/
def enterWait (n : Nat) (w : CWait) : ChanM Bool := do
  modify (fun s => modChan (setChanSt s n csWait) n (fun k => { k with wait := some w }))
  pure false

/-- WAIT (R323): true when its condition holds already. -/
def doWait (n : Nat) (i : CInstr) : ChanM Bool := do
  let s ← get
  let m := bitsOf i.f 1 0
  if decide (bitsOf i.f 7 2 ≠ 0) || decide (i.imm ≠ 0) || decide (m = 3) then badCode n
  else if m = 0 then
    if decide (i.a ≠ 0) || decide (i.b ≠ 0) || decide (i.c ≠ 0) then badCode n
    else if fget s F.cmtStat_DBCNT n = 0 then enterWait n .doorbell
    else
      set (fput s F.cmtStat_DBCNT n (fget s F.cmtStat_DBCNT n - 1))
      pure true
  else if m = 1 then
    if decide (i.a = 0) || decide (2 ^ 40 < i.a) || decide (i.b ≠ 0) || decide (i.c ≠ 0) then
      badCode n
    else enterWait n (.until (tbOf s + i.a))
  else if i.a % 8 ≠ 0 then badCode n
  else
    if ← testValue n i then pure true else enterWait n .value

/-- Sets the CMT_INT vector of channel `n` pending. -/
def raiseChan (s : State) (n : Nat) : State :=
  raiseVec s (fget s F.cmtInt_TARGET n) (fget s F.cmtInt_VECTOR n)

/-- SIGNAL (R324). Every earlier write of the channel has completed by now. Poison in the old value of
an ADD is recorded with FDIR = 1 (DESIGN CHOICE, assumption 140). -/
def doSignal (n : Nat) (i : CInstr) : ChanM Unit := do
  let f := i.f
  let wr := bit f 0
  let add := bit f 1
  let mem := wr || add
  if decide (bitsOf f 7 3 ≠ 0) || (wr && add) || decide (i.imm ≠ 0) || decide (i.c ≠ 0) ||
      (mem && decide (i.a % 8 ≠ 0)) || (!mem && (decide (i.a ≠ 0) || decide (i.b ≠ 0))) then
    badCode n
  else
    if wr then
      chanWrite n i.a (natLe i.b 8) false 2
      modify (fun s => mon s mCmtWrite n (chanVport s n) 8)
    else if add then
      let pa ← chanPa n i.a .rmw
      let s ← get
      let op : AtomOp := .add (w64 i.b)
      match chanRegion s n pa with
      | .absent => throw (.err ceNonexist true i.a)
      | r =>
        let (_, p) ← once n (chanKeyOf pa opAtom) (match r with
          | .fabric r => do
            let (g, sub) := atomGranules op
            match ← chanFab n r pa opAtom g sub false i.a true false with
            | some v => pure (v, false)
            | none => pure (0, true)
          | _ => do
            let v ← chanAsk n (pa / 64) (.atom (pa % 64) op)
            pure (v.old, v.pois))
        if p then throw (.err ceEncoding true i.a) else pure ()
    else pure ()
    if bit f 2 then modify (fun s => raiseChan s n) else pure ()

/-- END (R324). -/
def doEnd (n : Nat) (i : CInstr) : ChanM Unit := do
  if decide (bitsOf i.f 7 1 ≠ 0) || decide (i.imm ≠ 0) || decide (i.a ≠ 0) || decide (i.b ≠ 0) ||
      decide (i.c ≠ 0) then badCode n
  else
    if bit i.f 0 then modify (fun s => raiseChan s n) else pure ()
    modify (fun s => setChanSt (fput s F.cmtStat_DONE n 1) n csIdle)

/-! Running. -/

/-- The current instruction: it is read whole, once (R319); any failure is of kind PROGRAM. -/
def fetchC (n : Nat) : ChanM CInstr := do
  let s ← get
  match (chan s n).cur with
  | some (w0, a, b, c) => pure ⟨w0, a, b, c⟩
  | none =>
    let pc := (chan s n).pc
    let (bs, p) ← tryCatch (chanRead n pc 32 1)
      (fun e => match e with
        | .err .. => throw (.err ceProgram false pc)
        | e => throw e)
    if p then throw (.err ceProgram false pc)
    else
      let v := leNat bs
      let i : CInstr := ⟨bitsOf v 63 0, bitsOf v 127 64, bitsOf v 191 128, bitsOf v 255 192⟩
      modify (fun s => clearGot (modChan s n (fun k => { k with
        cur := some (i.w0, i.a, i.b, i.c) })) n)
      pure i

/-- The next instruction is current. -/
def nextC (s : State) (n : Nat) : State :=
  refetch (modChan s n (fun k => { k with pc := (k.pc + 32) % 2 ^ 64, prog := false, left := 0,
                                           pairs := 0, wait := none })) n

/-- Executes one instruction that has been fetched. -/
def execC (n : Nat) (i : CInstr) : ChanM Unit := do
  let done : ChanM Unit := modify (fun s => nextC s n)
  if bitsOf i.w0 31 16 ≠ 0 then badCode n
  else if i.op = 1 then
    doMove n i
    done
  else if i.op = 2 then
    doGather n i
    done
  else if i.op = 3 then
    if ← doLoop n i then modify (fun s => refetch s n) else done
  else if i.op = 4 then
    if ← doWait n i then done else modify (fun s => clearGot s n)
  else if i.op = 5 then
    doSignal n i
    done
  else if i.op = 15 then
    doEnd n i
    modify (fun s => refetch s n)
  else badCode n

/-- The record of a bus error (R328 step 1, R329). `how` is D1 of its event. -/
def recordErr (s : State) (n kind : Nat) (w : Bool) (addr how : Nat) : State :=
  let s := fput (fput s F.cmtStat_FKIND n kind) F.cmtStat_FDIR n (b2n w)
  let s := fput (fput s F.cmtFaddr_ADDR n addr) F.cmtStat_ERR n 1
  let s := mon (fsat s F.cmtStat_ERRCNT n 1) mCmtError n (chanVport s n) 1
  logEv s { code := 0x61, cls := clsContained, kind := kComet, unit := n, addr := addr, d0 := kind,
            d1 := how }

/-- An ordinary channel stops for good (R328). -/
def stopErr (s : State) (n : Nat) (w : Bool) (addr : Nat) : State :=
  let s := recordErr s n ceProgram w addr 2
  let s := if fbit s F.cmtCfg_EIE n then raiseChan s n else s
  setChanSt (refetch s n) n csStopped

/-- Steps 2 to 4 of a bus error of an ordinary channel (R328): word 0 of the failing instruction is
written as `word`, through the program's own address, and the next instruction is current. A write that
must wait is made when the channel runs again. -/
def markBad (s : State) (n word : Nat) : State :=
  let pc := (chan s n).pc
  match chanWrite n pc (natLe word 8) false 1 s with
  | .ok _ t => nextC (if fbit t F.cmtCfg_EIE n then raiseChan t n else t) n
  | .error (.err _ _ _) t => stopErr t n true pc
  | .error _ t => t

/-- A bus error (R328, R329): a privileged channel halts; an ordinary one records it, marks word 0 `w0`
of the instruction BAD and goes on, or stops. -/
def busError (s : State) (n w0 kind : Nat) (w : Bool) (addr : Nat) : State :=
  if privChan n then
    setChanSt (refetch (raiseChan (recordErr s n kind w addr 1) n) n) n csHalted
  else if kind = ceProgram then stopErr s n w addr
  else
    let word := setBitsOf (setBitsOf w0 4 4 1) 7 5 kind
    let t := setChanSt (clearGot (recordErr s n kind w addr 0) n) n csRun
    markBad (modChan t n (fun k => { k with bad := some word })) n word

/-- The channel becomes HELD where its HOLD bit says so; a channel of a frozen vport just waits. -/
def holdNow (s : State) (n : Nat) : State :=
  if fbit s F.cmtCtl_HOLD n then setChanSt s n csHeld else s

/-- Channel `n` executes its current instruction, if it may and if it is one of operation `want`. -/
def runChan (s : State) (n : Nat) (want : Option Nat) : State :=
  let k := chan s n
  if decide (chanSt s n ≠ csRun) || k.retrying || s.dev.halted then s
  else if mustHold s n && atHoldPoint s n then holdNow s n
  else
    let t := match k.bad with
      | some word => markBad s n word
      | none =>
      match fetchC n s with
      | .error (.err kind w addr) t => busError t n 0 kind w addr
      | .error _ t => t
      | .ok i t =>
        if want.isSome && decide (want ≠ some i.op) then s
        else
          match execC n i t with
          | .ok _ t => t
          | .error (.err kind w addr) t => busError t n i.w0 kind w addr
          | .error .stall t => t
          | .error .held t => holdNow t n
    noteQuiet t n

/-- MOVE (R320). -/
def execCmtMove (n : ChanNo) (s : State) : Host.Outcome State Fault Refusal :=
  .next (runChan s n (some 1))

/-- GATHER (R321). -/
def execCmtGather (n : ChanNo) (s : State) : Host.Outcome State Fault Refusal :=
  .next (runChan s n (some 2))

/-- LOOP (R322). -/
def execCmtLoop (n : ChanNo) (s : State) : Host.Outcome State Fault Refusal :=
  .next (runChan s n (some 3))

/-- COMET_WAIT (R323). -/
def execCmtWait (n : ChanNo) (s : State) : Host.Outcome State Fault Refusal :=
  .next (runChan s n (some 4))

/-- SIGNAL (R324). -/
def execCmtSignal (n : ChanNo) (s : State) : Host.Outcome State Fault Refusal :=
  .next (runChan s n (some 5))

/-- END (R324). -/
def execCmtEndProg (n : ChanNo) (s : State) : Host.Outcome State Fault Refusal :=
  .next (runChan s n (some 15))

/-- A waiting channel tests its condition and goes on when it holds (R323); one that was restored in
WAIT executes its WAIT again (R332). -/
def testWait (s : State) (n : Nat) : State :=
  if decide (chanSt s n ≠ csWait) || (chan s n).retrying || s.dev.halted then s
  else if mustHold s n then holdNow s n
  else
    let go (s : State) : State := setChanSt (nextC s n) n csRun
    match (chan s n).wait with
    | some .doorbell =>
      let d := fget s F.cmtStat_DBCNT n
      if d = 0 then s else go (fput s F.cmtStat_DBCNT n (d - 1))
    | some (.until t) => if t ≤ tbOf s then go s else s
    | some .value =>
      let t := match fetchC n s with
        | .error (.err kind w addr) t => busError t n 0 kind w addr
        | .error _ t => t
        | .ok i t =>
          match testValue n i t with
          | .ok true t => go t
          | .ok false t => clearGot t n
          | .error (.err kind w addr) t => busError t n i.w0 kind w addr
          | .error _ t => t
      noteQuiet t n
    | none => runChan (setChanSt s n csRun) n (some 4)

/-- COMET_WAIT_END: a delay has expired, or the test is made now (R323). -/
def execCmtWaitEnd (n : ChanNo) (s : State) : Host.Outcome State Fault Refusal :=
  match chanSt s n, (chan s n).wait with
  | 3, some (.until t) =>
    if t ≤ tbOf s ∨ mustHold s n then .next (testWait s n)
    else .next (testWait (advanceTb s t) n)
  | _, _ => .next (testWait s n)

/-! Control (R326, R330, R331). -/

/-- A free value for a register that a drop leaves undefined. -/
def freeX (s : State) (n k : Nat) : State :=
  let (v, s) := takeFree s
  fput s F.cmtX_X (2 * n + k) v

/-- The bytes of a line whose 8-byte units the bits of `v` name. -/
def unitMask (v : Nat) : BitVec 64 :=
  BitVec.ofNat 64 ((upto 8).foldl (fun a i => a + b2n (bit v i) * 255 * 2 ^ (8 * i)) 0)

/-- A request of a dropped channel at a home of this node: each 8-byte unit that it would write is
written or not, by a free value, and its answer is wanted no more (R331). -/
def dropReq (n : Nat) (x : State × List HomeReq) (q : HomeReq) : State × List HomeReq :=
  let (s, qs) := x
  if q.who.isChan n then
    match q.req with
    | .wrLine m d p =>
      let (v, s) := takeFree s
      let m := m &&& unitMask v
      (s, if m = 0 then qs else qs ++ [{ q with req := .wrLine m d p, wants := false }])
    | .atom .. =>
      let (v, s) := takeFree s
      (s, if bit v 0 then qs ++ [{ q with wants := false }] else qs)
    | _ => (s, qs ++ [{ q with wants := false }])
  else (s, qs ++ [q])

/-- EN = 0: the channel is dropped (R331). What the drop leaves undefined is free; the reads still
outstanding are discarded when they return. -/
def dropChan (s : State) (n : Nat) : State :=
  let s := freeX (freeX s n 0) n 1
  let (a, s) := takeFree s
  let (b, s) := takeFree s
  let (d, s) := takeFree s
  let (x, s) := takeFree s
  let (y, s) := takeFree s
  let (z, s) := takeFree s
  let s := fput s F.cmtStat_DBCNT n d
  let (s, hq) := s.homeQ.foldl (dropReq n) (s, [])
  let s := { s with
    homeQ := hq,
    homeDone := s.homeDone.filter (fun x => !(x.1.who.isChan n)),
    txs := s.txs.map (fun t => if t.who = .comet n then { t with who := .dropped n } else t) }
  let s := setChan s n { Chan.reset with
    l0 := a % 2 ^ 32, l1 := b % 2 ^ 32, prog := bit a 32, src := x % 2 ^ 64, dst := y % 2 ^ 64,
    left := z % 2 ^ 32, pairs := z / 2 ^ 32 % 2 ^ 32 }
  noteQuiet (setChanSt (fput s F.cmtCtl_EN n 0) n csOff) n

/-- EN from 0 to 1 (R326). -/
def enableChan (s : State) (n : Nat) : State :=
  if fbit s F.cmtCtl_EN n then s
  else setChanSt (fput (fput s F.cmtCtl_EN n 1) F.cmtStat_DBCNT n 0) n csIdle

/-- HOLD is written (R330); with 0 a HELD channel continues. -/
def writeHold (s : State) (n : Nat) (h : Bool) : State :=
  let s := fput s F.cmtCtl_HOLD n (b2n h)
  if !h && decide (chanSt s n = csHeld) then
    setChanSt s n (if (chan s n).wait.isSome then csWait else csRun)
  else s

/-- GO (R326): an IDLE channel starts at CMT_PROG. -/
def goChan (s : State) (n : Nat) : State :=
  if chanSt s n = csIdle then
    let pc := fget s F.cmtProg_ADDR n * 32
    let k : Chan := { Chan.reset with pc := pc }
    let s := setChanSt (setChan s n k) n csRun
    if mustHold s n then holdNow s n else s
  else s

/-- RING (R323): a doorbell is counted, or lost and logged at 0xFF. -/
def ringChan (s : State) (n : Nat) : State :=
  if fget s F.cmtStat_DBCNT n = 0xFF then
    logEv s { code := 0x61, cls := clsContained, kind := kComet, unit := n, d1 := 3 }
  else fadd s F.cmtStat_DBCNT n 1

/-- RESUME (R329): the failed access is made again. -/
def resumeChan (s : State) (n : Nat) : State :=
  if chanSt s n = csHalted then
    setChanSt (refetch s n) n (if (chan s n).wait.isSome then csWait else csRun)
  else s

/-- SKIP (R329). -/
def skipChan (s : State) (n : Nat) : State :=
  if chanSt s n = csHalted then setChanSt (nextC s n) n csRun else s

/-- A write of CMT_CTL acts on its fields in the order of R326. -/
def writeCmtCtl (s : State) (n v : Nat) : State :=
  if !(bit v 0) then if fbit s F.cmtCtl_EN n then dropChan s n else s
  else
    let s := writeHold (enableChan s n) n (bit v 3)
    let s := if bit v 1 then goChan s n else s
    let s := if bit v 2 then ringChan s n else s
    let s := if bit v 4 then resumeChan s n else s
    if bit v 5 then skipChan s n else s

/-- CMT_CTL as it stands, for a row that writes one of its fields. -/
def cmtCtlOf (s : State) (n : Nat) : Nat := b2n (fbit s F.cmtCtl_EN n) + 8 * b2n (fbit s F.cmtCtl_HOLD n)

/-- CMT_EN (R326). -/
def execCmtEn (n : ChanNo) (s : State) : Host.Outcome State Fault Refusal :=
  .next (enableChan s n)

/-- CMT_DROP (R331). -/
def execCmtDrop (n : ChanNo) (s : State) : Host.Outcome State Fault Refusal :=
  .next (if fbit s F.cmtCtl_EN n then dropChan s n else s)

/-- CMT_HOLD (R330); a write with EN = 0 ignores every other field. -/
def execCmtHold (n : ChanNo) (h : Bool) (s : State) : Host.Outcome State Fault Refusal :=
  .next (if fbit s F.cmtCtl_EN n then writeHold s n h else s)

/-- CMT_GO (R326). -/
def execCmtGo (n : ChanNo) (s : State) : Host.Outcome State Fault Refusal :=
  .next (if fbit s F.cmtCtl_EN n then goChan s n else s)

/-- CMT_RING (R323). -/
def execCmtRing (n : ChanNo) (s : State) : Host.Outcome State Fault Refusal :=
  .next (if fbit s F.cmtCtl_EN n then ringChan s n else s)

/-- CMT_RESUME (R329). -/
def execCmtResume (n : ChanNo) (s : State) : Host.Outcome State Fault Refusal :=
  .next (if fbit s F.cmtCtl_EN n then resumeChan s n else s)

/-- CMT_SKIP (R329). -/
def execCmtSkip (n : ChanNo) (s : State) : Host.Outcome State Fault Refusal :=
  .next (if fbit s F.cmtCtl_EN n then skipChan s n else s)

/-- WINDOW_MISS_RETRY: 5 µs have passed, and the access is made again (R327). -/
def execWindowMissRetry (n : ChanNo) (s : State) : Host.Outcome State Fault Refusal :=
  if (chan s n).retrying then
    let s := modChan s n (fun k => { k with retrying := false })
    .next (if chanSt s n = csWait then testWait s n else runChan s n none)
  else .next s

/-- HOLD_POINT (R330): a channel with HOLD = 1 comes to a hold point and becomes HELD; inside a MOVE
or GATHER it first goes on to its next 4 KiB or its end. -/
def execHoldPoint (n : ChanNo) (s : State) : Host.Outcome State Fault Refusal :=
  if !(fbit s F.cmtCtl_HOLD n) then .next s
  else if chanSt s n = csWait then .next (holdNow s n)
  else if chanSt s n = csRun then
    let t := runChan s n none
    .next (if chanSt t n = csRun && atHoldPoint t n then holdNow t n else t)
  else .next s

/-- QUIET (R331): every access of the channel has completed. -/
def execQuiet (n : ChanNo) (s : State) : Host.Outcome State Fault Refusal := .next (noteQuiet s n)

end Sys2Proof.Machine
end

