-- ==== Sys2Proof/Machine/System.lean ====
section
/-! DEFINITION. System registers (R39–R42, R55, R91), calls to higher levels, XRET, WAIT and the
other privileged instructions (R92–R96), interrupts (R116, R124, R135), counters, samples and the
core-local register writes. -/

namespace Sys2Proof.Machine

/-- A system register number (R40): the register, its place in its series, and the lowest levels
that may read and write it. -/
structure SysReg where
  reg : Reg
  k : Nat
  rl : Nat
  wl : Nat
  deriving DecidableEq, Repr

/-- The table of R40. -/
def sysRegOf (n : Nat) : Option SysReg :=
  if n = 0x000 then some ⟨.pstate, 0, 0, 1⟩
  else if n = 0x001 then some ⟨.epc, 0, 1, 1⟩
  else if n = 0x002 then some ⟨.ecause, 0, 1, 1⟩
  else if n = 0x003 then some ⟨.eaddr, 0, 1, 1⟩
  else if n = 0x004 then some ⟨.vdtb, 0, 2, 2⟩
  else if n = 0x008 ∨ n = 0x009 then some ⟨.stk, n - 8, 1, 1⟩
  else if n = 0x00A then some ⟨.stk, 2, 2, 2⟩
  else if n = 0x00B then some ⟨.stk, 3, 3, 3⟩
  else if n = 0x00C ∨ n = 0x00D then some ⟨.slim, n - 12, 1, 1⟩
  else if n = 0x00E then some ⟨.slim, 2, 2, 2⟩
  else if n = 0x00F then some ⟨.slim, 3, 3, 3⟩
  else if n = 0x010 then some ⟨.asid, 0, 1, 1⟩
  else if n = 0x011 then some ⟨.vmid, 0, 2, 2⟩
  else if n = 0x012 then some ⟨.ftb, 0, 2, 2⟩
  else if n = 0x013 then some ⟨.ftmask, 0, 2, 2⟩
  else if n = 0x014 then some ⟨.pkr, 0, 1, 1⟩
  else if n = 0x018 then some ⟨.hrsctl, 0, 0, 0⟩
  else if n = 0x019 then some ⟨.hrsent, 0, 1, 1⟩
  else if n = 0x01C then some ⟨.fpcs, 0, 0, 0⟩
  else if n = 0x01D then some ⟨.ppbase, 0, 2, 2⟩
  else if n = 0x01E then some ⟨.creg, 0, 0, 0⟩
  else if n = 0x020 then some ⟨.tbCmp, 0, 1, 1⟩
  else if n = 0x030 then some ⟨.pmcCyc, 0, 0, 1⟩
  else if n = 0x031 then some ⟨.psbbase, 0, 1, 1⟩
  else if 0x038 ≤ n ∧ n ≤ 0x03F then some ⟨.pmc, n - 0x38, 0, 1⟩
  else if 0x040 ≤ n ∧ n ≤ 0x047 then some ⟨.pmsel, n - 0x40, 1, 1⟩
  else none

/-- Index of a system register of core `c` in its series. -/
def sysIdx (r : SysReg) (c : CoreNo) : Nat :=
  match r.reg with
  | .stk | .slim => 4 * c + r.k
  | .pmc | .pmsel => 8 * c + r.k
  | _ => c

/-- The value MFS returns (R9); HRSENT is the entry that SEL names. -/
def sysRead (s : State) (c : CoreNo) (r : SysReg) : Word :=
  match r.reg with
  | .hrsent => hrsAt s c (fget s F.hrsctl_SEL c)
  | _ => w64 (fieldRead r.reg (rd s r.reg (sysIdx r c)).toNat)

/-- Before the counters are read or their events selected anew they take up what has passed unseen. -/
def upToDate (s : State) (c : CoreNo) (r : SysReg) : State :=
  match r.reg with
  | .pmcCyc | .pmc | .pmsel => lapse s c
  | _ => s

/-- The counter enables that a read at PL0 needs (R414). -/
def pl0Reads (s : State) (c : CoreNo) (r : SysReg) : Bool :=
  match r.reg with
  | .pmc => fbit s F.pmsel_UR (8 * c + r.k)
  | .pmcCyc => fbit s F.pmsel_CUR (8 * c)
  | _ => true

/-- MTS to PSTATE (R38): PL is kept, TE is written at PL2 and PL3, ML is capped. -/
def writePstate (s : State) (c : CoreNo) (v : Nat) : State :=
  let pl := plOf s c
  let cap := if pl = 1 then 11 else if pl = 2 then 13 else 15
  let s := fput s F.pstate_ML c (min (bitsOf v 7 4) cap)
  let s := fput s F.pstate_BIP c (bitsOf v 8 8)
  if 2 ≤ pl then fput s F.pstate_TE c (bitsOf v 9 9) else s

/-- A write of every field of HRSCTL (R55). An index holds what a CALL or HRSENT last wrote there, so
raising DEPTH over an index that a CALL wrote later makes that value valid (DESIGN CHOICE, assumption
109). -/
def putHrsctl (s : State) (c : CoreNo) (v : Nat) : State :=
  let old := hrsDepth s c
  let depth := bitsOf v 13 8
  let drop := bitsOf v 29 24
  let s := fput (fput (fput (fput s F.hrsctl_SEL c (bitsOf v 20 16)) F.hrsctl_SKIP c
    (bitsOf v 3 3)) F.hrsctl_UW c (bitsOf v 2 2)) F.hrsctl_UNF c (bitsOf v 1 1)
  let s := fput s F.hrsctl_OVF c (bitsOf v 0 0)
  if drop ≠ 0 ∧ drop ≤ 32 then
    let n := min drop old
    fput (hrsShift s c n) F.hrsctl_DEPTH c (old - n)
  else if depth ≤ 32 then fput s F.hrsctl_DEPTH c depth
  else s

/-- MTS to HRSCTL: every field above PL0, and at PL0 the lowering of DEPTH alone (R55). -/
def writeHrsctl (s : State) (c : CoreNo) (v : Nat) : State :=
  if plOf s c = 0 then
    if bitsOf v 13 8 ≤ hrsDepth s c then fput s F.hrsctl_DEPTH c (bitsOf v 13 8) else s
  else putHrsctl s c v

/-- An access of the core on behalf of its sampling ring: it counts in no event (R413), keeps no interrupt
off, and where it would fault it is as if it had not been made (R422). -/
def quiet {α : Type} (c : CoreNo) (m : CpuM α) : CpuM (Option α) := do
  let s ← get
  let was := coreOf s c
  let back (t : State) : State := modCore t c (fun k => { k with evs := was.evs, must := was.must })
  match m s with
  | .ok x t =>
    set (back t)
    pure (some x)
  | .error (.exc _) _ =>
    set (modCore s c (fun k => { k with got := noWalks k.got }))
    pure none
  | .error .stall t =>
    set (back t)
    stall

/-- Where the word at offset `off` of the sampling-ring header or a record lies, if the core may
write it (R422): translated as a supervisor store with no key check and no re-walk, or physical. -/
def ringPlace (c : CoreNo) (off : Nat) : CpuM (Option Piece) := do
  let s ← get
  let va := (fget s F.psbbase_BASE c * 4096 + off) % 2 ^ 64
  let good (s : State) (p : Piece) : Bool := match region s p.pa with
    | .dram => decide (p.mt = .cached)
    | .fabric i => reachCoh s i && decide (p.mt = .cached) && (reachRefuses s i (coreOwns s c 1)).isNone
    | _ => false
  if fbit s F.pstate_TE c then
    if !(canonical va) then pure none
    else
      match ← quiet c (walk c va 1 .store true none 4) with
      | some e =>
        let s ← get
        let p : Piece := ⟨va, entPa e va, 64, mtOf e.mt, some e.tag⟩
        pure (if good s p then some p else none)
      | none => pure none
  else
    let p : Piece := ⟨va, va, 64, .cached, none⟩
    pure (if good s p then some p else none)

/-- The core reads RIDX from the ring header (R421); where the header cannot be read it keeps its
copy. -/
def readRidx (c : CoreNo) : CpuM Unit := do
  match ← ringPlace c 0 with
  | none => pure ()
  | some p =>
    match ← quiet c (loadSegs c 3 [⟨p.va + 8, p.pa + 8, 8, .cached, p.tag⟩]) with
    | some bs => modify (fun s => modCore s c (fun k => { k with ring := { k.ring with ridx := leNat bs } }))
    | none => pure ()

/-- A read of RIDX that is due is made, or goes on being due. -/
def dueRidx (s : State) (c : CoreNo) : State :=
  let mark (t : State) (b : Bool) : State := modCore t c (fun k => { k with ring := { k.ring with due := b } })
  match readRidx c s with
  | .ok _ t => mark t false
  | .error _ t => mark t true

/-- MTS: the effect of a write of system register `r` (R40, R41 and the register's own rules). A counter
that is written keeps the value at the retirement of the MTS (R10). The events of an MTS to a PMSEL count
under what it selected before (R414). -/
def sysWrite (c : CoreNo) (r : SysReg) (v : Word) : CpuM Unit := do
  let s ← get
  match r.reg with
  | .pstate => set (writePstate s c v.toNat)
  | .hrsctl => set (writeHrsctl s c v.toNat)
  | .hrsent => set (setHrsAt s c (fget s F.hrsctl_SEL c) v)
  | .ppbase => set (modCore (regWrite s .ppbase c v) c (fun k => { k with bitmap := [] }))
  | .psbbase =>
    set (modCore (regWrite s .psbbase c v) c (fun k => { k with skip := some 8 }))
    readRidx c
  | .pmc =>
    set (modCore (regWrite (upToDate s c r) .pmc (sysIdx r c) v) c (fun k =>
      { k with skip := some r.k }))
  | .pmsel =>
    let s := countAll (upToDate s c r) c (plOf s c) (evInst :: (coreOf s c).evs)
    set (modCore (regWrite s .pmsel (sysIdx r c) v) c (fun k => { k with evs := [], skip := some 9 }))
  | reg => set (regWrite (upToDate s c r) reg (sysIdx r c) v)

/-- The body of MTS (R39–R41, R55): an unassigned number is ILLEGAL_INSTR at every level, a level
too low is PRIV_INSTR. -/
def mtsBody (c : CoreNo) (n : Nat) (v : Word) : CpuM Unit := do
  let s ← get
  let pl := plOf s c
  match sysRegOf n with
  | none => raise { code := 0x01 }
  | some r =>
    let denied := decide (pl < r.wl) || (decide (r.reg = .hrsctl) && decide (pl = 0) &&
      !(fbit s F.hrsctl_UW c))
    if denied then raise { code := 0x02 } else sysWrite c r v

/-- An MTS of gD to system register `n`. -/
def mtsOp (c : CoreNo) (i : Instr) (d : GReg) (n : Nat) (s : State) :
    Host.Outcome State Fault Refusal :=
  issue c i 4 0 true [] (mtsBody c n (getG s c d)) s

/-- MFS: gD := the system register (R39–R41, R91, R414). -/
def execMfs (c : CoreNo) (d : GReg) (n : BitVec 12) (s : State) :
    Host.Outcome State Fault Refusal :=
  issue c (.mfs c d n) 4 0 true [] (do
    let s ← get
    let pl := plOf s c
    match sysRegOf n.toNat with
    | none => raise { code := 0x01 }
    | some r =>
      if pl < r.rl ∨ (pl = 0 ∧ !(pl0Reads s c r)) then raise { code := 0x02 }
      else
        let s := upToDate s c r
        set (setG s c d (sysRead s c r))) s

/-- MTS: system register := gD (R39–R41, R91). -/
def execMts (c : CoreNo) (d : GReg) (n : BitVec 12) (s : State) :
    Host.Outcome State Fault Refusal :=
  mtsOp c (.mts c d n) d n.toNat s

/-- MTS to PSTATE (R38). -/
def execMtsPstate (c : CoreNo) (d : GReg) (s : State) : Host.Outcome State Fault Refusal :=
  mtsOp c (.mtsPstate c d) d 0x000 s

/-- MTS to HRSCTL (R55). -/
def execMtsHrsctl (c : CoreNo) (d : GReg) (s : State) : Host.Outcome State Fault Refusal :=
  mtsOp c (.mtsHrsctl c d) d 0x018 s

/-- DROP: an MTS of gD to HRSCTL, whose DROP field removes the oldest entries (R55). -/
def execDrop (c : CoreNo) (d : GReg) (s : State) : Host.Outcome State Fault Refusal :=
  mtsOp c (.drop c d) d 0x018 s

/-- MTS to PPBASE: empties the bitmap granule cache (R62). -/
def execMtsPpbase (c : CoreNo) (d : GReg) (s : State) : Host.Outcome State Fault Refusal :=
  mtsOp c (.mtsPpbase c d) d 0x01D s

/-- MTS to VDTB; this model holds no copies of descriptors to drop (R122). -/
def execMtsVdtb (c : CoreNo) (d : GReg) (s : State) : Host.Outcome State Fault Refusal :=
  mtsOp c (.mtsVdtb c d) d 0x004 s

/-- MTS to PKR (R94). -/
def execMtsPkr (c : CoreNo) (d : GReg) (s : State) : Host.Outcome State Fault Refusal :=
  mtsOp c (.mtsPkr c d) d 0x014 s

/-- MTS to TB_CMP: vector 0x40 is pending by its condition under the new value (R397). -/
def execMtsTbCmp (c : CoreNo) (d : GReg) (s : State) : Host.Outcome State Fault Refusal :=
  mtsOp c (.mtsTbCmp c d) d 0x020 s

/-- MTS to PSBBASE: rereads the ring's RIDX (R421). -/
def execMtsPsbbase (c : CoreNo) (d : GReg) (s : State) : Host.Outcome State Fault Refusal :=
  mtsOp c (.mtsPsbbase c d) d 0x031 s

/-! Calls and returns across levels. -/

/-- SCALL, HCALL, MCALL: EPC is the next instruction, EADDR is 0 (R92, R123). -/
def callExc (c : CoreNo) (i : Instr) (lvl code : Nat) (s : State) :
    Host.Outcome State Fault Refusal :=
  issue c i 4 lvl true [] (raise { code := code, epc := some (getPc s c + 4) }) s

/-- SCALL (R92). -/
def execScall (c : CoreNo) (s : State) : Host.Outcome State Fault Refusal :=
  callExc c (.scall c) 0 0x14 s

/-- HCALL, from PL1 (R37, R92). -/
def execHcall (c : CoreNo) (s : State) : Host.Outcome State Fault Refusal :=
  callExc c (.hcall c) 1 0x15 s

/-- MCALL, from PL2 (R37, R92). -/
def execMcall (c : CoreNo) (s : State) : Host.Outcome State Fault Refusal :=
  callExc c (.mcall c) 2 0x16 s

/-- BREAK: EPC is the BREAK itself (R92). -/
def execBrk (c : CoreNo) (s : State) : Host.Outcome State Fault Refusal :=
  issue c (.brk c) 4 0 true [] (raise { code := 0x17 }) s

/-- XRET: restores pc, sp and PSTATE from the frame at sp (R93, R131). -/
def execXret (c : CoreNo) (s : State) : Host.Outcome State Fault Refusal :=
  issue c (.xret c) 4 1 true [] (do
    let pl := plOf s c
    let bs ← loadData c (getG s c spReg) 64
    let ra := leNat (bs.take 8)
    let ps := leNat ((bs.drop 8).take 8)
    let sp := leNat ((bs.drop 16).take 8)
    if pl < bitsOf ps 1 0 then raise { code := 0x02 }
    else
      let cap := if pl = 1 then 11 else if pl = 2 then 13 else 15
      modify (fun s =>
        let s := fput (fput (fput s F.pstate_PL c (bitsOf ps 1 0)) F.pstate_ML c
          (min (bitsOf ps 7 4) cap)) F.pstate_BIP c (bitsOf ps 8 8)
        let s := if 2 ≤ pl then fput s F.pstate_TE c (bitsOf ps 9 9) else s
        setPc (setG s c spReg (w64 sp)) c (w64 ra))) s

/-! Interrupts and waiting. -/

/-- INTERRUPT: an eligible interrupt is accepted at the boundary and delivered (R116, R124, R135). Nothing
happens while no interrupt is eligible or an issued operation must end first. -/
def execInterrupt (c : CoreNo) (s : State) : Host.Outcome State Fault Refusal :=
  let k := coreOf s c
  if !(k.active || decide (k.run = .c1)) then .next s
  else
    match acceptInt c s with
    | .ok _ t => .next t
    | .error _ t => .next t

/-- A core's copy of line `l` is written back and its presence leaves the snoop filter (R205). -/
def flushLine (s : State) (c l : Nat) : State :=
  let r := lrec s l
  if !(r.present.contains c) then s
  else if 64 * l < 2 ^ 51 then
    homeEvict s (.core (Fin.ofNat 128 c)) l
      (if r.owner = some c then r.data.map (fun d => (d, false)) else none)
  else
    let left := r.present.filter (fun x => x ≠ c)
    if left.isEmpty then
      match heldReach s (64 * l), r.data with
      | some i, some d =>
        let s := if reachCoh s i then
            (if r.dirty then sendEvict s i (64 * l) opWb (lineGranules d) (poisonOf s l).isSome
             else sendEvict s i (64 * l) opEvc [] false)
          else if r.dirty then
            sendReq s .proxy i (64 * l) opWrLine false
              (wrLineGranules (BitVec.allOnes 64) d) 0 (poisonOf s l).isSome
          else s
        setLrec s l LineRec.none
      | _, _ => setLrec s l LineRec.none
    else
      setLrec s l { r with present := left,
                           owner := if r.owner = some c then none else r.owner,
                           fcore := if r.fcore = some c then none else r.fcore }

/-- The core's caches are written back and its presence leaves the snoop filter (R205). -/
def flushCore (s : State) (c : Nat) : State := s.lines.foldl (fun s e => flushLine s c e.1) s

/-- Whether core `c` has a fabric transaction or a home request that has not ended. -/
def coreBusy (s : State) (c : Nat) : Bool :=
  s.txs.any (fun t => t.who.core? == some c) || s.homeQ.any (fun q => q.who.core? == some c)

/-- A core in C1 whose C6EN bit is set enters C6 once its buffers have drained, what it has asked for has
come, and its caches are written back (R190, R205, R434). -/
def enterC6 (c : CoreNo) : CpuM Unit := do
  drainSb c
  leaveFor c (fun _ => true)
  let s ← get
  if coreBusy s c then stall
  else
    set (modCore (flushCore s c) c (fun k =>
      { k with run := .c6, c6due := false, tlb := [], itlb := [], dtlb := [], pred := [] }))

/-- The entry to C6 goes as far as it can. -/
def goC6 (s : State) (c : CoreNo) : State :=
  match enterC6 c s with
  | .ok _ t => t
  | .error _ t => t

/-- The core goes to sleep: it is in C1, from where it goes on to C6 when its C6EN bit is set (R96, R434).
Its cycles stop (R411). -/
def sleep (c : CoreNo) (w : Option (Word × GReg)) (s : State) : State :=
  let deep := bit (fget s F.coreClctl_C6EN (c.val / 8)) (c.val % 8)
  let s := modCore (lapse s c) c (fun k => { k with run := .c1, waitt := w, c6due := deep })
  if deep then goC6 s c else s

/-- WAIT (R96): a pending eligible interrupt ends it at once; it is then taken after the WAIT. -/
def execWait (c : CoreNo) (s : State) : Host.Outcome State Fault Refusal :=
  issue c (.wait c) 4 0 true [] (do
    match ← eligible c with
    | some _ => pure ()
    | none => modify (sleep c none)) s

/-- Whether a WAITT deadline has been reached (R96). -/
def deadlinePast (s : State) (a : Word) : Bool :=
  decide ((tbOf s + 2 ^ 64 - a.toNat) % 2 ^ 64 < 2 ^ 63)

/-- WAITT (R96): gD := 1 when an interrupt ends it, 0 when the deadline does. -/
def execWaitt (c : CoreNo) (d a : GReg) (s : State) : Host.Outcome State Fault Refusal :=
  issue c (.waitt c d a) 4 0 true [] (do
    match ← eligible c with
    | some _ => modify (fun s => setG s c d 1)
    | none =>
      let s ← get
      if deadlinePast s (getG s c a) then set (setG s c d 0)
      else set (sleep c (some (getG s c a, d)) s)) s

/-- The deadline of a WAITT is reached: gD := 0 and the wait ends, unless an interrupt is eligible, which
ends it with gD := 1 and is taken (R96). A core in C6 wakes first (R434) and ends its wait then. -/
def execWaittDeadline (c : CoreNo) (s : State) : Host.Outcome State Fault Refusal :=
  let k := coreOf s c
  match k.run, k.waitt with
  | .c1, some (a, d) =>
    let s := if deadlinePast s a then s else advanceTb s a.toNat
    match acceptInt c s with
    | .ok true s => .next s
    | .ok false s =>
      .next (setG (modCore s c (fun k => { k with run := .run, waitt := none, c6due := false })) c d 0)
    | .error _ s => .next s
  | .c6, some (a, _) => .next (if deadlinePast s a then s else advanceTb s a.toNat)
  | _, _ => .next s

/-- RDTB: gD := TB (R95). -/
def execRdtb (c : CoreNo) (d : GReg) (s : State) : Host.Outcome State Fault Refusal :=
  issue c (.rdtb c d) 4 0 true [] (modify (fun s => setG s c d (w64 (tbOf s)))) s

/-- WRPKR: PKR := gA[31:0] (R94). -/
def execWrpkr (c : CoreNo) (a : GReg) (s : State) : Host.Outcome State Fault Refusal :=
  issue c (.wrpkr c a) 4 0 true []
    (modify (fun s => fput s F.pkr_KR c ((getG s c a).toNat % 2 ^ 32))) s

/-- RDPKR: gD := PKR, zero-extended (R92). -/
def execRdpkr (c : CoreNo) (d : GReg) (s : State) : Host.Outcome State Fault Refusal :=
  issue c (.rdpkr c d) 4 0 true [] (modify (fun s => setG s c d (w64 (fget s F.pkr_KR c)))) s

/-! Events of a core. -/

/-- Whether counter `n` can pass 2^48 − 1 by events that pass unseen: it counts at the core's level an
event that is not counted as it occurs, and the core's cycles run (R411, R412, R413, R417). -/
def overflows (s : State) (c : CoreNo) (n : Fin 8) : Bool :=
  (coreOf s c).active && !(fenced s c) && ctrOn s c n (plOf s c) && !(chained s c n) &&
    !(seenEvents.contains (fget s F.pmsel_EVENT (pmIdx c n)))

/-- COUNTER_OVERFLOW: a programmable counter passes 2^48 − 1 by events that this model does not count, and
the overflow acts as R416 and R419 state. The row says no more of the events than that, so a counter whose
events are counted as they occur overflows by them alone. -/
def execCounterOverflow (c : CoreNo) (n : Fin 8) (s : State) : Host.Outcome State Fault Refusal :=
  .next (if overflows s c n then passOverflow s c (plOf s c) n else s)

/-- FLAGS of a sample record: the cache and prediction misses are free values; an instruction without an
access has no cache miss, and one that is no control transfer was not mispredicted (R420; DESIGN CHOICE,
assumption 27). -/
def sampleFlags (flags free : Nat) (ctl : Bool) : Nat :=
  flags ||| (free &&& ((if bit flags 2 then 0x18 else 0) + (if ctl then 0x80 else 0)))

/-- SLOT of a sample record: the class of R418, which is free for TD_SLOTS (R420). -/
def sampleSlot (ev free : Nat) : Nat :=
  if ev = 0x008 then free % 4 else if 0x009 ≤ ev ∧ ev ≤ 0x00C then ev - 9 else 0

/-- The bytes of a sample record (R420); LAT is a time, so it is a free value. -/
def sampleBytes (r : SampleRec) (ctr ev lat miss : Nat) : List Byte :=
  natLe r.pc.toNat 8 ++ natLe r.dva.toNat 8 ++ natLe r.tb 8 ++ natLe lat 4 ++
    natLe (ev % 1024 + ctr * 1024) 2 ++ natLe (sampleSlot ev miss) 1 ++
    natLe (sampleFlags r.flags miss r.ctl) 1 ++ natLe r.asid 2 ++
    natLe r.vmid 2 ++ natLe r.pl 1 ++ natLe 0 3 ++ natLe r.npc.toNat 8 ++ natLe 0 16

/-- Number of records in the sampling ring. -/
def ringSize (s : State) (c : CoreNo) : Nat := 2 ^ (fget s F.psbbase_SIZE c + 4)

/-- The fill that sets IRQ (PSBBASE.THR). -/
def ringThr (s : State) (c : CoreNo) : Nat := ringSize s c * (fget s F.psbbase_THR c + 1) / 4

/-- A device-side store of the core into its ring, ordered after the stores before it (R421). -/
def ringStore (s : State) (c : CoreNo) (p : Piece) (off : Nat) (bs : List Byte) : State :=
  pushStores s c
    [{ pa := p.pa + off, bytes := bs, mt := .cached, va := w64 (p.va + off), tag := p.tag, fence := true,
       rel := false, kind := .sample }]

/-- SAMPLE_RECORD: the record of the sampled instruction is written, then WIDX; IRQ is set by a
freshly read fill (R419–R422). -/
def writeSample (c : CoreNo) : CpuM Unit := do
  let s ← get
  match (coreOf s c).sample with
  | some ⟨n, ev, some r⟩ =>
    set (modCore s c (fun k => { k with sample := none }))
    if !(fbit s F.psbbase_EN c) || fbit s F.psbbase_STOP c then pure ()
    else
      let full (s : State) : Bool :=
        decide (((coreOf s c).ring.widx + 2 ^ 64 - (coreOf s c).ring.ridx) % 2 ^ 64 = ringSize s c)
      if full s then readRidx c else pure ()
      let s ← get
      let w := (coreOf s c).ring.widx
      let lost (s : State) : State :=
        modCore s c (fun k => { k with ring := { k.ring with lost := k.ring.lost + 1 } })
      let hd ← ringPlace c 0
      if full s then
        match hd with
        | some p => modify (fun s => ringStore (lost s) c p 16 (natLe ((coreOf s c).ring.lost + 1) 8))
        | none => modify (fun s => failRing s c)
      else
        let p ← ringPlace c (64 + w % ringSize s c * 64)
        match p, hd with
        | some p, some h =>
          let fill (s : State) : Nat :=
            (w + 1 + 2 ^ 64 - (coreOf s c).ring.ridx) % 2 ^ 64
          let s ← get
          if ringThr s c ≤ fill s then readRidx c else pure ()
          let s ← get
          let (lat, s) := takeFree s
          let (miss, s) := takeFree s
          let s := ringStore s c p 0 (sampleBytes r n ev (lat % 2 ^ 32) miss)
          let s := ringStore s c h 0 (natLe (w + 1) 8)
          let s := ringStore s c h 16 (natLe (coreOf s c).ring.lost 8)
          let s := modCore s c (fun k => { k with ring := { k.ring with widx := (w + 1) % 2 ^ 64 } })
          set (if ringThr s c ≤ fill s then fput s F.psbbase_IRQ c 1 else s)
        | _, _ => modify (fun s => failRing s c)
  | _ => pure ()

/-- SAMPLE_RECORD (R419–R422). -/
def execSampleRecord (c : CoreNo) (s : State) : Host.Outcome State Fault Refusal :=
  match writeSample c s with
  | .ok _ s' => .next s'
  | .error _ s' => .next (modCore s' c (fun k => { k with sample := (coreOf s c).sample }))

/-- CORE_TIMER: TB reaches TB_CMP, and vector 0x40 is pending by its condition (R397). -/
def execCoreTimer (c : CoreNo) (s : State) : Host.Outcome State Fault Refusal :=
  .next (if timerCond s c then s else advanceTb s (fget s F.tbCmp_CMP c))

/-- A write of CORE_PREDCTL: FLUSH = 1 clears what the predictors have been trained with (R104, R105). -/
def writePredctl (s : State) (c : Nat) (v : Word) : State :=
  let s := regWrite s .corePredctl c v
  if bit v.toNat 0 then modCore s c (fun k => { k with pred := [] }) else s

/-- PRED_FLUSH: a POUT that writes CORE_PREDCTL.FLUSH = 1 (R105). -/
def execPredFlush (c : CoreNo) (s : State) : Host.Outcome State Fault Refusal :=
  .next (writePredctl s c (w64 (setBitsOf (rd s .corePredctl c).toNat 0 0 1)))

/-- A write to CORE_MDTB sets the MDT; this model holds no copies of descriptors (R119, R122). -/
def writeMdtb (s : State) (c : CoreNo) (v : Word) : State := regWrite s .coreMdtb c v

/-- CORE_MDTB_WRITE (R122). -/
def execCoreMdtbWrite (c : CoreNo) (v : Word) (s : State) : Host.Outcome State Fault Refusal :=
  .next (writeMdtb s c v)

/-- A write to CORE_IPI sets an edge vector pending on the target core, or on every other in-service
core; a vector below 0x50 is reserved (R11, R136). -/
def writeIpi (s : State) (c : CoreNo) (v : Nat) : State :=
  let vec := bitsOf v 7 0
  if vec < 0x50 then s
  else if bit v 23 then
    (upto 128).foldl (fun s t => if t = c.val then s else setPend s t vec true) s
  else setPend s (bitsOf v 22 16) vec true

/-- CORE_IPI (R136). -/
def execCoreIpi (c : CoreNo) (v : BitVec 32) (s : State) : Host.Outcome State Fault Refusal :=
  .next (writeIpi s c v.toNat)

end Sys2Proof.Machine
end

