-- ==== Sys2Proof/Machine/Vport.lean ====
section
/-! DEFINITION. The vport commands CREATE, DESTROY, FREEZE, RESTORE and THAW (R279–R281, R286), with
the frozen state of channels and monitors (R332, R427). -/

namespace Sys2Proof.Machine

/-- STATUS codes of VP_CMD. -/
def vpOk : Nat := 0
def vpBadState : Nat := 1
def vpBadParam : Nat := 2
def vpPoolConflict : Nat := 3
def vpBadBlob : Nat := 4
def vpMismatch : Nat := 5

/-- The state of vport `v`; vport 0 is always ACTIVE (R279). -/
def vpState (s : State) (v : Nat) : Nat := if v = 0 then 1 else fget s F.vpStat_STATE v

/-- The running command of vport `v` ends with a status. -/
def vpEnd (s : State) (v code : Nat) : State :=
  let s := fput (fput s F.vpCmd_BUSY 0 0) F.vpCmd_STATUS 0 code
  devDone { s with vjobs := Tab.erase s.vjobs v }

/-- Whether a run of bytes lies in visible local DRAM (R22). -/
def inDram (s : State) (a n : Nat) : Bool := decide (a + n ≤ visTop s)

/-! Parameter blocks (R279, R280). -/

/-- A field of `n` bytes at an offset. -/
def leAt (bs : List Byte) (o n : Nat) : Nat := leNat ((bs.drop o).take n)

/-- The parameters that a block states. -/
def paramOf (bs : List Byte) : VParam :=
  { vmid := leAt bs 0 2, lidx := leAt bs 2 1, freeze := bit (leAt bs 3 1) 0,
    remote := bit (leAt bs 3 1) 1, wquota := leAt bs 4 2, pvport := leAt bs 6 2,
    rbase := leAt bs 8 2, rcnt := leAt bs 10 2, fbase := leAt bs 12 2, fcnt := leAt bs 14 2,
    cbase := leAt bs 16 2, ccnt := leAt bs 18 2, monbase := leAt bs 20 1, moncnt := leAt bs 21 1,
    pnode := leAt bs 22 2, pflow := leAt bs 28 2, mbox := leAt bs 32 8, logbase := leAt bs 40 8,
    loglo := leAt bs 48 8, logpages := leAt bs 56 4 }

/-- Whether a vector is none or an edge vector. -/
def vecField (v : Nat) : Bool := decide (v = 0) || decide (0x50 ≤ v)

/-- The field checks of R280. LOGLO beyond the physical address space is none of them (DESIGN CHOICE,
assumption 58). -/
def paramOk (s : State) (bs : List Byte) : Bool :=
  let p := paramOf bs
  decide (p.lidx ≤ 15) && decide (leAt bs 3 1 < 8) && !(p.remote && p.freeze) &&
    decide (p.wquota ≤ 32768) && decide (p.rbase + p.rcnt ≤ 4096) &&
    decide (p.fbase + p.fcnt ≤ 4096) && decide (p.cbase + p.ccnt ≤ 1024) &&
    (decide (p.ccnt = 0) || decide (64 ≤ p.cbase)) && decide (p.monbase + p.moncnt ≤ 64) &&
    vecField (leAt bs 24 1) && decide (leAt bs 25 1 ≤ 127) && vecField (leAt bs 26 1) &&
    decide (leAt bs 27 1 ≤ 127) && decide (leAt bs 30 2 = 0) && decide (leAt bs 60 4 = 0) &&
    (!p.remote || (decide (1 ≤ p.pvport ∧ p.pvport ≤ 4095) && decide (p.pnode ≠ 0xFFFF) &&
      decide (p.pflow ≤ 4095))) &&
    decide (p.mbox % 2048 = 0) && inDram s p.mbox 2048 &&
    (p.freeze || (decide (p.logbase % 8 = 0) && decide (p.loglo % 4096 = 0) &&
      decide (1 ≤ p.logpages) && inDram s p.logbase ((p.logpages + 7) / 8)))

/-- Whether two ranges share a member. -/
def rangesMeet (a n b m : Nat) : Bool :=
  decide (0 < n) && decide (0 < m) && decide (a < b + m) && decide (b < a + n)

/-- Whether the pools of `p` conflict with those of vport `e` (R280). -/
def poolsMeet (p e : VParam) : Bool :=
  rangesMeet p.rbase p.rcnt e.rbase e.rcnt || rangesMeet p.fbase p.fcnt e.fbase e.fcnt ||
    rangesMeet p.cbase p.ccnt e.cbase e.ccnt ||
    rangesMeet p.monbase p.moncnt e.monbase e.moncnt ||
    (decide (p.vmid = e.vmid) && decide (p.lidx = e.lidx))

/-- The conflicts of R275 and R280. -/
def poolBusy (s : State) (v : Nat) (p : VParam) : Bool :=
  let sum := quotaSum s + p.wquota
  s.vps.any (fun e => decide (e.1 ≠ v) && decide (vpState s e.1 ≠ 0) && poolsMeet p e.2) ||
    decide (32768 < sum) || decide (32768 - sum < (winOf s 0 none).length)

/-- CMT_CFG.VPORT of the channels of a range set. -/
def ownChans (s : State) (base cnt v : Nat) : State :=
  (upto cnt).foldl (fun s i => fput s F.cmtCfg_VPORT (base + i) v) s

/-- The monitors of a vport are disabled (R425). -/
def stopMons (s : State) (p : VParam) : State :=
  (upto p.moncnt).foldl (fun s i =>
    fput (monLapse s (p.monbase + i)) F.monSel_EN (p.monbase + i) 0) s

/-- CREATE reads its block once and makes the vport (R279, R280). -/
def vpCreate (s : State) (v : Nat) : State :=
  let a := fget s F.vpArg_ADDR 0 * 64
  if vpState s v ≠ 0 then vpEnd s v vpBadState
  else if !(inDram s a 64) then vpEnd s v vpBadParam
  else
    match devLine s (a / 64) with
    | (none, s) => s
    | (some (d, poison), s) =>
      let bs := lineBytes d
      let p := paramOf bs
      if poison || !(paramOk s bs) then vpEnd s v vpBadParam
      else if poolBusy s v p then vpEnd s v vpPoolConflict
      else
        let st := if bit (leAt bs 3 1) 2 then 2 else 1
        let s := { s with vps := Tab.set s.vps v p, vmsgs := Tab.erase s.vmsgs v }
        let s := wr s .vpStat v (w64 (st * 2 ^ 62 + b2n p.freeze * 2 ^ 61 + b2n p.remote * 2 ^ 60 +
          16 * 2 ^ 48 + p.vmid))
        let s := wr s .vpInt v (w64 (leAt bs 24 1 + leAt bs 25 1 * 2 ^ 8 + leAt bs 26 1 * 2 ^ 16 +
          leAt bs 27 1 * 2 ^ 24))
        let s := ownChans (wr s .vpMdb v 0) p.cbase p.ccnt v
        vpEnd (stopMons s p) v vpOk

/-- The channels of a vport. -/
def chansOf (p : VParam) : List Nat := (upto p.ccnt).map (fun i => p.cbase + i)

/-- DESTROY begins (R281): windows and channels of the vport. -/
def vpDestroyStart (s : State) (v : Nat) : State :=
  match Tab.find s.vps v with
  | some p =>
    let s := winInvalidateAll s v
    (chansOf p).foldl (fun s n => if fbit s F.cmtCtl_EN n then dropChan s n else s) s
  | none => s

/-- DESTROY ends when every channel of the vport is QUIET (R331) and every request translated through
its windows has been performed (R277). -/
def vpDestroyEnd (s : State) (v : Nat) : State :=
  match Tab.find s.vps v with
  | some p =>
    if (chansOf p).any (chanBusy s) || s.homeQ.any (fun q => q.gone && decide (q.vport = v)) then s
    else
      let s := ownChans (stopMons s p) p.cbase p.ccnt 0
      let s := fput s F.vpStat_STATE v 0
      vpEnd { s with vps := Tab.erase s.vps v } v vpOk
  | none => vpEnd s v vpBadState

/-! FREEZE (R286). -/

/-- Whether channel `n` stands at a hold point with nothing outstanding (R330). -/
def chanParked (s : State) (n : Nat) : Bool :=
  !(chanBusy s n) && (decide (chanSt s n ≠ csRun) || atHoldPoint s n)

/-- Whether everything admitted for vport `v` has been performed (R286 steps 2 and 3). -/
def vpQuiet (s : State) (v : Nat) (p : VParam) : Bool :=
  (chansOf p).all (chanParked s) &&
    !(s.homeQ.any (fun q => decide (q.vport = v) && q.who.node?.isSome)) &&
    !(s.txs.any (fun t => decide (p.rbase ≤ t.reach ∧ t.reach < p.rbase + p.rcnt)))

/-- Whether line `l` lies in a local range of a window of vport `v`. -/
def inWindows (s : State) (v l : Nat) : Bool :=
  (winOf s v none).any (fun i =>
    let b := fget s F.winB_LBASE i * 4096
    decide (b ≤ 64 * l) && decide (64 * l < b + 2 ^ fget s F.winA_LOG2 i))

/-- The lines that FREEZE must still recall from partners (R286 step 4). -/
def vpHeldLines (s : State) (v : Nat) : List (Nat × LineRec) :=
  s.lines.filter (fun e => e.2.powner.isSome && inWindows s v e.1)

/-- The frozen state of channel `n`: 64 bytes (R332). A channel that is OFF or IDLE has no current
instruction; its PC is the address in CMT_PROG, and RESTORE gives it back (DESIGN CHOICE, assumption
140). -/
def chanBlob (s : State) (n : Nat) : List Byte :=
  let k := chan s n
  let flags := fget s F.cmtCfg_APL n + 2 * b2n k.prog + 4 * fget s F.cmtStat_DONE n +
    8 * fget s F.cmtStat_ERR n + 16 * fget s F.cmtStat_FKIND n + 128 * fget s F.cmtStat_FDIR n
  let ctl := fget s F.cmtCfg_NAKRETRY n + 16 * fget s F.cmtCfg_EIE n + 32 * fget s F.cmtCtl_HOLD n
  let pc := if chanSt s n ≤ csIdle then fget s F.cmtProg_ADDR n * 32 else k.pc
  natLe pc 8 ++ natLe (fget s F.cmtX_X (2 * n)) 8 ++ natLe (fget s F.cmtX_X (2 * n + 1)) 8 ++
    natLe k.l0 4 ++ natLe k.l1 4 ++ natLe k.src 8 ++ natLe k.dst 8 ++ natLe k.left 4 ++
    natLe k.pairs 4 ++ natLe (fget s F.cmtCfg_ASID n) 2 ++ natLe flags 1 ++ natLe (chanSt s n) 1 ++
    natLe (fget s F.cmtStat_DBCNT n) 1 ++ natLe ctl 1 ++ natLe (fget s F.cmtInt_VECTOR n) 1 ++
    natLe (fget s F.cmtInt_TARGET n) 1

/-- The frozen state of monitor `m`: 16 bytes (R427). -/
def monBlob (s : State) (m : Nat) : List Byte :=
  natLe (rd s .monSel m).toNat 8 ++ natLe (rd s .monCnt m).toNat 8

/-- The blob of vport `v` (R286). -/
def vpBlob (s : State) (v : Nat) (p : VParam) : List Byte :=
  let len := 64 + 64 * p.ccnt + 16 * p.moncnt
  let head (crc : Nat) : List Byte :=
    natLe 0x5646 2 ++ natLe 1 1 ++ natLe (b2n (!p.freeze)) 1 ++ natLe len 4 ++ natLe p.ccnt 2 ++
      natLe p.moncnt 1 ++ natLe 0 1 ++ natLe crc 4 ++
      natLe (fget s F.vpMdb_M2T_P v) 1 ++ natLe (fget s F.vpMdb_M2T_C v) 1 ++
      natLe (fget s F.vpMdb_T2M_P v) 1 ++ natLe (fget s F.vpMdb_T2M_C v) 1 ++ natLe 0 4 ++
      natLe (tbOf s) 8 ++ natLe 0 32
  let body := (chansOf p).flatMap (chanBlob s) ++
    (upto p.moncnt).flatMap (fun i => monBlob s (p.monbase + i))
  head (crc32 (head 0 ++ body)) ++ body

/-- The length of the blob of vport `v`. -/
def blobLen (s : State) (v : Nat) : Nat :=
  match Tab.find s.vps v with
  | some p => 64 + 64 * p.ccnt + 16 * p.moncnt
  | none => 64

/-- FREEZE goes on (R286 steps 2 to 5). -/
def vpFreezeOn (s : State) (v : Nat) : State :=
  match Tab.find s.vps v with
  | none => vpEnd s v vpBadState
  | some p =>
    if !(vpQuiet s v p) then s
    else
      match vpHeldLines s v with
      | [] =>
        let a := fget s F.vpArg_ADDR 0 * 64
        let s := (upto p.moncnt).foldl (fun s i => monLapse s (p.monbase + i)) s
        let bs := vpBlob s v p
        let (ok, s) := devTryAll s a bs (bs.length / 64 + 1)
        if ok then vpEnd (fput s F.vpStat_STATE v 2) v vpOk else s
      | es => es.foldl (fun s e => match e.2.powner with
          | some (q, _) => sendSnoop s e.1 q .rclI
          | none => s) s

/-! RESTORE (R286, R332). -/

/-- Whether a blob of the counts it states is good. -/
def blobOk (bs : List Byte) (ccnt moncnt : Nat) : Bool :=
  let len := 64 + 64 * ccnt + 16 * moncnt
  let zeroed := bs.take 12 ++ natLe 0 4 ++ (bs.drop 16).take (len - 16)
  decide (leAt bs 0 2 = 0x5646) && decide (leAt bs 2 1 = 1) && decide (leAt bs 4 4 = len) &&
    decide (leAt bs 12 4 = crc32 zeroed)

/-- Channel `n` takes the 64 bytes of a frozen channel (R332). -/
def loadChan (s : State) (n : Nat) (bs : List Byte) : State :=
  let flags := leAt bs 0x3A 1
  let ctl := leAt bs 0x3D 1
  let st := leAt bs 0x3B 1 % 8
  let k : Chan := { Chan.reset with
    pc := leAt bs 0 8, l0 := leAt bs 0x18 4, l1 := leAt bs 0x1C 4, prog := bit flags 1,
    src := leAt bs 0x20 8, dst := leAt bs 0x28 8, left := leAt bs 0x30 4,
    pairs := leAt bs 0x34 4 }
  let s := setChan s n k
  let s := if st ≤ csIdle then fput s F.cmtProg_ADDR n (leAt bs 0 8 / 32) else s
  let s := fput (fput s F.cmtX_X (2 * n) (leAt bs 8 8)) F.cmtX_X (2 * n + 1) (leAt bs 16 8)
  let s := fput (fput s F.cmtCfg_ASID n (leAt bs 0x38 2)) F.cmtCfg_APL n (bitsOf flags 0 0)
  let s := fput (fput s F.cmtStat_DONE n (bitsOf flags 2 2)) F.cmtStat_ERR n (bitsOf flags 3 3)
  let s := fput (fput s F.cmtStat_FKIND n (bitsOf flags 6 4)) F.cmtStat_FDIR n (bitsOf flags 7 7)
  let s := fput (fput s F.cmtStat_DBCNT n (leAt bs 0x3C 1)) F.cmtCfg_NAKRETRY n (bitsOf ctl 3 0)
  let s := fput (fput s F.cmtCfg_EIE n (bitsOf ctl 4 4)) F.cmtCtl_HOLD n (bitsOf ctl 5 5)
  let s := fput (fput s F.cmtInt_VECTOR n (leAt bs 0x3E 1)) F.cmtInt_TARGET n (leAt bs 0x3F 1)
  setChanSt (fput s F.cmtCtl_EN n (b2n (decide (st ≠ csOff)))) n st

/-- Monitor `m` takes its 16 bytes (R427). -/
def loadMon (s : State) (m : Nat) (bs : List Byte) : State :=
  wr (wr s .monSel m (w64 (leAt bs 0 8))) .monCnt m (w64 (leAt bs 8 8))

/-- RESTORE goes on: it reads the blob, checks it and loads it (R286). -/
def vpRestoreOn (s : State) (v : Nat) : State :=
  let a := fget s F.vpArg_ADDR 0 * 64
  match Tab.find s.vps v with
  | none => vpEnd s v vpBadState
  | some p =>
    if !(inDram s a 64) then vpEnd s v vpBadParam
    else
      match devLine s (a / 64) with
      | (none, s) => s
      | (some (d, _), s) =>
        let h := lineBytes d
        let cc := leAt h 8 2
        let mc := leAt h 10 1
        let len := 64 + 64 * cc + 16 * mc
        if leAt h 0 2 ≠ 0x5646 ∨ leAt h 2 1 ≠ 1 ∨ leAt h 4 4 ≠ len ∨ !(inDram s a len) then
          vpEnd s v vpBadBlob
        else
          match devLines s (a / 64) ((len + 63) / 64) with
          | (none, s) => s
          | (some (bs, poison), s) =>
            if poison || !(blobOk bs cc mc) then vpEnd s v vpBadBlob
            else if cc ≠ p.ccnt ∨ mc ≠ p.moncnt then vpEnd s v vpMismatch
            else
              let s := fput (fput s F.vpMdb_M2T_P v (leAt bs 16 1)) F.vpMdb_M2T_C v (leAt bs 17 1)
              let s := fput (fput s F.vpMdb_T2M_P v (leAt bs 18 1)) F.vpMdb_T2M_C v (leAt bs 19 1)
              let s := (upto cc).foldl (fun s i =>
                loadChan s (p.cbase + i) ((bs.drop (64 + 64 * i)).take 64)) s
              let s := (upto mc).foldl (fun s i =>
                loadMon s (p.monbase + i) ((bs.drop (64 + 64 * cc + 16 * i)).take 16)) s
              vpEnd (fput s F.vpStat_STATE v 1) v vpOk

/-! The command register. -/

/-- The running command of a vport goes on. -/
def vpStep (s : State) (v op : Nat) : State :=
  if op = 1 then vpCreate s v
  else if op = 2 then vpDestroyEnd s v
  else if op = 3 then vpFreezeOn s v
  else if op = 4 then vpRestoreOn s v
  else s

/-- Every vport command that runs goes on, and so do the REMOTE vports with slots to send. -/
def vpProgress (s : State) : State :=
  let s := s.vps.foldl (fun s e => if e.2.remote then sendSlots s e.1 16 else s) s
  s.vjobs.foldl (fun s e => vpStep s e.1 e.2) s

/-- A write of VP_CMD; ignored while BUSY. A vport in the wrong state answers BAD_STATE, and an address
of VP_ARG outside visible local DRAM BAD_PARAM (DESIGN CHOICE, assumption 58). -/
def vpCommand (s : State) (v op : Nat) : State :=
  if fbit s F.vpCmd_BUSY 0 then s
  else
    let s := fput s F.vpCmd_VPORT 0 v
    let st := vpState s v
    let run (s : State) : State :=
      vpStep { fput s F.vpCmd_BUSY 0 1 with vjobs := Tab.set s.vjobs v op } v op
    if op = 0 ∨ 5 < op then s
    else if v = 0 then fput s F.vpCmd_STATUS 0 vpBadState
    else if op = 1 then run s
    else if op = 2 then
      if st = 1 ∨ st = 2 then run (vpDestroyStart s v) else fput s F.vpCmd_STATUS 0 vpBadState
    else if op = 3 then
      if st ≠ 1 ∨ fbit s F.vpStat_REM v then fput s F.vpCmd_STATUS 0 vpBadState
      else if !(inDram s (fget s F.vpArg_ADDR 0 * 64) (blobLen s v)) then
        fput s F.vpCmd_STATUS 0 vpBadParam
      else run s
    else if op = 4 then
      if st = 2 then run s else fput s F.vpCmd_STATUS 0 vpBadState
    else if st = 2 then fput (fput s F.vpStat_STATE v 1) F.vpCmd_STATUS 0 vpOk
    else fput s F.vpCmd_STATUS 0 vpBadState

/-- CREATE (R280). -/
def execVpCreate (v : Fin 4096) (s : State) : Host.Outcome State Fault Refusal :=
  .next (vpCommand s v 1)

/-- DESTROY (R281). -/
def execVpDestroy (v : Fin 4096) (s : State) : Host.Outcome State Fault Refusal :=
  .next (vpCommand s v 2)

/-- FREEZE (R286). -/
def execVpFreeze (v : Fin 4096) (s : State) : Host.Outcome State Fault Refusal :=
  .next (vpCommand s v 3)

/-- RESTORE (R286). -/
def execVpRestore (v : Fin 4096) (s : State) : Host.Outcome State Fault Refusal :=
  .next (vpCommand s v 4)

/-- THAW (R286). -/
def execVpThaw (v : Fin 4096) (s : State) : Host.Outcome State Fault Refusal :=
  .next (vpCommand s v 5)

end Sys2Proof.Machine
end

