-- ==== Sys2Proof/Machine/Repair.lean ====
section
/-! DEFINITION. Live repair: replay and the eclipse move (R340–R344), DRAM channels (R301–R305,
R451, R452), columns and ways (R307, R339), the spare slice (R345), moon cores (R346, R347) and fatal
errors (R335, R336). -/

namespace Sys2Proof.Machine

/-! Fatal errors. -/

/-- A fatal error (R335): FLT_FATAL holds the latest cause, but during a halt it keeps the first one
while VALID = 1; the record is made, and the device halts. -/
def fatal (s : State) (code kind unit : Nat) : State :=
  let s := if s.dev.halted && fbit s F.fltFatal_VALID 0 then s
    else
      let s := fput (fput s F.fltFatal_CODE 0 code) F.fltFatal_KIND 0 kind
      fput (fput s F.fltFatal_UNIT 0 unit) F.fltFatal_VALID 0 1
  let s := logEv s { code := 0xFF, cls := clsFatal, kind := kind, unit := unit, d0 := code }
  let dev := s.dev
  let s := { s with dev := { dev with halted := true } }
  let s := cleanChecks s (fun _ _ => true)
  (upto 128).foldl (fun s c => haltAs s (Fin.ofNat 128 c) .stopped) s

/-- FATAL (R335, R336). -/
def execFatal (cause : FatalCause) (s : State) : Host.Outcome State Fault Refusal :=
  match cause with
  | .moonSecond m => .next (fatal s 1 kMoon m)
  | .sliceNoSpare n => .next (fatal s 2 kSlice n)
  | .directory n => .next (fatal s 3 kSlice n)
  | .refclk => .next (fatal s 4 kDevice 0)
  | .unlock d => .next (fatal s 5 kDevice d)
  | .therm c =>
    let dev := s.dev
    let s := { s with dev := { dev with thermtrip := true } }
    .next (match c with
      | some n => fatal s 6 kCluster n
      | none => fatal s 6 kDevice 0)

/-! Arrays. -/

/-- The arrays protected by SEC-DED (R338, R339). -/
def secded (a : Nat) : Bool :=
  [0x05, 0x06, 0x07, 0x08, 0x09, 0x0A, 0x0B, 0x10, 0x11, 0x12, 0x18, 0x20, 0x21, 0x22, 0x23, 0x24,
   0x25, 0x30].contains a

/-- The arrays that have ways, which R339 can disable: those of a core or a slice, as WAY_DISABLED names
them (R352). -/
def hasWays (a : Nat) : Bool := [0x05, 0x06, 0x10, 0x11, 0x12].contains a

/-- The unit kind of an array (R463). -/
def arrayKind (a : Nat) : Nat :=
  if a < 0x10 then kCore
  else if a < 0x18 then kSlice
  else if a = 0x18 then kQuadrant
  else if a < 0x24 then kDevice
  else if a < 0x30 then kPort
  else kBank

/-- Another unit now serves number `u`: the columns and ways of the retired unit stay recorded, under a number
that no unit has, and count against the new one no more; its copies in progress end (R5, R339; DEDUCED,
assumption 127). -/
def retireArrays (s : State) (kind u : Nat) : State :=
  let mine (a n : Nat) : Bool := decide (arrayKind a = kind) && decide (n = u)
  let keep := s.keep
  { s with
    copying := s.copying.filter (fun c => !(mine c.1 c.2.1)),
    wayOut := s.wayOut.filter (fun e => !(mine e.1.1 e.1.2.1)),
    keep := { keep with
      columns := keep.columns.map (fun c => if mine c.1 c.2.1 then (c.1, c.2.1 + 256, c.2.2) else c),
      ways := keep.ways.map (fun w => if mine w.1 w.2.1 then (w.1, w.2.1 + 256, w.2.2) else w) } }

/-! Cores. -/

/-- Whether the cluster of core `c` can start a move: its spare is STANDBY. -/
def spareReady (s : State) (c : Nat) : Bool := decide (fget s F.fltClspare_SST (c / 8) = 0)

/-- A core with a persistent fault and no spare stops (R344, R128). No escalation was attempted, so
the ECAUSE and EADDR of the record are free values. -/
def stopFaulty (s : State) (c : Nat) : State :=
  let (a, s) := takeFree s
  let (b, s) := takeFree s
  let pc := (getPc s c).toNat
  let ml := mlOf s c
  let s := haltAs s (Fin.ofNat 128 c) .stopped
  logEv s { code := 0x12, cls := clsContained, kind := kCore, unit := c, addr := pc,
            d0 := a % 2 ^ 64, d1 := b % 2 ^ 64, d2 := ml }

/-- The buffers of a core drain as far as they can (R189, R190). -/
def drainAll (s : State) (c : Nat) : State :=
  let k : CoreNo := Fin.ofNat 128 c
  let m : CpuM Unit := do
    drainSb k
    leaveFor k (fun _ => true)
  match m s with
  | .ok _ t => t
  | .error _ t => t

/-- A sample armed when a core is fenced is dropped and counted in LOST (R419). -/
def dropSample (s : State) (c : Nat) : State :=
  match (coreOf s (Fin.ofNat 128 c)).sample with
  | some ⟨_, _, none⟩ =>
    modCore s c (fun k => { k with sample := none, ring := { k.ring with lost := k.ring.lost + 1 } })
  | _ => s

/-- An eclipse move starts: the core is fenced and its buffers drain (R342). A core that is being
moved starts no second move, and one whose spare is not STANDBY stops (R344). -/
def startEclipse (s : State) (c : Nat) : State :=
  if (Tab.find s.moves c).isSome then s
  else if spareReady s c then
    let s := modCore s c (fun k => { k with eclDue := false })
    let s := fput s F.fltClspare_SST (c / 8) 1
    drainAll (dropSample { s with moves := Tab.set s.moves c (tbOf s, 0) } c) c
  else stopFaulty s c

/-- ECLIPSE_MOVE: a core that retires work has a persistent fault (R341, R342). -/
def execEclipseMove (c : CoreNo) (s : State) : Host.Outcome State Fault Refusal :=
  if (coreOf s c).active then .next (startEclipse s c) else .next s

/-- The times of a core's replays within the last 10 ms. -/
def recentReplays (s : State) (c : Nat) : List Nat :=
  (Tab.get [] s.replays c).filter (fun t => decide (tbOf s ≤ t + 10000000))

/-- CORE_REPLAY: a failed check replays the instruction; the third of one instruction starts an eclipse
move, and the sixteenth replay within 10 ms starts one at the next retirement boundary (R341). -/
def execCoreReplay (c : CoreNo) (s : State) : Host.Outcome State Fault Refusal :=
  let k := coreOf s c
  if !k.active || fenced s c then .next s
  else if 2 ≤ k.fails then .next (startEclipse s c)
  else
    let s := modCore s c (fun k => { k with fails := k.fails + 1 })
    let s := fsat s F.fltClspare_REPLAYS (c.val / 8) 1
    let s := count s c (plOf s c) evReplay 1
    let s := logEv s { code := 0x10, cls := clsCorrected, kind := kCore, unit := c,
                       addr := (getPc s c).toNat }
    let ts := recentReplays s c ++ [tbOf s]
    let s := { s with replays := Tab.set s.replays c.val ts }
    .next (if 16 ≤ ts.length then modCore s c (fun k => { k with eclDue := true }) else s)

/-- A core without the contents of its TLBs, predictors and bitmap granule cache (R104, R343). -/
def Core.cold (k : Core) : Core :=
  { k with tlb := [], itlb := [], dtlb := [], pred := [], bitmap := [] }

/-- The locked TLB entries of a core are lost with its TLBs, and the loss is logged (R158). -/
def loseTlb (s : State) (c : Nat) : State :=
  let n := ((coreOf s c).tlb.filter (fun e => e.locked)).length
  let s := modCore s c Core.cold
  if n = 0 then s
  else logEv s { code := 0x13, cls := clsCorrected, kind := kCore, unit := c, d0 := n }

/-- ECLIPSE_RESUME: with the buffers drained and the lines written back, the spare takes the
identity and resumes (R342, R343). -/
def execEclipseResume (c : CoreNo) (s : State) : Host.Outcome State Fault Refusal :=
  match Tab.find s.moves c.val with
  | none => .next s
  | some (t0, due) =>
    let s := drainAll s c
    let k := coreOf s c
    if !k.sb.isEmpty || !k.cb.isEmpty then .next s
    else
      let s := loseTlb (flushCore s c) c
      let cl := c.val / 8
      let s := fput (fput s F.fltClspare_SST cl 2) F.fltClspare_RETIRED cl (c.val % 8)
      let keep := s.keep
      let s := { s with keep := { keep with cores := Tab.set keep.cores cl (c.val % 8) },
                        moves := Tab.erase s.moves c.val, replays := Tab.erase s.replays c.val }
      let s := retireArrays s kCore c
      let s := modCore s c (fun k => { k with fails := 0 })
      let s := logEv s { code := 0x11, cls := clsRecovered, kind := kCore, unit := c,
                         addr := (getPc s c).toNat, d0 := c.val % 8, d1 := tbOf s - t0 }
      .next ((upto due).foldl (fun s _ => dumpEvent s c) s)

/-! DRAM channels. -/

/-- The spare's channel fails: in service, the channel that it serves fails; a rebuild onto it ends
(R304). -/
def failSpare (s : State) (q cause : Nat) : State :=
  let sp := fget s F.memqStat_SPARE q
  let c := 16 * q + fget s F.memqStat_SPCH q
  let s := { fput s F.memqStat_SPARE q 3 with rebuilt := s.rebuilt.filter (fun x => x ≠ q) }
  if sp = 2 then failChan s c cause
  else if sp = 1 then degrade s c
  else s

/-- Whether the physical channel still serves its own logical channel. -/
def ownPhys (s : State) (q ch : Nat) : Bool :=
  !(decide (fget s F.memqStat_SPARE q = 2) && decide (fget s F.memqStat_SPCH q = ch)) &&
    !(s.keep.chans.contains (16 * q + ch))

/-- A physical channel fails. -/
def failPhys (s : State) (q ch cause : Nat) : State :=
  if ch = 16 then failSpare s q cause
  else if ownPhys s q ch then failChan s (16 * q + ch) cause
  else s

/-- CHANNEL_FAILED (R301). A training at COLD boot that started from the record's entry and fails is repeated
from defaults; only a second failure is a channel failure (R444; DESIGN CHOICE, assumption 137). -/
def execChannelFailed (q : Fin 4) (ch : Fin 17) (cause : Fin 4) (s : State) :
    Host.Outcome State Fault Refusal :=
  let i := 17 * q.val + ch.val
  if cause.val = 1 ∧ fbit s F.memqMode_INIT 0 = false ∧ fbit s F.calMstat_REC i = true then
    .next (fput s F.calMstat_REC i 0)
  else .next (failPhys s q ch cause)

/-- REBUILD_FRAME: the frame at RPTR is written to the spare (R302); none is left after the last. In PS1
a rebuild pauses (R305). -/
def execRebuildFrame (q : Fin 4) (s : State) : Host.Outcome State Fault Refusal :=
  if fget s F.memqStat_SPARE q = 1 && !s.dev.ps1 && !(s.rebuilt.contains q.val) then
    .next (rebuildFrame s q)
  else .next s

/-- REBUILD_DONE (R302): the spare is IN_SERVICE; the last advance of RPTR, past the last line, leaves
it 0. The row stands for the frames not yet written too: their lines keep their values, and those with
two unreadable members are written UNCORR when they are met (DESIGN CHOICE, assumption 122). -/
def execRebuildDone (q : Fin 4) (s : State) : Host.Outcome State Fault Refusal :=
  if fget s F.memqStat_SPARE q = 1 && !s.dev.ps1 then
    let ch := fget s F.memqStat_SPCH q
    let c := 16 * q.val + ch
    let s := fput (fput s F.memqStat_SPARE q 2) F.memqStat_RPTR q 0
    let s := if fget s F.memqStat_FLCH q = ch then fput s F.memqStat_DEGR q 0 else s
    let s := retireChan { s with degraded := s.degraded.filter (fun x => x ≠ c),
                                 rebuilt := s.rebuilt.filter (fun x => x ≠ q.val),
                                 bad := s.bad.filter (fun e => decide (e.1.1 ≠ c)) } c
    .next (logEv s { code := 0x34, cls := clsRecovered, kind := kChannel, unit := c,
                     d0 := (tbOf s - Tab.get 0 s.rebuildAt q.val) / 1000 })
  else .next s

/-- UNCORR_REWRITE_DONE (R303): a line reads as UNCORR before and after its rewrite; the spare now
serves the whole channel, and DEGR ends (DEDUCED, assumption 120). -/
def execUncorrRewriteDone (q : Fin 4) (s : State) : Host.Outcome State Fault Refusal :=
  let c := 16 * q.val + fget s F.memqStat_SPCH q
  if !(fbit s F.memqMode_PMODE 0) && decide (fget s F.memqStat_SPARE q = 2) &&
      decide (fget s F.memqStat_FLCH q = fget s F.memqStat_SPCH q) && !(s.deadCh.contains c) then
    .next (fput s F.memqStat_DEGR q 0)
  else .next s

/-- DRAM_INIT_DONE (R305): every device line holds zeros, INIT is set, and waiting accesses
proceed. -/
def execDramInitDone (s : State) : Host.Outcome State Fault Refusal :=
  if fbit s F.memqMode_INIT 0 then .next s
  else
    let top := visTop s
    let s := { s with mem := s.mem.filter (fun e => decide (top ≤ e.1)),
                      poison := s.poison.filter (fun e => decide (top ≤ 64 * e.1)), bulk := [],
                      bad := [], ccache := [] }
    .next (pumpAll (fput s F.memqMode_INIT 0 1))

/-- Index of physical channel `ch` of quadrant `q` in CAL_MSTAT. -/
def physIdx (q ch : Nat) : Nat := 17 * q + ch

/-- A recalibration step has failed; the second in succession is a channel failure (R301, R452). -/
def recalFailed (s : State) (q ch : Nat) : State :=
  let i := physIdx q ch
  let s := fsat s F.calMstat_RFAIL i 1
  if i ∈ s.calBad then failPhys { s with calBad := s.calBad.filter (fun x => x ≠ i) } q ch 1
  else { s with calBad := s.calBad ++ [i] }

/-- A recalibration step has succeeded. -/
def recalOk (s : State) (q ch : Nat) : State :=
  { s with calBad := s.calBad.filter (fun x => x ≠ physIdx q ch) }

/-- MR4_READ (R287): a step change calls for a WRITE_PATH_UPDATE at once, which is a row of its own;
the read itself is held in no register. -/
def execMr4Read (_ : Fin 4) (_ : Fin 17) (_ : Bool) (s : State) :
    Host.Outcome State Fault Refusal := .next s

/-- ZQ_CALIBRATION: a ZQ latch on each of the two ranks (R451, R452). In PS1 no step runs. -/
def execZqCalibration (q : Fin 4) (ch : Fin 17) (ok : Bool) (s : State) :
    Host.Outcome State Fault Refusal :=
  if s.dev.ps1 then .next s
  else if ok then .next (recalOk (fsat s F.calMstat_ZQCNT (physIdx q ch) 2) q ch)
  else .next (recalFailed s q ch)

/-- WRITE_PATH_UPDATE (R451, R452). -/
def execWritePathUpdate (q : Fin 4) (ch : Fin 17) (ok : Bool) (drift : BitVec 8) (s : State) :
    Host.Outcome State Fault Refusal :=
  let i := physIdx q ch
  if s.dev.ps1 then .next s
  else if ok then
    .next (recalOk (fput (fsat s F.calMstat_WUPD i 1) F.calMstat_DRIFT i drift.toNat) q ch)
  else .next (recalFailed s q ch)

/-- EQUALISER_UPDATE: the receiver asks its peer's transmitter in a CTRL flit (R451). -/
def execEqualiserUpdate (p : PortNo) (pos : Fin 17) (s : State) :
    Host.Outcome State Fault Refusal :=
  if portUp s p then .next (sendCtrl s p (.equalise pos) false) else .next s

/-! Columns and ways. -/

/-- Migration to the spare slice starts (R345); with no spare left it is fatal (R335). A second slice
that needs it while the first migrates waits for the spare, which it then finds IN_SERVICE (R29). -/
def migrateSlice (s : State) (n : Nat) : State :=
  let sst := fget s F.fltSlstat_SST 0
  if sst = 0 then
    let s := fput (fput s F.fltSlstat_SST 0 1) F.fltSlstat_MSLICE 0 n
    { s with migrating := some (n, tbOf s) }
  else if sst = 1 then
    if fget s F.fltSlstat_MSLICE 0 = n then s else { s with needSpare := addNew s.needSpare n }
  else fatal s 2 kSlice n

/-- Whether way `way` of an array can be disabled: not twice, and not the last one of a tracking
structure (R339; DESIGN CHOICE, assumption 127). -/
def wayFree (s : State) (a u way : Nat) : Bool :=
  hasWays a && !(s.keep.ways.contains (a, u, way)) && (Tab.find s.wayOut (a, u, way)).isNone &&
    !(decide (a = 0x11) && decide (waysOff s a u = 15)) &&
    !(decide (a = 0x12) && decide (waysOff s a u = 7))

/-- The lines of a set that have an entry in a tracking structure. -/
def setLines (s : State) (l : Nat) (inIt : LineRec → Bool) : List Nat :=
  (s.lines.filter (fun e => inIt e.2 && decide (sliceOf (64 * e.1) = sliceOf (64 * l)) &&
    decide (setOf (64 * e.1) = setOf (64 * l)))).map (fun e => e.1)

/-- The entries that a way of a tracking structure of slice `u` holds: at most one of each set, one of each
full set, and which one is not observable, so a free value says (R339; DESIGN CHOICE, assumption 127). -/
def wayEntries (s : State) (a u : Nat) : List Nat × State :=
  let inIt := if a = 0x11 then LineRec.inSf else LineRec.inRd
  let ways := (if a = 0x11 then 16 else 8) - waysOff s a u
  s.lines.foldl (fun (x : List Nat × State) e =>
    let ls := setLines x.2 e.1 inIt
    if sliceOf (64 * e.1) ≠ u ∨ ls.head? ≠ some e.1 then x
    else
      let (v, s) := takeFree x.2
      match ls[v % (if ways ≤ ls.length then ls.length else ls.length + 1)]? with
      | some l => (x.1 ++ [l], s)
      | none => (x.1, s)) ([], s)

/-- The lines that a way of a cache holds are written back: of those of the unit, the ones that a free value
says (R339; DESIGN CHOICE, assumption 127). -/
def emptyCache (s : State) (a u : Nat) : State :=
  s.lines.foldl (fun s e =>
    let here := if a = 0x10 then e.2.msc.isSome && decide (sliceOf (64 * e.1) = u)
      else e.2.present.contains u
    if !here then s
    else
      let (v, s) := takeFree s
      if v % 2 = 0 then s
      else if a = 0x10 then writeBack s e.1
      else flushLine s u e.1) s

/-- Whether an entry of a tracking structure has not left a way yet. -/
def stillIn (s : State) (a l : Nat) : Bool :=
  if a = 0x11 then (lrec s l).inSf else if a = 0x12 then (lrec s l).inRd else false

/-- A way goes on being emptied: its entries leave as R200 states, those with a request in progress or a hold
window later. Once all have left, the way is disabled (R339, R349). -/
def emptyWay (s : State) (e : (Nat × Nat × Nat) × List Nat) : State :=
  let (a, u, way) := e.1
  let s := e.2.foldl (fun s l =>
    if !(stillIn s a l) || (a == 0x12 && evicting s l) then s
    else if a = 0x11 then (if sfFree s (l, lrec s l) then dropSf s l else s)
    else if s.homeQ.any (fun q => q.line == l) then s
    else dropRd s l) s
  let left := e.2.filter (stillIn s a)
  if !left.isEmpty then { s with wayOut := Tab.set s.wayOut e.1 left }
  else
    let keep := s.keep
    let s := { s with wayOut := Tab.erase s.wayOut e.1, keep := { keep with ways := keep.ways ++ [e.1] } }
    let s := if arrayKind a = kSlice then fsat s F.fltSlstat_WAYOFF 0 1 else s
    logEv s { code := 0x03, cls := clsRecovered, kind := arrayKind a, unit := u, d0 := a, d1 := way }

/-- Every way that is being emptied goes on. -/
def emptyWays (s : State) : State := s.wayOut.foldl emptyWay s

/-- A way starts to be emptied, so that it can be disabled. -/
def startWay (s : State) (a u way : Nat) : State :=
  if a = 0x11 ∨ a = 0x12 then
    let (ls, s) := wayEntries s a u
    emptyWay s ((a, u, way), ls)
  else emptyWay (emptyCache s a u) ((a, u, way), [])

/-- The unit number of an array as R463 has it: the arrays of the device have one. -/
def arrayUnit (a u : Nat) : Nat := if arrayKind a = kDevice then 0 else u

/-- COLUMN_REPAIR: a redundant column starts to be filled; where none is free the way is disabled,
and a slice without a way to give migrates (R307, R339, R345). -/
def execColumnRepair (a : BitVec 8) (u sub col way : BitVec 16) (s : State) :
    Host.Outcome State Fault Refusal :=
  let a := a.toNat
  let u := arrayUnit a u.toNat
  let c := (a, u, sub.toNat, col.toNat)
  let room := if a = 0x30 then 4 else 2
  if !(secded a) then .next s
  else if colsUsed s a u sub.toNat col.toNat < room then
    .next { s with copying := addNew s.copying c }
  else if wayFree s a u way.toNat then .next (startWay s a u way.toNat)
  else if arrayKind a = kSlice then .next (migrateSlice s u)
  else .next s

/-- COLUMN_REPAIR_DONE: the copy ends, reads use the redundant column, and the repair is recorded. In a
scratchpad bank the copy has read each word through its error code (R307). -/
def execColumnRepairDone (a : BitVec 8) (u sub col : BitVec 16) (s : State) :
    Host.Outcome State Fault Refusal :=
  let u := arrayUnit a.toNat u.toNat
  let c := (a.toNat, u, sub.toNat, col.toNat)
  if c ∈ s.copying then
    let keep := s.keep
    let s := { s with copying := s.copying.erase c,
                      keep := { keep with columns := keep.columns ++ [c] } }
    let s := if a.toNat = 0x30 then
        fsat ((s.spdBad.filter (fun e => decide (e.1 % 64 = u))).foldl
          (fun s e => spdRead s (e.1 / 8)) s) F.spdStat_FREP 0 1
      else s
    .next (logEv s { code := 0x02, cls := clsRecovered, kind := arrayKind a.toNat, unit := u,
                     d0 := a.toNat, d1 := col.toNat })
  else .next s

/-! The spare slice. -/

/-- SLICE_MIGRATION (R345). -/
def execSliceMigration (n : Fin 64) (s : State) : Host.Outcome State Fault Refusal :=
  .next (migrateSlice s n)

/-- SLICE_MIGRATED: the spare serves the slice and its input queue (R345). A slice that waits for the
spare is now left without one, which is fatal (R335). -/
def execSliceMigrated (s : State) : Host.Outcome State Fault Refusal :=
  match s.migrating with
  | none => .next s
  | some (n, t0) =>
    let keep := s.keep
    let s := retireArrays { s with migrating := none, keep := { keep with slice := some n } } kSlice n
    let s := fput s F.fltSlstat_SST 0 2
    let s := pumpAll (logEv s { code := 0x20, cls := clsRecovered, kind := kSlice, unit := n,
                                d0 := tbOf s - t0 })
    .next (s.needSpare.foldl migrateSlice { s with needSpare := [] })

/-! Moon cores. -/

/-- The state of moon core `m` in FLT_MOON.ST, and the state with it set. -/
def moonSt (s : State) (m : Nat) : Nat := bitsOf (fget s F.fltMoon_ST 0) (2 * m + 1) (2 * m)
def setMoonSt (s : State) (m v : Nat) : State :=
  fput s F.fltMoon_ST 0 (setBitsOf (fget s F.fltMoon_ST 0) (2 * m + 1) (2 * m) v)

/-- The record of a live update (R352). -/
def logUpdate (s : State) (outcome : Nat) : State :=
  match s.svc.live with
  | some (old, new) =>
    let svc := s.svc
    let s := { s with svc := { svc with live := none } }
    logEv s { code := 0x51, cls := clsRecovered, kind := kMoon, unit := fget s F.fltMoon_UCORE 0,
              d0 := old, d1 := new, d2 := outcome }
  | none => s

/-- The live update stops, if one runs: the changing core returns to its tasks (R347). -/
def stopUpdate (s : State) (outcome : Nat) : State :=
  if fget s F.fltMoon_UPD 0 = 1 ∨ fget s F.fltMoon_UPD 0 = 2 then
    let u := fget s F.fltMoon_UCORE 0
    let s := if moonSt s u = 1 then setMoonSt s u 0 else s
    logUpdate (fput s F.fltMoon_UPD 0 4) outcome
  else s

/-- MOON_LOST (R335, R346, R347): the tasks move to their standbys; a second loss is fatal. -/
def execMoonLost (n : Fin 4) (err : Bool) (s : State) : Host.Outcome State Fault Refusal :=
  if moonSt s n = 2 then .next s
  else
    let other := (upto 4).any (fun m => decide (m ≠ n.val) && decide (moonSt s m = 2))
    let s := setMoonSt s n 2
    let s := logEv s { code := 0x50, cls := clsRecovered, kind := kMoon, unit := n,
                       d0 := b2n err }
    let s := if fget s F.fltMoon_UPD 0 = 2 then stopUpdate s 2 else s
    .next (if other then fatal s 1 kMoon n else s)

/-- The next moon core below `m` that is not LOST. -/
def nextMoon (s : State) (m : Nat) : Option Nat :=
  ((upto m).reverse).find? (fun j => decide (moonSt s j ≠ 2))

end Sys2Proof.Machine
end

