-- ==== Sys2Proof/Machine/Flash.lean ====
section
/-! DEFINITION. Fuses (R372), boot flash (R353–R354), slots and their checks (R355–R358, R362), the
status record (R359), and the user calibration record (R445–R447). -/

namespace Sys2Proof.Machine

/-! Fuses. -/

/-- The number of one bits among the low `n` bits. -/
def onesOf (v : Nat) : Nat → Nat
  | 0 => 0
  | n + 1 => onesOf v n + b2n (bit v n)

/-- Bytes of the protection fuses (R372). -/
def fuse (s : State) (o n : Nat) : List Byte := Memory.readBytes s.keep.fuses o n

/-- The device ID, 16 bytes (R372). -/
def devId (s : State) : List Byte := fuse s 0x130 16

/-- Root key hash `k` (R372). -/
def rkh (s : State) (k : Nat) : List Byte := fuse s (48 * k) 48

/-- Whether a hash is not fused: all zeros. -/
def unfused (h : List Byte) : Bool := h.all (fun b => decide (b = 0))

/-- The life-cycle state that the fuses hold: a thermometer of 6 bits, SCRAP at most (R368, R372). -/
def fusedLc (s : State) : Nat := min (onesOf (leNat (fuse s 0xC4 4)) 6) 5

/-- The rollback floor that the fuses hold (R372). -/
def fusedFloor (s : State) : Nat := onesOf (leNat (fuse s 0xC8 32)) 255

/-- The state with fuse bytes burned: one bits are added. -/
def burn (s : State) (o : Nat) (bs : List Byte) : State :=
  let keep := s.keep
  let new := List.zipWith (fun a b => a ||| b) (fuse s o bs.length) bs
  { s with keep := { keep with fuses := Memory.writeBytes keep.fuses o new } }

/-- A thermometer of `n` burned bits in `k` bytes. -/
def thermo (n k : Nat) : List Byte := natLe (2 ^ n - 1) k

/-! Flash bytes. -/

/-- Whether a range of flash holds a sector that fails to read or program (R358, R363). -/
def flashFails (s : State) (a n : Nat) : Bool :=
  s.keep.flashBad.any (fun b => decide (4096 * b < a + n) && decide (a < 4096 * (b + 1)))

/-- `n` bytes of flash; an erased byte reads 0xFF. -/
def flashRead (s : State) (a n : Nat) : List Byte :=
  (Memory.readBytes s.keep.flash a n).map (fun b => ~~~b)

/-- A change of flash is noted with the others of this TB: a command that writes flash takes time, so power
lost at that TB may find it under way (R363; DESIGN CHOICE, assumption 134). -/
def noteFlash (s : State) (op : FlashOp) : State :=
  let tb := tbOf s
  let svc := s.svc
  let old := if svc.flashAt = tb then svc.flashOps else []
  { s with svc := { svc with flashAt := tb, flashOps := old ++ [op] } }

/-- The cells of flash in a range. -/
def flashCells (s : State) (a n : Nat) : Memory :=
  s.keep.flash.filter (fun e => decide (a ≤ e.1) && decide (e.1 < a + n))

/-- The flash with a range erased. -/
def flashErase (s : State) (a n : Nat) : State :=
  let s := noteFlash s (.bytes a n 4096 (flashCells s a n))
  let keep := s.keep
  let out (e : Host.Cell) : Bool := decide (e.1 < a) || decide (a + n ≤ e.1)
  { s with keep := { keep with flash := keep.flash.filter out } }

/-- Bytes are programmed, which only clears bits of NOR flash; whether the readback matches, which it does
not in a sector that fails. -/
def flashProgram (s : State) (a : Nat) (bs : List Byte) : Bool × State :=
  let new := List.zipWith (fun x y => x &&& y) (flashRead s a bs.length) bs
  let s := noteFlash s (.bytes a bs.length 1 (flashCells s a bs.length))
  let keep := s.keep
  let m := Memory.writeBytes keep.flash a (new.map (fun b => ~~~b))
  (decide (new = bs) && !(flashFails s a bs.length), { s with keep := { keep with flash := m } })

/-- A change of flash of which only the first `k` units were made; a copy of the calibration record whose
write was not finished is no usable copy (R363, R447). -/
def tearOp (s : State) (op : FlashOp) (k : Nat) : State :=
  let keep := s.keep
  match op with
  | .bytes a n unit old =>
    let b := a + unit * k
    let out (e : Host.Cell) : Bool := decide (e.1 < b) || decide (a + n ≤ e.1)
    let m := (old.filter (fun e => decide (b ≤ e.1))).foldl (fun m e => Memory.write m e.1 e.2)
      (keep.flash.filter out)
    { s with keep := { keep with flash := m } }
  | .cal i old =>
    let c := if k = 0 then old else none
    { s with keep := if i = 1 then { keep with cal1 := c } else { keep with cal0 := c } }

/-- The units of a change. -/
def FlashOp.units : FlashOp → Nat
  | .bytes _ n unit _ => n / unit
  | .cal _ _ => 1

/-- Power is lost while flash may be written (R363): of the changes at this TB, a free number is complete,
the next one is made in part, and the rest are not begun. -/
def tearFlash (s : State) : State :=
  let ops := if s.svc.flashAt = tbOf s then s.svc.flashOps else []
  if ops.isEmpty then s
  else
    let (v, s) := takeFree s
    let (u, s) := takeFree s
    match ops.drop (v % (ops.length + 1)) with
    | [] => s
    | op :: later =>
      tearOp (later.reverse.foldl (fun s o => tearOp s o 0) s) op (u % (op.units + 1))

/-- A little-endian field of `n` bytes at an offset. -/
def fieldAt (bs : List Byte) (o n : Nat) : Nat := leNat ((bs.drop o).take n)

/-- Whether `n` bytes at an offset are zero. -/
def zeroAt (bs : List Byte) (o n : Nat) : Bool := ((bs.drop o).take n).all (fun b => decide (b = 0))

/-! Slots (R354–R358). -/

/-- Flash offset of slot A (0) or B (1). -/
def slotBase (i : Nat) : Nat := if i = 0 then 0x1000000 else 0x2000000
/-- Size of a slot, and the slot offset of its commit sector. -/
def slotSize : Nat := 0x1000000
def commitAt : Nat := 0xFFF000

/-- The header of a slot. -/
def slotHeader (s : State) (i : Nat) : List Byte := flashRead s (slotBase i) 1024

/-- Header fields. -/
def hdrSeq (h : List Byte) : Nat := fieldAt h 8 4
def hdrFlags (h : List Byte) : Nat := fieldAt h 12 4
def hdrMinLive (h : List Byte) : Nat := fieldAt h 16 4
def hdrKey (h : List Byte) : Nat := fieldAt h 20 1
def hdrCrc (h : List Byte) : Nat := fieldAt h 0x3FC 4

/-- The image entries in use, 80 bytes each. -/
def imgEnts (h : List Byte) : List (List Byte) :=
  (upto (fieldAt h 6 2)).map (fun i => (h.drop (0x100 + 80 * i)).take 80)

/-- Fields of an image entry (R356). -/
def imgType (e : List Byte) : Nat := fieldAt e 0 1
def imgOff (e : List Byte) : Nat := fieldAt e 4 4
def imgLen (e : List Byte) : Nat := fieldAt e 8 4
def imgEntry (e : List Byte) : Nat := fieldAt e 12 4
def imgLoad (e : List Byte) : Nat := fieldAt e 16 8
def imgDigest (e : List Byte) : List Byte := (e.drop 0x20).take 48

/-- Whether an image entry keeps the rules of R356. -/
def imgOk (s : State) (e : List Byte) : Bool :=
  let t := imgType e
  let dram := decide (0x10 ≤ t) && decide (t ≤ 0x1F)
  let room := if t = 1 then 512 * 1024 else if t = 2 then 768 * 1024
    else if t = 3 then 60 * 1024 else commitAt
  (decide (1 ≤ t ∧ t ≤ 3) || dram) && zeroAt e 1 3 && zeroAt e 24 8 &&
    decide (imgOff e % 4096 = 0) && decide (imgLen e ≤ room) &&
    decide (imgOff e + imgLen e ≤ commitAt) &&
    (if t = 1 ∨ t = 2 then decide (imgEntry e % 4 = 0) else decide (imgEntry e = 0)) &&
    (if dram then decide (imgLoad e % 64 = 0) && inDram s (imgLoad e) (imgLen e)
     else decide (imgLoad e = 0))

/-- Check 2 of R358: the form of the header. -/
def hdrOk (s : State) (h : List Byte) : Bool :=
  let n := fieldAt h 6 2
  let es := imgEnts h
  let num (t : Nat) : Nat := (es.filter (fun e => decide (imgType e = t))).length
  decide (fieldAt h 0 4 = 0x42544C55) && decide (fieldAt h 4 2 = 1) && decide (1 ≤ n) &&
    decide (n ≤ 8) && decide (num 1 = 1) && decide (num 2 = 1) && decide (num 3 ≤ 1) &&
    es.all (imgOk s) && zeroAt h (0x100 + 80 * n) (80 * (8 - n)) && decide (hdrFlags h < 2) &&
    zeroAt h 0x15 11 && zeroAt h 0x81 127 && zeroAt h 0x3E0 28 &&
    decide (hdrSeq h ≠ 0xFFFFFFFF) && decide (hdrCrc h = crc32 (h.take 0x3FC))

/-- Check 3 of R358: the key of the header is a fused, unrevoked root key; in RETURN only key 3
(R368). -/
def keyOk (s : State) (h : List Byte) : Bool :=
  let k := hdrKey h
  let pub := (h.drop 0x20).take 97
  decide (k < 4) && !(bit (fieldAt (fuse s 0xC0 4) 0 4) k) && !(unfused (rkh s k)) &&
    decide (sha384 pub = rkh s k) &&
    (decide (fget s F.lcState_STATE 0 ≠ 4) || decide (k = 3))

/-- Check 4 of R358: the signature. -/
def sigOk (h : List Byte) : Bool :=
  ecdsaOk ((h.drop 0x20).take 97) (sha384 (h.take 0x380)) ((h.drop 0x380).take 96)

/-- The commit word of a header (R357). -/
def commitWord (h : List Byte) : List Byte :=
  let w := natLe 0x4D434C55 4 ++ natLe (hdrSeq h) 4 ++ natLe (hdrCrc h) 4
  w ++ natLe (crc32 w) 4

/-- The bytes of an image in its slot. -/
def imgBytes (s : State) (i : Nat) (e : List Byte) : List Byte :=
  flashRead s (slotBase i + imgOff e) (imgLen e)

/-- Whether an image is read from its slot and matches its digest. -/
def imgGood (s : State) (i : Nat) (e : List Byte) : Bool :=
  !(flashFails s (slotBase i + imgOff e) (imgLen e)) &&
    decide (sha384 (imgBytes s i e) = imgDigest e)

/-- Check 7 of R358: every image matches its digest. -/
def imgsOk (s : State) (i : Nat) (h : List Byte) : Bool := (imgEnts h).all (imgGood s i)

/-- The WHY code of slot `i` by checks 1 to 4 and 6 and, at boot, 5 (R358), in
their order; 0 where they pass. -/
def slotWhy (s : State) (i : Nat) (boot : Bool) : Nat :=
  let h := slotHeader s i
  if flashFails s (slotBase i) 1024 || flashFails s (slotBase i + commitAt) 4096 then 8
  else if !(hdrOk s h) then 1
  else if !(keyOk s h) then 2
  else if !(sigOk h) then 3
  else if boot && !(decide (flashRead s (slotBase i + commitAt) 16 = commitWord h)) then 4
  else if hdrSeq h < fusedFloor s * 2 ^ 24 then 5
  else 0

/-! The status record (R359). -/

/-- The status record: `tslot` 0xFF is none. -/
structure BootRec where
  gen : Nat
  tslot : Nat
  epoch : Nat
  tseq : Nat
  confa : Nat
  confb : Nat
  reja : Nat
  rejb : Nat
  deriving DecidableEq, Repr

/-- The record that is taken when no copy is usable. -/
def BootRec.none : BootRec :=
  { gen := 0, tslot := 0xFF, epoch := 0, tseq := 0, confa := 0xFFFFFFFF, confb := 0xFFFFFFFF,
    reja := 0xFFFFFFFF, rejb := 0xFFFFFFFF }

/-- CONF and REJ of a slot. -/
def BootRec.conf (r : BootRec) (i : Nat) : Nat := if i = 0 then r.confa else r.confb
def BootRec.rej (r : BootRec) (i : Nat) : Nat := if i = 0 then r.reja else r.rejb

/-- The 64 bytes of a record. -/
def BootRec.bytes (r : BootRec) : List Byte :=
  let b := natLe 0x54534C55 4 ++ natLe r.gen 4 ++ natLe r.tslot 1 ++ natLe r.epoch 1 ++ natLe 0 2 ++
    natLe r.tseq 4 ++ natLe r.confa 4 ++ natLe r.confb 4 ++ natLe r.reja 4 ++ natLe r.rejb 4 ++
    natLe 0 28
  b ++ natLe (crc32 b) 4

/-- A usable copy of the record. -/
def readStatus (s : State) (i : Nat) : Option BootRec :=
  let b := flashRead s (4096 * i) 64
  if flashFails s (4096 * i) 64 then none
  else if fieldAt b 0 4 = 0x54534C55 ∧ fieldAt b 0x3C 4 = crc32 (b.take 0x3C) then
    some { gen := fieldAt b 4 4, tslot := fieldAt b 8 1, epoch := fieldAt b 9 1,
           tseq := fieldAt b 12 4, confa := fieldAt b 16 4, confb := fieldAt b 20 4,
           reja := fieldAt b 24 4, rejb := fieldAt b 28 4 }
  else none

/-- Whether generation `a` is higher than `b` (R359). -/
def genAbove (a b : Nat) : Bool :=
  let d := (a + 2 ^ 32 - b) % 2 ^ 32
  decide (1 ≤ d) && decide (d < 2 ^ 31)

/-- The newest copy: its number and generation. Of two usable copies neither of which is higher (GENs equal,
or 2^31 apart) it is copy 0 (DESIGN CHOICE, assumption 135). -/
def newestOf (a b : Option Nat) : Option (Nat × Nat) :=
  match a, b with
  | none, none => none
  | some x, none => some (0, x)
  | none, some y => some (1, y)
  | some x, some y => if genAbove y x then some (1, y) else some (0, x)

/-- The newest status record, and the copy that holds it (R359). -/
def newestStatus (s : State) : BootRec × Option Nat :=
  let a := readStatus s 0
  let b := readStatus s 1
  match newestOf (a.map (fun r => r.gen)) (b.map (fun r => r.gen)) with
  | some (0, _) => (a.getD BootRec.none, some 0)
  | some (_, _) => (b.getD BootRec.none, some 1)
  | none => (BootRec.none, none)

/-- Writes the status record into the copy that is not the newest (R359); whether the readback matches. With
no usable copy it is copy 0 with GEN 1, and TSEQ is taken as 0 (DESIGN CHOICE, assumption 135). -/
def writeStatus (s : State) (r : BootRec) : Bool × State :=
  let (old, at_) := newestStatus s
  let i := if at_ = some 0 then 1 else 0
  flashProgram (flashErase s (4096 * i) 4096) (4096 * i)
    { r with gen := (old.gen + 1) % 2 ^ 32 }.bytes

/-! The user calibration record (R445–R449). -/

/-- Where copy `i` of the record lies in flash (R445). -/
def calAt (i : Nat) : Nat := 0x100000 + 0x80000 * i
def calSize : Nat := 104512

/-- Copy `i`, where flash reads it (R445). -/
def calCopy (s : State) (i : Nat) : Option CalCopy :=
  if flashFails s (calAt i) calSize then none
  else if i = 0 then s.keep.cal0 else s.keep.cal1

/-- Whether a copy is usable: it carries the device's own ID (R446). -/
def calUsable (s : State) (c : Option CalCopy) : Option CalCopy :=
  match c with
  | some x => if x.devid = leNat (devId s) then some x else none
  | none => none

/-- The newest usable copy, and its number (R446). -/
def calNewest (s : State) : Option (Nat × CalCopy) :=
  let a := calUsable s (calCopy s 0)
  let b := calUsable s (calCopy s 1)
  match newestOf (a.map (fun c => c.gen)) (b.map (fun c => c.gen)) with
  | some (0, _) => a.map (fun c => (0, c))
  | some (_, _) => b.map (fun c => (1, c))
  | none => none

/-- CAL_REC shows the copies (R446). -/
def showCal (s : State) : State :=
  let other (c : Option CalCopy) : Bool := c.isSome && (calUsable s c).isNone
  let s := fput s F.calRec_GEN 0 (((calNewest s).map (fun x => x.2.gen)).getD 0)
  let s := fput s F.calRec_C0 0 (b2n (calUsable s (calCopy s 0)).isSome)
  let s := fput s F.calRec_C1 0 (b2n (calUsable s (calCopy s 1)).isSome)
  fput s F.calRec_DEVX 0 (b2n (other (calCopy s 0) || other (calCopy s 1)))

/-- One copy write: the entries of the newest usable copy, changed for some units (R447); whether its
readback matches. -/
def writeCal (s : State) (f : Bool × Bool → Bool × Bool) (units : List Nat) : Bool × State :=
  let old := calNewest s
  let base := (old.map (fun x => x.2.ents)).getD []
  let ents := units.foldl (fun t u => Tab.set t u (f (Tab.get (false, false) t u))) base
  let c : CalCopy := { gen := ((old.map (fun x => x.2.gen)).getD 0 + 1) % 2 ^ 32,
                       devid := leNat (devId s), ents := ents }
  let i := if (old.map (fun x => x.1)) = some 0 then 1 else 0
  let s := noteFlash s (.cal i (if i = 1 then s.keep.cal1 else s.keep.cal0))
  let keep := s.keep
  let ok := !(flashFails s (calAt i) calSize)
  let keep := if i = 1 then { keep with cal1 := some c } else { keep with cal0 := some c }
  (ok, showCal (fput { s with keep := keep } F.calRec_WST 0 (if ok then 1 else 2)))

/-- Both copies are written, one after the other, as R386 has CAL_SAVE do; whether both readbacks match
(R447). -/
def writeCals (s : State) (f : Bool × Bool → Bool × Bool) (units : List Nat) : Bool × State :=
  let (ok, s) := writeCal s f units
  if ok then writeCal s f units else (false, s)

/-- Whether the repair record can be read: one of its two copies lies in a sector that works (R354). -/
def repairReads (s : State) : Bool := !(flashFails s 0x2000 4096) || !(flashFails s 0x3000 4096)

/-- The number of a unit of the record: lane position `p` of group `g`, or physical channel `k` of
quadrant `q` after the 544 lanes (R445). -/
def calLane (g p : Nat) : Nat := 17 * g + p
def calChan (q k : Nat) : Nat := 544 + 17 * q + k

/-- STALE and PEND of a unit shown in CAL_GSTAT or CAL_MSTAT. -/
def showStale (s : State) (u : Nat) (b : Bool) : State :=
  if u < 544 then
    fput s F.calGstat_STALE (u / 17) (bit17 (fget s F.calGstat_STALE (u / 17)) (u % 17) b)
  else fput s F.calMstat_STALE (u - 544) (b2n b)
def showPend (s : State) (u : Nat) (b : Bool) : State :=
  if u < 544 then
    fput s F.calGstat_PEND (u / 17) (bit17 (fget s F.calGstat_PEND (u / 17)) (u % 17) b)
  else fput s F.calMstat_PEND (u - 544) (b2n b)

/-- Every unit of a scope (R448); none for a pair that CAL_SAVE refuses. -/
def calScope (scope unit : Nat) : Option (List Nat) :=
  let lanes (g : Nat) : List Nat := (upto 17).map (calLane g)
  let chans (q : Nat) : List Nat := (upto 17).map (calChan q)
  if scope = 0 ∧ unit = 0 then some (upto 612)
  else if scope = 1 ∧ unit < 32 then some (lanes unit)
  else if scope = 2 ∧ unit < 4 then some (chans unit)
  else none

/-- Whether a unit is in service, so that CAL_SAVE takes its coefficients (R448). -/
def calInService (s : State) (u : Nat) : Bool :=
  if u < 544 then
    let g := u / 17
    let up (j : Nat) : Bool := match portAt s g j with
      | some p => portUp s p
      | none => false
    if u % 17 = 16 then decide (fget s F.fabGstat_SST g ≠ 3) && (upto 16).any up
    else up (u % 17) && decide (physLane s g (u % 17) = u % 17)
  else
    let q := (u - 544) / 17
    let k := (u - 544) % 17
    let sp := fget s F.memqStat_SPARE q
    if k = 16 then decide (sp = 0 ∨ sp = 2)
    else
      let c := 16 * q + k
      ownPhys s q k && !(s.degraded.contains c) && !(s.deadCh.contains c)

end Sys2Proof.Machine
end

