-- ==== Sys2Proof/Machine/Packet.lean ====
section
/-! DEFINITION. Command packets (R379, R380), where replies go (R374–R377), the service mailbox's reply
ring (R393), and the rack key (R381). -/

namespace Sys2Proof.Machine

/-! Status codes (R392). -/
def stOk : Nat := 0x00
def stBadFormat : Nat := 0x01
def stNoKey : Nat := 0x02
def stBadMac : Nat := 0x03
def stStale : Nat := 0x04
def stReused : Nat := 0x05
def stBusy : Nat := 0x06
def stNotReady : Nat := 0x07
def stBadOpcode : Nat := 0x08
def stBadLength : Nat := 0x09
def stBadParam : Nat := 0x0A
def stBadState : Nat := 0x0B
def stFlowExists : Nat := 0x10
def stNoFlow : Nat := 0x11
def stBadPin : Nat := 0x12
def stNoRate : Nat := 0x13
def stNoBurst : Nat := 0x14
def stFlowFull : Nat := 0x15
def stIndexBusy : Nat := 0x18
def stNoEntry : Nat := 0x19
def stFlashError : Nat := 0x20
def stBadImage : Nat := 0x21
def stNoTrial : Nat := 0x22
def stTrialExpired : Nat := 0x23
def stInTrial : Nat := 0x24
def stNotStandby : Nat := 0x28
def stNoRootKey : Nat := 0x29
def stBackward : Nat := 0x2A

/-- A command packet (R379). -/
structure Pkt where
  magic : Nat
  op : Nat
  tag : Nat
  flags : Nat
  len : Nat
  status : Nat
  seq : Nat
  mac : List Byte
  params : List Byte
  deriving DecidableEq, Repr

/-- The packet that bytes hold; bytes that did not arrive read as zero. -/
def parsePkt (bs : List Byte) : Pkt :=
  let n := fieldAt bs 8 2
  let ps := (bs.drop 32).take n
  { magic := fieldAt bs 0 2, op := fieldAt bs 2 2, tag := fieldAt bs 4 2, flags := fieldAt bs 6 2,
    len := n, status := fieldAt bs 10 2, seq := fieldAt bs 12 4, mac := natLe (fieldAt bs 16 16) 16,
    params := ps ++ List.replicate (min n 192 - ps.length) 0 }

/-- The bytes of a packet with a MAC of its own. -/
def Pkt.bytesWith (p : Pkt) (mac : List Byte) : List Byte :=
  natLe p.magic 2 ++ natLe p.op 2 ++ natLe p.tag 2 ++ natLe p.flags 2 ++ natLe p.len 2 ++
    natLe p.status 2 ++ natLe p.seq 4 ++ mac ++ p.params

/-- The rack key, if one is held. -/
def rackKey (s : State) : Option (List Byte) :=
  if fbit s F.svcKey_HELD 0 then s.keep.key else none

/-- The MAC of a packet; zero when no rack key is held (R380). -/
def pktMac (s : State) (p : Pkt) : List Byte :=
  match rackKey s with
  | some k => (hmac256 k (devId s ++ s.svc.session ++ p.bytesWith (natLe 0 16))).take 16
  | none => natLe 0 16

/-- The bytes of a reply (R379). -/
def replyBytes (s : State) (op : Nat) (tag seq status : Nat) (params : List Byte) : List Byte :=
  let p : Pkt := { magic := 0x5645, op := op, tag := tag, flags := 1, len := params.length,
                   status := status, seq := seq, mac := [], params := params }
  p.bytesWith (pktMac s p)

/-! The reply ring of the mailbox (R393). -/

/-- Entries of a mailbox ring. -/
def rspSize (s : State) : Nat := 2 ^ (fget s F.svcRsp_SIZE 0 + 4)

/-- Whether the reply ring takes an entry. -/
def rspRoom (s : State) : Bool :=
  fbit s F.svcRsp_EN 0 && !s.dev.halted &&
    decide ((fget s F.svcRspidx_WIDX 0 + 2 ^ 32 - fget s F.svcRspidx_RIDX 0) % 2 ^ 32 <
      rspSize s) &&
    inDram s (fget s F.svcRsp_BASE 0 * 4096) (256 * rspSize s)

/-- Writes held replies while the ring takes them; at most `n`. -/
def writeRsp (s : State) : Nat → State
  | 0 => s
  | n + 1 =>
    match s.svc.rspHeld with
    | [] => s
    | e :: es =>
      if rspRoom s then
        let w := fget s F.svcRspidx_WIDX 0
        let a := fget s F.svcRsp_BASE 0 * 4096 + w % rspSize s * 256
        let (ok, t) := devTryAll s a e 5
        if ok then
          let svc := t.svc
          let t := fput { t with svc := { svc with rspHeld := es } } F.svcRspidx_WIDX 0 (w + 1)
          writeRsp (raiseVec t (fget t F.svcInt_TARGET 0) (fget t F.svcInt_VECTOR 0)) n
        else t
      else s

/-- Writes what can be written of the held replies. -/
def flushRsp (s : State) : State := writeRsp s s.svc.rspHeld.length

/-- A packet for the reply ring: SRC, transport of arrival (0 this node, 1 TC3), port and KIND. With
64 held, it is dropped. -/
def pushRsp (s : State) (src tr port kind : Nat) (bs : List Byte) : State :=
  let body := bs.take 224
  let e := natLe src 2 ++ natLe tr 1 ++ natLe 0 1 ++ natLe port 2 ++ natLe kind 1 ++ natLe 0 9 ++
    body ++ List.replicate (240 - body.length) 0
  if 64 ≤ s.svc.rspHeld.length then fsat s F.svcCstat_DROPPED 0 1
  else
    let svc := s.svc
    flushRsp { s with svc := { svc with rspHeld := svc.rspHeld ++ [e] } }

/-! Replies. -/

/-- Bytes as granules; the last one is padded with zeros (R374). -/
def granules : List Byte → Nat → List (BitVec 128)
  | _, 0 => []
  | bs, n + 1 =>
    if bs.isEmpty then []
    else BitVec.ofNat 128 (leNat (bs.take 16)) :: granules (bs.drop 16) n

/-- A CMD message of this node (R248, R374). -/
def sendCmd (s : State) (dst port : Nat) (bs : List Byte) : State :=
  (sendSeq s { newMsg s dst 3 opCmd false with
    stream := 0xFF#8, data := granules bs 15, port := Fin.ofNat 512 port }).2

/-- The mandatory data byte of an in-band interrupt (R376). -/
def ibiByte : Byte := 0x01

/-- A reply becomes pending at the I3C target and raises an in-band interrupt where ENEC has enabled them; a
ninth drops the oldest (R377). -/
def pushI3c (s : State) (bs : List Byte) : State :=
  let svc := s.svc
  let old := if 8 ≤ svc.replies.length then svc.replies.drop 1 else svc.replies
  { s with svc := { svc with replies := old ++ [bs], ibiRaised := if svc.ibi then some ibiByte else svc.ibiRaised } }

/-- A reply leaves by the way its request came; while the ROM has halted and in BLANK the switch does not
forward (R374, R375, R378). -/
def sendReply (s : State) (o : Origin) (bs : List Byte) : State :=
  match o with
  | .tc3 src port =>
    if switchOn s && !s.dev.romHalt && decide (fget s F.lcState_STATE 0 ≠ 0) then
      sendCmd s src.toNat port bs
    else s
  | .i3c => pushI3c s bs
  | .mailbox => if s.dev.halted then s else pushRsp s (selfId s) 0 0 0 bs

/-- A reply that copies the TAG and SEQ of its request. -/
def reply (s : State) (o : Origin) (op tag seq status : Nat) (params : List Byte) : State :=
  sendReply s o (replyBytes s op tag seq status params)

/-- The parameters of the IDENTIFY reply (R387). -/
def identity (s : State) : List Byte :=
  let run := decide (s.dev.service ∧ !s.dev.halted)
  let flags := b2n (fbit s F.svcKey_HELD 0) + 2 * b2n run + 4 * b2n (s.dev.halted || s.dev.romHalt) +
    8 * fget s F.bootStat_TRIAL 0
  devId s ++ natLe (leNat s.svc.session) 16 ++ natLe (selfId s) 2 ++
    natLe (fget s F.nodeSelf_EPOCH 0) 1 ++ natLe (fget s F.lcState_STATE 0) 1 ++ natLe 0x9612 2 ++
    natLe flags 2 ++ natLe (rd s .bootStat 0).toNat 8 ++ natLe (rd s .fltFatal 0).toNat 8 ++
    natLe (fget s F.svcCstat_HSEQ 0) 4 ++ natLe 0 4

/-! The rack key (R381). -/

/-- Whether the device key is destroyed (KDEST, R372). -/
def keyDead (s : State) : Bool := bit (leNat (fuse s 0x120 1)) 0

/-- The last four words shifted in, the oldest first. -/
def lastFour (ws : List Word) : List Word := (([0, 0, 0, 0] ++ ws).reverse.take 4).reverse

/-- A word is shifted in. -/
def shiftKey (s : State) (v : Word) : State :=
  let svc := s.svc
  { s with svc := { svc with keyw := lastFour (svc.keyw ++ [v]) } }

/-- The last four words become the key, unless one is held. After KDEST it cannot be unwrapped. -/
def setKey (s : State) : State :=
  if fbit s F.svcKey_HELD 0 then s
  else
    let svc := s.svc
    let keep := s.keep
    let k := (lastFour svc.keyw).flatMap (fun w => natLe w.toNat 8)
    fput { s with keep := { keep with key := some k }, svc := { svc with keyw := [] } }
      F.svcKey_HELD 0 (b2n (!(keyDead s)))

/-- The key is erased from both copies. -/
def eraseKey (s : State) : State :=
  let keep := s.keep
  fput { s with keep := { keep with key := none } } F.svcKey_HELD 0 0

/-- A write of SVC_KEY: ERASE, then SET. -/
def writeSvcKey (s : State) (v : Word) : State :=
  let s := if bit v.toNat 62 then eraseKey s else s
  if bit v.toNat 61 then setKey s else s

/-- KEY_SET (R381). -/
def execKeySet (s : State) : Host.Outcome State Fault Refusal := .next (setKey s)

/-- KEY_ERASE (R381). -/
def execKeyErase (s : State) : Host.Outcome State Fault Refusal := .next (eraseKey s)

/-- SVC_KEYW_WRITE (R381). -/
def execSvcKeywWrite (v : Word) (s : State) : Host.Outcome State Fault Refusal :=
  .next (shiftKey s v)

end Sys2Proof.Machine
end

