-- ==== Sys2Proof/Machine/Commands.lean ====
section
/-! DEFINITION. The opcodes of command packets (R386), their two lanes (R384), and the acceptance of
requests (R382, R383). -/

namespace Sys2Proof.Machine

/-- How far a command has come: complete, with its status and reply parameters; waiting in its lane; or
gone from its lane without a reply yet (R384, R391). -/
inductive JobOut where
  | done (status : Nat) (params : List Byte)
  | wait
  | left
  deriving DecidableEq, Repr

/-- A refusal, which changes nothing (R392). -/
def refuse (s : State) (st : Nat) : JobOut × State := (.done st [], s)

/-- A command that is complete with no reply parameters. -/
def okDone (s : State) : JobOut × State := (.done stOk [], s)

/-- A parameter field. -/
def pAt (k : Command) (o n : Nat) : Nat := fieldAt k.params o n

/-! Ports (R215, R386). -/

/-- PORT_SET: its checks; the change applies after the reply (`afterReply`). -/
def cmdPortSet (s : State) (k : Command) : JobOut × State :=
  if k.params.length ≠ 8 then refuse s stBadLength
  else if 32 ≤ pAt k 0 1 ∨ 4 ≤ pAt k 1 1 ∨ !(gcfgOk (pAt k 2 6)) then refuse s stBadParam
  else okDone s

/-- The change that PORT_SET makes. -/
def doPortSet (s : State) (k : Command) : State :=
  setGroup s (pAt k 0 1) (bit (pAt k 1 1) 0) (bit (pAt k 1 1) 1) (pAt k 2 6)

/-- PORT_STATUS: the registers of a port; FAB_PERR clears as an RC read. -/
def cmdPortStatus (s : State) (k : Command) : JobOut × State :=
  let p := pAt k 0 2
  if k.params.length ≠ 2 then refuse s stBadLength
  else if !(decide (p < 512) && portExists s p) then refuse s stBadParam
  else
    let perr := (rd s .fabPerr p).toNat
    let ps := natLe (rd s .fabPstat p).toNat 8 ++ natLe perr 8 ++
      natLe (rd s .fabGstat (p / 16)).toNat 8 ++ natLe (rd s .tidePres p).toNat 8
    (.done stOk ps, wr s .fabPerr p (w64 (fieldClear .fabPerr perr fullMask)))

/-! Routes (R261–R263, R388). -/

/-- A record of NODE_ROUTE_STAGE is acceptable. -/
def recOk (r : List Byte) : Bool :=
  decide (fieldAt r 0 2 ≠ 0xFFFF) && decide (fieldAt r 2 2 < 2 ^ 12) &&
    decide (fieldAt r 4 2 < 2 ^ 10) && decide (fieldAt r 6 2 = 0)

/-- One record enters the shadow bank. -/
def stageOne (s : State) (r : List Byte) : State :=
  let id := fieldAt r 0 2
  let a := fieldAt r 2 2
  let e := a % 1024 + fieldAt r 4 2 % 1024 * 1024
  let fab := s.fab
  let x : Staged := { id := id, self := bit a 10, revive := bit a 11 }
  fsat { s with fab := { fab with shadow := Tab.set fab.shadow id (w64 e),
                                  staged := fab.staged.filter (fun y => y.id ≠ id) ++ [x] } }
    F.nodeRbstat_STAGED 0 1

/-- NODE_ROUTE_STAGE; held while a copy runs (R263). -/
def cmdStage (s : State) (k : Command) : JobOut × State :=
  let n := k.params.length
  let rs := (upto (n / 8)).map (fun i => (k.params.drop (8 * i)).take 8)
  if n % 8 ≠ 0 ∨ n = 0 ∨ 192 < n then refuse s stBadLength
  else if fbit s F.nodeRbstat_COPY 0 then (.wait, fput s F.nodeRbstat_HELD 0 1)
  else if rs.all recOk then okDone (rs.foldl stageOne s)
  else refuse s stBadParam

/-- The nodes that either bank names. -/
def bankIds (s : State) : List Nat :=
  ((s.regs.filter (fun e => decide (e.1.1 = .nodeEnt))).map (fun e => e.1.2)).foldl addNew
    (s.fab.shadow.map (fun e => e.1))

/-- PRI, PV, ALT and AV of an active entry. -/
def activeRoute (s : State) (n : Nat) : Nat := bitsOf (rd s .nodeEnt n).toNat 19 0

/-- The banks change places (R262). -/
def flipBanks (s : State) : State :=
  let ids := bankIds s
  let old := ids.map (fun n => (n, w64 (activeRoute s n)))
  let sh := s.fab.shadow
  let s := ids.foldl (fun s n =>
    wr s .nodeEnt n (w64 (setBitsOf (rd s .nodeEnt n).toNat 19 0 (Tab.get 0 sh n).toNat))) s
  let fab := s.fab
  { s with fab := { fab with shadow := old } }

/-- NODE_ROUTE_COMMIT (R262); held while a copy runs (R263). -/
def cmdCommit (s : State) (k : Command) : JobOut × State :=
  if k.params.length ≠ 0 then refuse s stBadLength
  else if fbit s F.nodeRbstat_COPY 0 then (.wait, fput s F.nodeRbstat_HELD 0 1)
  else
    let st := s.fab.staged
    let s := flipBanks s
    let s := fput s F.nodeRbstat_BANK 0 (1 - fget s F.nodeRbstat_BANK 0)
    let s := fput (fadd s F.nodeRbstat_RTEPOCH 0 1) F.nodeRbstat_STAGED 0 0
    let s := st.foldl (fun s x =>
      let s := if x.revive then fput s F.nodeEnt_LIVE x.id 0 else s
      if x.self then fput s F.nodeSelf_ID 0 x.id else s) (fput s F.nodeRbstat_COPY 0 1)
    let fab := s.fab
    let s := { s with fab := { fab with staged := [], copyAt := tbOf s } }
    (.done stOk (natLe (fget s F.nodeRbstat_RTEPOCH 0) 2 ++ natLe (fget s F.nodeRbstat_BANK 0) 1), s)

/-! Tide flows (R255–R257). -/

/-- The rate cap and the burst budget of a width code (R257). -/
def rateCap (c : Nat) : Nat := 29760 * 2 ^ (c - 1)
def burstCap (c : Nat) : Nat := [0, 4, 11, 20, 45, 94].getD c 0

/-- The reservation of a port changed by `f`. -/
def reserve (s : State) (p rate burst : Nat) (add : Bool) : State :=
  let f (x d : Nat) : Nat := if add then x + d else x - d
  let s := fput s F.tidePres_RSUM p (f (fget s F.tidePres_RSUM p) rate)
  let s := fput s F.tidePres_BSUM p (f (fget s F.tidePres_BSUM p) burst)
  fput s F.tidePres_NFLOW p (f (fget s F.tidePres_NFLOW p) 1)

/-- Flow entries in use. -/
def flowCount (s : State) : Nat :=
  ((flowsHere s).filter (fun f => decide (fget s F.tideFlowa_ROLE f ≠ 0))).length

/-- Whether the pin of an admission is good (R255). -/
def pinOk (s : State) (a b : Nat) : Bool :=
  decide (a < 512) && decide (b < 512) && decide (a ≠ b) && portFull s a && portFull s b &&
    decide (widthCode s a = widthCode s b) &&
    decide (fget s F.fabPstat_PEER a = fget s F.fabPstat_PEER b) &&
    decide (fget s F.fabPstat_PEER a ≠ 0xFFFF)

/-- TIDE_ADMIT (R255). -/
def cmdAdmit (s : State) (k : Command) : JobOut × State :=
  let f := pAt k 0 2
  let role := pAt k 2 1
  let a := pAt k 8 2
  let b := pAt k 10 2
  let rate := pAt k 12 4
  let burst := pAt k 16 1
  let fits (p : Nat) : Bool := decide (fget s F.tidePres_RSUM p + rate ≤ rateCap (widthCode s p))
  let room (p : Nat) : Bool := decide (fget s F.tidePres_BSUM p + burst ≤ burstCap (widthCode s p))
  if k.params.length ≠ 17 then refuse s stBadLength
  else if 4095 < f ∨ role = 0 ∨ 3 < role ∨ 0xF0 ≤ pAt k 3 1 ∨ rate = 0 ∨ burst = 0 ∨ 94 < burst ∨
      (role = 3 ∧ (a ≠ 0 ∨ b ≠ 0)) then refuse s stBadParam
  else if s.dev.ps1 then refuse s stBadState
  else if fget s F.tideFlowa_ROLE f ≠ 0 then refuse s stFlowExists
  else if role ≠ 3 ∧ !(pinOk s a b) then refuse s stBadPin
  else if role ≠ 3 ∧ !(fits a && fits b) then refuse s stNoRate
  else if role ≠ 3 ∧ !(room a && room b) then refuse s stNoBurst
  else if 4096 ≤ flowCount s then refuse s stFlowFull
  else
    let s := wr s .tideFlowa f (w64 (pAt k 4 2 * 2 ^ 48 + pAt k 6 2 * 2 ^ 32 + pAt k 3 1 * 2 ^ 24 +
      role * 2 ^ 18 + b * 2 ^ 9 + a))
    let s := wr s .tideFlowb f (w64 (burst * 2 ^ 56 + rate % 2 ^ 20 * 2 ^ 32))
    let fab := s.fab
    let w := Tab.set fab.width f (widthCode s a)
    let s := { s with fab := { fab with buckets := Tab.erase fab.buckets f, width := w } }
    okDone (if role = 3 then s
      else topUp (topUp (reserve (reserve s a rate burst true) b rate burst true) a) b)

/-- The queued copies of a released flow on a member port, taken out. -/
def takeCopies (s : State) (p f : Nat) : List QFlit × State :=
  let k := link s p
  let mine (q : QFlit) : Bool := q.tide && decide (q.flit.flow = f)
  (k.queue.filter mine, setLink s p { k with queue := k.queue.filter (fun q => !(mine q)) })

/-- The REMOTE vports that send on flow `f` stop when its source entry goes (R284). -/
def breakFlow (s : State) (f : Nat) : State :=
  (s.vps.map (fun e => e.1)).foldl (fun s v =>
    match Tab.find s.vps v with
    | some p =>
      if p.remote && decide (p.pflow = f) && decide (fget s F.vpStat_STATE v ≠ 0) then breakVport s v
      else s
    | none => s) s

/-- TIDE_RELEASE (R256): what is still queued here goes by the node table, one copy of each flit. -/
def cmdRelease (s : State) (k : Command) : JobOut × State :=
  let f := pAt k 0 2
  if k.params.length ≠ 2 then refuse s stBadLength
  else if 4095 < f ∨ fget s F.tideFlowa_ROLE f = 0 then refuse s stNoFlow
  else
    let a := fget s F.tideFlowa_PINA f
    let b := fget s F.tideFlowa_PINB f
    let rate := fget s F.tideFlowb_RATE f
    let burst := fget s F.tideFlowb_BURST f
    let dest := decide (fget s F.tideFlowa_ROLE f = 3)
    let wait := (Tab.find s.fab.buckets f).map (fun x => x.queue)
    let (qa, s) := if dest then ([], s) else takeCopies s a f
    let (qb, s) := if dest then ([], s) else takeCopies s b f
    let s := if dest then s else reserve (reserve s a rate burst false) b rate burst false
    let src := decide (fget s F.tideFlowa_ROLE f = 1)
    let s := wr (wr s .tideFlowa f 0) .tideFlowb f 0
    let s := if src then breakFlow s f else s
    let fab := s.fab
    let left := fab.excl.filter (fun x => decide (x.1 ≠ f))
    let s := { s with fab := { fab with
      buckets := Tab.erase fab.buckets f, width := Tab.erase fab.width f, excl := left } }
    let extra := qb.filter (fun q => !(qa.any (fun x => x.flit == q.flit)))
    let s := (qa ++ extra ++ wait.getD []).foldl (fun s q =>
      routeFlit s { q with tide := false } none) s
    okDone (if dest then s else topUp (topUp s a) b)

/-! Reaches (R266, R269). -/

/-- Whether REACH_GRANT takes the three words (R266). -/
def grantOk (s : State) (a b c : Nat) : Bool :=
  let lg := bitsOf a 56 51
  let base := bitsOf a 50 21 * 2 ^ 21
  let rb := bitsOf b 45 16 * 2 ^ 21
  let cls := bitsOf c 7 6
  let node := bitsOf b 63 48
  bit a 63 && decide (bitsOf a 62 57 = 0) && decide (bitsOf a 20 0 = 0) &&
    decide (bitsOf b 47 46 = 0) && decide (bitsOf b 15 0 = 0) && decide (bitsOf c 63 44 = 0) &&
    decide (bitsOf c 23 8 = 0) && decide (bitsOf c 3 0 = 0) && decide (21 ≤ lg) &&
    decide (lg ≤ 50) && decide (base % 2 ^ lg = 0) && decide (rb % 2 ^ lg = 0) &&
    decide (cls ≠ 3) && decide (bit c 5 = decide (cls = 1)) && decide (bitsOf c 31 24 < 0xF0) &&
    decide (node ≠ 0xFFFF) && decide (node ≠ selfId s)

/-- REACH_GRANT (R265, R266). -/
def cmdGrant (s : State) (k : Command) : JobOut × State :=
  let i := pAt k 0 2
  if k.params.length ≠ 32 then refuse s stBadLength
  else if 4095 < i ∨ pAt k 2 6 ≠ 0 ∨ !(grantOk s (pAt k 8 8) (pAt k 16 8) (pAt k 24 8)) then
    refuse s stBadParam
  else if fbit s F.reachA_V i then refuse s stIndexBusy
  else
    okDone (wr (wr (wr s .reachA i (w64 (pAt k 8 8))) .reachB i (w64 (pAt k 16 8))) .reachC i
      (w64 (pAt k 24 8)))

/-- Whether a transaction sent through reach `i` has not ended. -/
def reachBusy (s : State) (i : Nat) : Bool := s.txs.any (fun t => t.reach == i)

/-- A line held through a revoked reach leaves this node (R269 step 3). -/
def leaveReach (s : State) (i l : Nat) : State :=
  let r := lrec s l
  let p := (poisonOf s l).isSome
  let s := match r.data, reachCoh s i with
    | some d, true =>
      if r.dirty then sendEvict s i (64 * l) opWb (lineGranules d) p
      else sendEvict s i (64 * l) opEvc [] false
    | none, true => sendEvict s i (64 * l) opEvc [] false
    | some d, false =>
      if r.dirty then
        sendReq s .proxy i (64 * l) opWrLine false (wrLineGranules (BitVec.allOnes 64) d) 0 p
      else s
    | none, false => s
  dropFab s l

/-- The lines that this node holds through reach `i`. -/
def reachLines (s : State) (i : Nat) : List Nat :=
  (s.lines.filter (fun e => decide (2 ^ 51 ≤ 64 * e.1) && decide (e.2.right ≠ .none) &&
    decide (heldReach s (64 * e.1) = some i))).map (fun e => e.1)

/-- REACH_REVOKE (R269). -/
def cmdRevoke (s : State) (k : Command) (begun : Bool) : JobOut × State :=
  let i := pAt k 0 2
  if k.params.length ≠ 2 then refuse s stBadLength
  else if !begun && (decide (4095 < i) || !(fbit s F.reachA_V i)) then refuse s stNoEntry
  else
    let s := fput s F.reachA_V i 0
    if reachBusy s i then (.wait, s)
    else
      let s := (reachLines s i).foldl (fun s l => leaveReach s i l) s
      if reachBusy s i then (.wait, s) else okDone s

/-- PARTNER_DEAD (R207, R208). -/
def cmdDead (s : State) (k : Command) (begun : Bool) : JobOut × State :=
  let n := pAt k 0 2
  if k.params.length ≠ 2 then refuse s stBadLength
  else if begun then (.wait, s)
  else if n = 0xFFFF ∨ n = selfId s then refuse s stBadParam
  else if s.reclaims.any (fun r => r.node == n) then
    (.wait, { s with reclaims := s.reclaims.map (fun r =>
        if r.node = n then { r with cmds := r.cmds ++ [k] } else r) })
  else if fget s F.nodeEnt_LIVE n = 3 then (.done stOk (natLe 0 12), s)
  else (.wait, startReclaim s n none [k])

/-! Calibration (R448, R449). -/

/-- CAL_SAVE (R448). -/
def cmdCalSave (s : State) (k : Command) : JobOut × State :=
  if k.params.length ≠ 2 then refuse s stBadLength
  else
    match calScope (pAt k 0 1) (pAt k 1 1) with
    | none => refuse s stBadParam
    | some us =>
      let us := us.filter (calInService s)
      let (ok, s) := writeCals s (fun _ => (true, false)) us
      if ok then okDone (us.foldl (fun s u => showPend (showStale s u false) u false) s)
      else (.done stFlashError [], s)

/-- CAL_RESTORE_FACTORY (R449). -/
def cmdCalRestore (s : State) (k : Command) : JobOut × State :=
  if k.params.length ≠ 2 then refuse s stBadLength
  else
    match calScope (pAt k 0 1) (pAt k 1 1) with
    | none => refuse s stBadParam
    | some us =>
      let (ok, s) := writeCal s (fun e => (e.1, true)) us
      if ok then okDone (us.foldl (fun s u => showPend (showStale s u true) u true) s)
      else (.done stFlashError [], s)

/-! Firmware (R361, R362, R389). -/

/-- The slot that is not booted. -/
def otherSlot (s : State) : Nat := 1 - fget s F.bootStat_SLOT 0

/-- The state with STAGING set or cleared. -/
def setStaging (s : State) (b : Bool) : State :=
  let svc := s.svc
  { s with svc := { svc with staging := b } }

/-- FW_STAGE (R389). -/
def cmdFwStage (s : State) (k : Command) : JobOut × State :=
  let off := pAt k 0 4
  let n := pAt k 4 2
  let first := bit (pAt k 6 2) 0
  let b := slotBase (otherSlot s)
  if k.params.length < 8 ∨ k.params.length ≠ 8 + n then refuse s stBadLength
  else if fbit s F.bootStat_TRIAL 0 then refuse s stInTrial
  else if n % 16 ≠ 0 ∨ n < 16 ∨ 176 < n ∨ off % 16 ≠ 0 ∨ commitAt < off + n ∨ 2 ≤ pAt k 6 2 then
    refuse s stBadParam
  else if !first && !s.svc.staging then refuse s stBadState
  else
    let s := if first then setStaging (flashErase s b slotSize) true else s
    let (ok, s) := flashProgram s (b + off) (k.params.drop 8)
    if ok then okDone s else (.done stFlashError [], s)

/-- The moon cores copy bytes to a line-aligned address. -/
def copyIn (s : State) (a : Nat) (bs : List Byte) : State :=
  let ls := groupsOf 64 (bs.length / 64 + 1) bs
  (ls.foldl (fun (x : State × Nat) b => (devWrite x.1 x.2 b, x.2 + 64)) (s, a)).1

/-- Where the copy of a live activation is staged (R365). -/
def liveBase : Nat := spdSecure + 0x80000

/-- Where the header and the commit sector of slot `i` are copied: the places of R365, of which the spec
does not say where in the 64 KiB each copy lies (DESIGN CHOICE, assumption 136). -/
def hdrCopies (i : Nat) : Nat := 0x10001FC0000 + 0x8000 * i

/-- The header and the commit sector of slot `i` are copied into the secure part (R364 step 3). -/
def copyHeader (s : State) (i : Nat) : State :=
  copyIn (copyIn s (hdrCopies i) (slotHeader s i)) (hdrCopies i + 0x1000)
    (flashRead s (slotBase i + commitAt) 4096)

/-- The SERVICE entry of a header. -/
def serviceEnt (h : List Byte) : Option (List Byte) :=
  (imgEnts h).find? (fun e => decide (imgType e = 1))

/-- The header and the SERVICE image of slot `i` are copied for a live activation (R347 step 1). -/
def copyLive (s : State) (i : Nat) : State :=
  let s := copyHeader s i
  match serviceEnt (slotHeader s i) with
  | some e => copyIn s liveBase (imgBytes s i e)
  | none => s

/-- Bytes of the secure part as the moon cores read them; none where a line is poisoned. -/
def secureBytes (s : State) (a n : Nat) : Option (List Byte) :=
  if (upto ((n + 63) / 64)).any (fun i => (poisonOf s (a / 64 + i)).isSome) then none
  else some (((upto ((n + 63) / 64)).flatMap (fun i => natLe (homeData s (a / 64 + i)).toNat 64)).take n)

/-- The copy of slot `i` is good: its header, key and signature, its SEQ against the rollback floor, and its
digest (R347 step 1). -/
def liveGood (s : State) (i : Nat) : Bool :=
  match secureBytes s (hdrCopies i) 1024 with
  | none => false
  | some h =>
    hdrOk s h && keyOk s h && sigOk h && decide (fusedFloor s * 2 ^ 24 ≤ hdrSeq h) &&
      match serviceEnt h with
      | none => false
      | some e =>
        match secureBytes s liveBase (imgLen e) with
        | none => false
        | some bs => decide (sha384 bs = imgDigest e)

/-- A live activation starts: the copy is made, and is verified next (R347 step 1). -/
def startLive (s : State) (i new : Nat) : State :=
  let s := copyLive s i
  let svc := s.svc
  fput { s with svc := { svc with live := some (fget s F.fltMoon_IMGSEQ 0, new) } }
    F.fltMoon_UPD 0 1

/-- The copy is verified once no wipe holds the secure part: the highest moon core that is not lost changes
first; the activation stops where the copy is bad or no core is left (R347). -/
def verifyLive (s : State) : State :=
  if fget s F.fltMoon_UPD 0 ≠ 1 ∨ fbit s F.spdStat_WIPING 0 = true then s
  else
    match nextMoon s 4, liveGood s (otherSlot s) with
    | some m, true => fput (fput (setMoonSt s m 1) F.fltMoon_UCORE 0 m) F.fltMoon_UPD 0 2
    | _, _ => logUpdate (fput s F.fltMoon_UPD 0 4) 2

/-- FW_COMMIT (R362, R389). -/
def cmdFwCommit (s : State) (k : Command) : JobOut × State :=
  let i := otherSlot s
  let h := slotHeader s i
  let live := bit (pAt k 0 1) 0
  if k.params.length ≠ 1 then refuse s stBadLength
  else if 2 ≤ pAt k 0 1 then refuse s stBadParam
  else if !s.svc.staging then refuse s stBadState
  else
    let why := slotWhy s i false
    let why := if why = 0 ∧ !(imgsOk s i h) then 6 else why
    if why ≠ 0 then (.done stBadImage (natLe why 1 ++ natLe 0 1), s)
    else
      let (ok, s) := flashProgram s (slotBase i + commitAt) (commitWord h)
      let s := setStaging s false
      if !ok then (.done stFlashError [], s)
      else if !live then (.done stOk (natLe 0 2), s)
      else if bit (hdrFlags h) 0 && decide (hdrMinLive h ≤ fget s F.fltMoon_IMGSEQ 0) &&
          decide (fget s F.fltMoon_UPD 0 ≠ 1 ∧ fget s F.fltMoon_UPD 0 ≠ 2) then
        (.done stOk (natLe 0 1 ++ natLe 1 1), startLive s i (hdrSeq h))
      else (.done stOk (natLe 0 1 ++ natLe 2 1), s)

/-- The trial's 120 s in ns (R361). -/
def trialNs : Nat := 120000000000

/-- BOOT_CONFIRM (R361). -/
def cmdConfirm (s : State) (k : Command) : JobOut × State :=
  if k.params.length ≠ 0 then refuse s stBadLength
  else if !(fbit s F.bootStat_TRIAL 0) then refuse s stNoTrial
  else if s.dev.since + trialNs ≤ tbOf s then
    (.done stTrialExpired [], fput s F.bootStat_TEXP 0 1)
  else
    let r := (newestStatus s).1
    let seq := fget s F.bootStat_SEQ 0
    let r := if fget s F.bootStat_SLOT 0 = 0 then { r with confa := seq, tslot := 0xFF }
      else { r with confb := seq, tslot := 0xFF }
    let (ok, s) := writeStatus s r
    if ok then okDone (fput s F.bootStat_TRIAL 0 0) else (.done stFlashError [], s)

/-- Moon core 0 has changed: the new image is in trial by the boot rules, and BOOT_CONFIRM decides which
slot the next reset boots (R347 step 4). The trial is that of R360 and R361 with the new slot as the booted
one (DEDUCED, assumption 68). -/
def liveTrial (s : State) (new : Nat) : State :=
  let i := otherSlot s
  let (_, s) := writeStatus s { (newestStatus s).1 with tslot := i, tseq := new }
  let s := fput (fput s F.bootStat_SEQ 0 new) F.bootStat_SLOT 0 i
  let s := fput (fput s F.bootStat_TRIAL 0 1) F.bootStat_TEXP 0 0
  let dev := s.dev
  { s with dev := { dev with since := tbOf s } }

/-! Repair (R348, R390). -/

/-- A core to be retired starts its eclipse move once it retires work: one that is held, stopped,
halted or asleep has no boundary before that (R341, R348; DEDUCED, assumption 70). -/
def retireCore (s : State) (c : Nat) : JobOut × State :=
  (.wait, if (coreOf s (Fin.ofNat 128 c)).active then startEclipse s c else s)

/-- REPAIR_RETIRE begins: the unit is treated as having a persistent fault. -/
def startRetire (s : State) (kind unit pos : Nat) (force : Bool) : JobOut × State :=
  if kind = 1 then
    if 128 ≤ unit then refuse s stBadParam
    else if spareReady s unit then retireCore s unit else refuse s stNotStandby
  else if kind = 3 then
    if 64 ≤ unit then refuse s stBadParam
    else if fget s F.fltSlstat_SST 0 = 0 then (.wait, migrateSlice s unit) else refuse s stNotStandby
  else if kind = 4 then
    if 64 ≤ unit then refuse s stBadParam
    else if fget s F.memqStat_SPARE (unit / 16) ≠ 0 then refuse s stNotStandby
    else if !(fbit s F.memqMode_PMODE 0) && !force then refuse s stBadState
    else okDone (failChan s unit 3)
  else if kind = 6 then
    if 32 ≤ unit ∨ 16 ≤ pos then refuse s stBadParam
    else if fget s F.fabGstat_SST unit ≠ 0 then refuse s stNotStandby
    else (.wait, suspectLane s unit pos)
  else refuse s stBadParam

/-- REPAIR_RETIRE goes on until the unit has left service (R390). -/
def retireOn (s : State) (kind unit pos : Nat) : JobOut × State :=
  if kind = 1 then
    if (Tab.find s.moves unit).isSome then (.wait, s)
    else if fget s F.fltClspare_SST (unit / 8) = 2 ∧
        fget s F.fltClspare_RETIRED (unit / 8) = unit % 8 then okDone s
    else if spareReady s unit then retireCore s unit
    else refuse s stBadState
  else if kind = 3 then
    if s.migrating.isSome then (.wait, s)
    else if fget s F.fltSlstat_SST 0 = 2 ∧ fget s F.fltSlstat_MSLICE 0 = unit then okDone s
    else refuse s stBadState
  else
    let sst := fget s F.fabGstat_SST unit
    if sst = 1 ∧ fget s F.fabGstat_SHIDX unit = pos then (.wait, s)
    else if sst = 2 ∧ fget s F.fabGstat_SPOS unit = pos then okDone s
    else refuse s stBadState

/-- REPAIR_RETIRE (R348, R390). -/
def cmdRetire (s : State) (k : Command) (begun : Bool) : JobOut × State :=
  let kind := pAt k 0 1
  let pos := pAt k 4 1
  if k.params.length ≠ 5 then refuse s stBadLength
  else if 2 ≤ pAt k 1 1 ∨ (kind ≠ 6 ∧ pos ≠ 0) then refuse s stBadParam
  else if begun then retireOn s kind (pAt k 2 2) pos
  else startRetire s kind (pAt k 2 2) pos (bit (pAt k 1 1) 0)

/-- REPAIR_STATUS (R386). -/
def cmdRepairStatus (s : State) (k : Command) : JobOut × State :=
  if k.params.length ≠ 0 then refuse s stBadLength
  else
    let cl := (upto 16).flatMap (fun c =>
      natLe (fget s F.fltClspare_RETIRED c * 16 + fget s F.fltClspare_SST c) 1)
    let q := (upto 4).flatMap (fun i => natLe (rd s .memqStat i).toNat 8)
    let g := (upto 32).flatMap (fun i => natLe (rd s .fabGstat i).toNat 4)
    (.done stOk (cl ++ natLe (rd s .fltSlstat 0).toNat 8 ++ q ++ g ++
      natLe (rd s .fltMoon 0).toNat 8), s)

/-- MON_READ (R427). -/
def cmdMonRead (s : State) (k : Command) : JobOut × State :=
  let f := pAt k 0 1
  let n := pAt k 1 1
  if k.params.length ≠ 2 then refuse s stBadLength
  else if n = 0 ∨ 22 < n ∨ 64 < f + n then refuse s stBadParam
  else
    let s := (upto n).foldl (fun s i => monLapse s (f + i)) s
    (.done stOk ((upto n).flatMap (fun i => natLe (rd s .monCnt (f + i)).toNat 8)), s)

/-! Time and life cycle (R391, R371). -/

/-- TIME_SET (R391). -/
def cmdTimeSet (s : State) (k : Command) : JobOut × State :=
  let v := pAt k 0 8
  if k.params.length ≠ 9 then refuse s stBadLength
  else if 2 ≤ pAt k 8 1 then refuse s stBadParam
  else if s.time.timeSet.isSome then refuse s stBadState
  else if bit (pAt k 8 1) 0 then
    let time := s.time
    (.left, { s with time := { time with timeSet := some (k, v, tbOf s) } })
  else if v < tbOf s then refuse s stBackward
  else
    let s := stepTb s v
    (.done stOk (natLe (tbOf s) 8), s)

/-- LC_ADVANCE (R371): the fuses are burned; the WARM reset follows the reply. -/
def cmdLcAdvance (s : State) (k : Command) : JobOut × State :=
  let t := pAt k 0 1
  if k.params.length ≠ 32 then refuse s stBadLength
  else if 5 < t ∨ !(zeroAt k.params 1 15) ∨ k.params.drop 16 ≠ devId s then refuse s stBadParam
  else if t ≤ fusedLc s then refuse s stBadState
  else if t = 3 ∧ (upto 4).all (fun i => unfused (rkh s i)) then refuse s stNoRootKey
  else
    let s := burn s 0xC4 (thermo t 4)
    let dev := s.dev
    okDone { s with dev := { dev with lcTarget := some t } }

/-! Lanes (R384). -/

/-- One step of a command. -/
def jobStep (s : State) (j : Job) : JobOut × State :=
  let k := j.cmd
  if j.op = 0x10 then cmdPortSet s k
  else if j.op = 0x11 then cmdPortStatus s k
  else if j.op = 0x20 then cmdStage s k
  else if j.op = 0x21 then cmdCommit s k
  else if j.op = 0x30 then cmdAdmit s k
  else if j.op = 0x31 then cmdRelease s k
  else if j.op = 0x40 then cmdGrant s k
  else if j.op = 0x41 then cmdRevoke s k j.begun
  else if j.op = 0x50 then cmdDead s k j.begun
  else if j.op = 0x60 then cmdCalSave s k
  else if j.op = 0x61 then cmdCalRestore s k
  else if j.op = 0x70 then cmdFwStage s k
  else if j.op = 0x71 then cmdFwCommit s k
  else if j.op = 0x72 then cmdConfirm s k
  else if j.op = 0x80 then cmdRetire s k j.begun
  else if j.op = 0x81 then cmdRepairStatus s k
  else if j.op = 0x90 then cmdMonRead s k
  else if j.op = 0xA0 then cmdTimeSet s k
  else if j.op = 0xB0 then cmdLcAdvance s k
  else refuse s stBadOpcode

/-- Whether an opcode runs in the flash lane. -/
def flashOp (op : Nat) : Bool := (decide (0x60 ≤ op) && decide (op ≤ 0x72)) || decide (op = 0xB0)

/-- A lane: the flash lane or the main one. -/
def cmdLane (s : State) (flash : Bool) : List Job := if flash then s.svc.flash else s.svc.main

/-- The state with a lane replaced. -/
def setLane (s : State) (flash : Bool) (js : List Job) : State :=
  let svc := s.svc
  if flash then { s with svc := { svc with flash := js } } else { s with svc := { svc with main := js } }

/-- The reply cache notes the reply of a command, which also answers the arrivals of its request
since it was accepted (R382). -/
def cacheReply (s : State) (seq : Nat) (bs : List Byte) : State :=
  let svc := s.svc
  let mine (e : CacheEnt) : Bool := decide (e.seq = seq) && e.reply.isNone
  let again := (svc.cache.filter mine).flatMap (fun e => e.more)
  let cache := svc.cache.map (fun e => if mine e then { e with reply := some bs, more := [] } else e)
  again.foldl (fun s o => sendReply s o bs) { s with svc := { svc with cache := cache } }

/-- A request that has been accepted arrives again while its command runs. -/
def cacheAgain (s : State) (seq : Nat) (o : Origin) : State :=
  let svc := s.svc
  let cache := svc.cache.map (fun e => if e.seq = seq then { e with more := e.more ++ [o] } else e)
  { s with svc := { svc with cache := cache } }

/-- A command is complete: its reply leaves, once for each arrival (R382, R384). PORT_SET changes its group
once the reply has been handed to its port (R386); in PS1 it is applied at the exit (R437). -/
def finish (s : State) (op : Nat) (k : Command) (st : Nat) (ps : List Byte) : State :=
  let bs := replyBytes s op k.tag.toNat k.seq.toNat st ps
  let s := cacheReply (sendReply s k.origin bs) k.seq.toNat bs
  if op = 0x10 ∧ st = stOk then
    if s.dev.ps1 then
      let svc := s.svc
      { s with svc := { svc with portSets := svc.portSets ++ [k] } }
    else doPortSet (packAll s s.outbox.length) k
  else s

/-- Whether commands run: the service image has started and nothing is halted (R378). -/
def serving (s : State) : Bool := s.dev.service && !s.dev.halted && !s.dev.off

/-- Whether a moon core is changing: its tasks are moving, and commands are held until its change ends, in
order (R347; that they are held from its start to its end is a DESIGN CHOICE, assumption 136). -/
def moving (s : State) : Bool :=
  decide (fget s F.fltMoon_UPD 0 = 2) && (upto 4).any (fun m => decide (moonSt s m = 1))

/-- A lane runs its commands in order, at most `n` (R384). -/
def runLane (s : State) (flash : Bool) : Nat → State
  | 0 => s
  | n + 1 =>
    match cmdLane s flash with
    | [] => s
    | j :: js =>
      if serving s && !(moving s) then
        match jobStep (setLane s flash ({ j with begun := true } :: js)) j with
        | (.wait, t) => t
        | (.left, t) => runLane (setLane t flash ((cmdLane t flash).drop 1)) flash n
        | (.done st ps, t) =>
          runLane (finish (setLane t flash ((cmdLane t flash).drop 1)) j.op j.cmd st ps) flash n
      else s

/-- Both lanes go on. -/
def pumpLanes (s : State) : State :=
  let s := runLane s false s.svc.main.length
  runLane s true s.svc.flash.length

/-- A TIME_SET with PPS = 1, which leaves the main lane as soon as it is accepted (R384, R391). -/
def ppsSet (op : Nat) (k : Command) : Bool :=
  decide (op = 0xA0) && decide (k.params.length = 9) && decide (pAt k 8 1 = 1)

/-- An accepted request joins its lane. -/
def accept (s : State) (op : Nat) (k : Command) : State :=
  if ppsSet op k then
    match cmdTimeSet s k with
    | (.done st ps, t) => finish t op k st ps
    | (_, t) => t
  else
    let f := flashOp op
    let s := setLane s f (cmdLane s f ++ [{ op := op, cmd := k, begun := false }])
    runLane s f (cmdLane s f).length

/-- MOON_CORE_CHANGE (R347): the changing core passes its self-test and the next one starts, once the commands
that were held have run; or the update stops. -/
def execMoonCoreChange (ok : Bool) (s : State) : Host.Outcome State Fault Refusal :=
  let s := verifyLive s
  if fget s F.fltMoon_UPD 0 ≠ 2 then .next s
  else if !ok then .next (pumpLanes (stopUpdate s 1))
  else
    let u := fget s F.fltMoon_UCORE 0
    let s := setMoonSt s u 0
    let s := match u, s.svc.live with
      | 0, some (_, new) => liveTrial (fput s F.fltMoon_IMGSEQ 0 new) new
      | _, _ => s
    let s := pumpLanes s
    match nextMoon s u with
    | some m => .next (fput (setMoonSt s m 1) F.fltMoon_UCORE 0 m)
    | none => .next (logUpdate (fput s F.fltMoon_UPD 0 3) 0)

/-! Acceptance (R382, R383). -/

/-- Accepted commands that have no reply yet. -/
def outstanding (s : State) : Nat :=
  s.svc.main.length + s.svc.flash.length + (if s.time.timeSet.isSome then 1 else 0)

/-- The cache takes an entry; a full one gives up its oldest completed entry (R383). -/
def cacheAdd (s : State) (e : CacheEnt) : State :=
  let svc := s.svc
  let old := if svc.cache.length < 64 then svc.cache
    else match svc.cache.find? (fun x => x.reply.isSome) with
      | some x => svc.cache.erase x
      | none => svc.cache
  { s with svc := { svc with cache := old ++ [e] } }

/-- A packet meets the checks of R382 in their order. In PS1 commands arrive over I3C only (R378). -/
def takePkt (s : State) (o : Origin) (p : Pkt) : State :=
  let say (s : State) (st : Nat) (ps : List Byte) : State := reply s o p.op p.tag p.seq st ps
  if s.dev.off || (s.dev.ps1 && decide (o ≠ .i3c)) then s
  else if p.magic ≠ 0x5645 ∨ p.flags ≠ 0 ∨ p.status ≠ 0 ∨ 192 < p.len then say s stBadFormat []
  else if p.op = 1 then say s stOk (identity s)
  else if !(serving s) then say s stNotReady []
  else if (rackKey s).isNone then say s stNoKey []
  else if pktMac s p ≠ p.mac then say (fsat s F.svcCstat_BADMAC 0 1) stBadMac []
  else
    match s.svc.cache.find? (fun e => e.seq == p.seq) with
    | some e =>
      if e.mac ≠ p.mac then say s stReused []
      else
        match e.reply with
        | some r => sendReply s o r
        | none => cacheAgain s p.seq o
    | none =>
      if p.seq ≤ fget s F.svcCstat_HSEQ 0 then say s stStale []
      else if 16 ≤ outstanding s then say s stBusy []
      else
        let s := fput s F.svcCstat_HSEQ 0 p.seq
        let s := cacheAdd s { seq := p.seq, mac := p.mac, reply := none, more := [] }
        accept s p.op { origin := o, tag := BitVec.ofNat 16 p.tag, seq := BitVec.ofNat 32 p.seq,
                        params := p.params }

/-- A packet arrives (R382). -/
def receive (s : State) (o : Origin) (bs : List Byte) : State := takePkt s o (parsePkt bs)

/-- A CMD message that has reached this node: a request, or a reply for the mailbox (R375, R393). -/
def cmdArrive (s : State) (m : Msg) : State :=
  let bs := m.data.flatMap (fun g => natLe g.toNat 16)
  if fieldAt bs 0 2 = 0x5645 ∧ bit (fieldAt bs 6 2) 0 = true then
    pushRsp s m.src.toNat 1 m.port 0 (bs.take (32 + min (fieldAt bs 8 2) 192))
  else receive s (.tc3 m.src m.port) bs

/-- CMD (R375): it is accepted only on ports that the TC3 fuse permits. -/
def execCmd (m : Msg) (s : State) : Host.Outcome State Fault Refusal :=
  if tc3Ok s m.port then .next (cmdArrive s m) else .next (logDiscard s m.src.toNat 3)

/-! The rows of accepted requests. -/

/-- The request packet of a command, with the MAC of whoever holds the rack key (R379, R380). -/
def pktOf (s : State) (op : Nat) (k : Command) : Pkt :=
  let p : Pkt := { magic := 0x5645, op := op, tag := k.tag.toNat, flags := 0, len := k.params.length,
                   status := 0, seq := k.seq.toNat, mac := [], params := k.params }
  { p with mac := pktMac s p }

/-- A request of opcode `op` arrives with its MAC right: the other checks of R382 are those of any packet. -/
def request (s : State) (op : Nat) (k : Command) : State := takePkt s k.origin (pktOf s op k)

/-- IDENTIFY (R378, R387). -/
def execIdentify (k : Command) (s : State) : Host.Outcome State Fault Refusal :=
  .next (request s 1 k)

/-- PORT_SET (R386). -/
def execPortSet (k : Command) (s : State) : Host.Outcome State Fault Refusal :=
  .next (request s 0x10 k)
/-- PORT_STATUS (R386). -/
def execPortStatus (k : Command) (s : State) : Host.Outcome State Fault Refusal :=
  .next (request s 0x11 k)
/-- NODE_ROUTE_STAGE (R388). -/
def execNodeRouteStage (k : Command) (s : State) : Host.Outcome State Fault Refusal :=
  .next (request s 0x20 k)
/-- NODE_ROUTE_COMMIT (R262). -/
def execNodeRouteCommit (k : Command) (s : State) : Host.Outcome State Fault Refusal :=
  .next (request s 0x21 k)
/-- TIDE_ADMIT (R255). -/
def execTideAdmit (k : Command) (s : State) : Host.Outcome State Fault Refusal :=
  .next (request s 0x30 k)
/-- TIDE_RELEASE (R256). -/
def execTideRelease (k : Command) (s : State) : Host.Outcome State Fault Refusal :=
  .next (request s 0x31 k)
/-- REACH_GRANT (R266). -/
def execReachGrant (k : Command) (s : State) : Host.Outcome State Fault Refusal :=
  .next (request s 0x40 k)
/-- REACH_REVOKE (R269). -/
def execReachRevoke (k : Command) (s : State) : Host.Outcome State Fault Refusal :=
  .next (request s 0x41 k)
/-- PARTNER_DEAD (R208). -/
def execPartnerDead (k : Command) (s : State) : Host.Outcome State Fault Refusal :=
  .next (request s 0x50 k)
/-- CAL_SAVE (R448). -/
def execCalSave (k : Command) (s : State) : Host.Outcome State Fault Refusal :=
  .next (request s 0x60 k)
/-- CAL_RESTORE_FACTORY (R449). -/
def execCalRestoreFactory (k : Command) (s : State) : Host.Outcome State Fault Refusal :=
  .next (request s 0x61 k)
/-- FW_STAGE (R389). -/
def execFwStage (k : Command) (s : State) : Host.Outcome State Fault Refusal :=
  .next (request s 0x70 k)
/-- FW_COMMIT (R389). -/
def execFwCommit (k : Command) (s : State) : Host.Outcome State Fault Refusal :=
  .next (request s 0x71 k)
/-- BOOT_CONFIRM (R361). -/
def execBootConfirm (k : Command) (s : State) : Host.Outcome State Fault Refusal :=
  .next (request s 0x72 k)
/-- REPAIR_RETIRE (R390). -/
def execRepairRetire (k : Command) (s : State) : Host.Outcome State Fault Refusal :=
  .next (request s 0x80 k)
/-- REPAIR_STATUS (R386). -/
def execRepairStatus (k : Command) (s : State) : Host.Outcome State Fault Refusal :=
  .next (request s 0x81 k)
/-- MON_READ (R427). -/
def execMonRead (k : Command) (s : State) : Host.Outcome State Fault Refusal :=
  .next (request s 0x90 k)
/-- TIME_SET (R391). -/
def execTimeSet (k : Command) (s : State) : Host.Outcome State Fault Refusal :=
  .next (request s 0xA0 k)
/-- LC_ADVANCE (R371). -/
def execLcAdvance (k : Command) (s : State) : Host.Outcome State Fault Refusal :=
  .next (request s 0xB0 k)

/-! Events that end or move a command. -/

/-- LANE_SPARED: the shadowing spare takes over (R232), which ends a REPAIR_RETIRE of the lane. -/
def execLaneSpared (g : Fin 32) (s : State) : Host.Outcome State Fault Refusal :=
  .next (pumpLanes (laneSpared s g))

/-- BANK_COPY_DONE: the shadow bank equals the active one, and held commands run (R263). -/
def execBankCopyDone (s : State) : Host.Outcome State Fault Refusal :=
  if fbit s F.nodeRbstat_COPY 0 then
    let sh := (bankIds s).map (fun n => (n, w64 (activeRoute s n)))
    let fab := s.fab
    let s := { s with fab := { fab with shadow := sh } }
    .next (pumpLanes (fput (fput s F.nodeRbstat_COPY 0 0) F.nodeRbstat_HELD 0 0))
  else .next s

/-- RECLAIM_COMPLETE: the running reclaim ends once its list is written (R207 step 5). -/
def execReclaimComplete (s : State) : Host.Outcome State Fault Refusal :=
  let s := flushRcl s
  match s.reclaims with
  | [] => .next s
  | r :: _ =>
    if r.todo.isEmpty then
      let s := endReclaim s r
      let s := match s.svc.main with
        | j :: js =>
          if j.begun && decide (j.op = 0x50) && r.cmds.contains j.cmd then
            finish (setLane s false js) j.op j.cmd stOk
              (natLe r.poisoned 4 ++ natLe r.dropped 4 ++ natLe r.discarded 4)
          else s
        | [] => s
      .next (pumpLanes s)
    else .next s

/-- The waiting TIME_SET is answered. -/
def endTimeSet (s : State) (k : Command) (st : Nat) : State :=
  let time := s.time
  let ps := if st = stOk then natLe (tbOf s) 8 else []
  finish { s with time := { time with timeSet := none } } 0xA0 k st ps

/-- The offset of a PPS edge: the nearest multiple of 10^9, less TB; which of two equally near is
open (R402). -/
def ppsOffset (s : State) : Int × State :=
  let r := tbOf s % 1000000000
  let (f, t) := takeFree s
  if r < 500000000 then (-(r : Int), s)
  else if 500000000 < r then (1000000000 - (r : Int), s)
  else (if f % 2 = 0 then -500000000 else 500000000, t)

/-- PPS_IN (R391, R402, R407). A rising edge steers a ROOT node and steps a waiting TIME_SET. -/
def execPpsIn (rise : Bool) (s : State) : Host.Outcome State Fault Refusal :=
  let s := capture s 5 (some rise)
  if !rise then .next s
  else
    let s := if fget s F.tbSync_MODE 0 = 1 ∧ fbit s F.tbSync_PPSD 0 then
        let (off, s) := ppsOffset s
        fput (fput (applyOffset s off 0) F.tbSync_LOCK 0 1) F.tbSync_STRAT 0 0
      else s
    match s.time.timeSet with
    | some (k, v, _) =>
      if v < tbOf s then .next (endTimeSet s k stBackward)
      else .next (endTimeSet (stepTb s v) k stOk)
    | none => .next s

/-- TIME_SET_TIMEOUT: no PPS_IN edge has come within 2 s (R391). -/
def execTimeSetTimeout (s : State) : Host.Outcome State Fault Refusal :=
  match s.time.timeSet with
  | some (k, _, t) => .next (endTimeSet (advanceTb s (t + 2000000000)) k stBadState)
  | none => .next s

/-- A write of BOOT_FLOOR (R373): it only raises the floor, and never above the booted image. -/
def writeFloor (s : State) (v : Nat) : State :=
  let n := v % 256
  let fl := max (fget s F.bootFloor_FLOOR 0) (s.dev.floorTarget.getD 0)
  if n ≤ fl ∨ fget s F.bootStat_SEQ 0 / 2 ^ 24 < n then
    logEv s { code := 0x71, cls := clsCorrected, kind := kDevice, d0 := n,
              d1 := fget s F.bootFloor_FLOOR 0, d2 := fget s F.bootStat_SEQ 0 / 2 ^ 24 }
  else
    let dev := s.dev
    fput { s with dev := { dev with floorTarget := some n } } F.bootFloor_BUSY 0 1

/-- BOOT_FLOOR_WRITE (R373). -/
def execBootFloorWrite (v : BitVec 32) (s : State) : Host.Outcome State Fault Refusal :=
  .next (writeFloor s v.toNat)

/-- FUSE_BURN_DONE (R373). -/
def execFuseBurnDone (s : State) : Host.Outcome State Fault Refusal :=
  match s.dev.floorTarget with
  | some n =>
    let s := burn s 0xC8 (thermo n 32)
    let dev := s.dev
    let s := { s with dev := { dev with floorTarget := none } }
    .next (fput (fput s F.bootFloor_FLOOR 0 n) F.bootFloor_BUSY 0 0)
  | none => .next s

end Sys2Proof.Machine
end

