-- ==== Sys2Proof/Machine/Boot.lean ====
section
/-! DEFINITION. COLD and WARM resets (R428–R430, R206, R439), the life cycle at a reset (R368, R371),
the wipe of the secure part (R309), and the boot flow (R360–R367). -/

namespace Sys2Proof.Machine

/-! Fuses at a reset. -/

/-- LC_STATE.TAP of a life-cycle state: 0 locked, 1 open without the secure part, 2 open with it
(R368). -/
def tapOf (lc : Nat) : Nat :=
  if lc = 0 ∨ lc = 1 ∨ lc = 4 then 2 else if lc = 2 then 1 else 0

/-- The registers that a reset loads from fuses: LC_STATE, BOOT_FLOOR and SPD_POLICY (R368, R372). -/
def loadFuses (s : State) : State :=
  let lc := fusedLc s
  let s := fput (fput (fput s F.lcState_STATE 0 lc) F.lcState_TAP 0 (tapOf lc)) F.lcState_UNLK 0 0
  let s := fput s F.bootFloor_FLOOR 0 (fusedFloor s)
  let spd := leNat (fuse s 0xEC 4)
  fput (fput s F.spdPolicy_SLVL 0 (bitsOf spd 1 0)) F.spdPolicy_PCMT 0 (bitsOf spd 2 2)

/-- A burn of the floor that a reset cuts has burned some of its bits, or all: a free value says how
many (R373). -/
def cutBurn (s : State) : State :=
  match s.dev.floorTarget with
  | none => s
  | some n =>
    let (v, s) := takeFree s
    let old := fusedFloor s
    let s := burn s 0xC8 (thermo (old + v % (n - old + 1)) 32)
    let dev := s.dev
    { s with dev := { dev with floorTarget := none } }

/-! The wipe (R309). -/

/-- Whether a line lies in the secure part. -/
def secureLine (l : Nat) : Bool := decide (spdSecure ≤ 64 * l ∧ 64 * l < spdEnd)

/-- Every cached copy of a secure line is dropped without write-back and all 2 MiB are zero. -/
def zeroSecure (s : State) : State :=
  { s with lines := s.lines.filter (fun e => !(secureLine e.1)),
           mem := s.mem.filter (fun e => decide (e.1 < spdSecure) || decide (spdEnd ≤ e.1)),
           poison := s.poison.filter (fun e => !(secureLine e.1)),
           spdBad := s.spdBad.filter (fun e => !(secureLine (e.1 / 8))) }

/-- A wipe starts; a trigger during a wipe starts no second one, and counts once. Accesses to the secure
part wait until WIPE_DONE. -/
def wipe (s : State) (cause : Nat) : State :=
  if fbit s F.spdStat_WIPING 0 then fsat s F.spdStat_WCNT 0 1
  else
    let s := fsat (fput (zeroSecure s) F.spdStat_WCAUSE 0 cause) F.spdStat_WCNT 0 1
    fput s F.spdStat_WIPING 0 1

/-- The wipe ends and the held accesses proceed. -/
def wipeEnd (s : State) : State := pumpAll (fput s F.spdStat_WIPING 0 0)

/-- A new life-cycle state takes effect at the start of a reset (R371): the wipe, what RETURN clears,
and what SCRAP burns. `old` is the state before the reset. -/
def lifeChange (s : State) (old : Nat) : State :=
  let lc := fusedLc s
  if lc = old then s
  else
    let s := fsat (fput (zeroSecure s) F.spdStat_WCAUSE 0 2) F.spdStat_WCNT 0 1
    if lc = 4 then eraseKey { s with mem := [], poison := [], bulk := [], bad := [], spdBad := [] }
    else if lc = 5 then fput (burn s 0x120 [1]) F.svcKey_HELD 0 0
    else s

/-! COLD (R429) and OFF (R439). -/

/-- The state of a COLD reset: everything at its Cold value; fuses, flash, the records and the
levels of the pins stay. -/
def coldReset (s : State) : State :=
  let old := fget s F.lcState_STATE 0
  let s := cutBurn s
  let d := s.dev
  let dev := { Dev.reset with coldLow := d.coldLow, warmLow := d.warmLow, tamperLow := d.tamperLow,
                              thermtrip := d.thermtrip, sa0 := d.sa0, tlr := d.tlr,
                              extest := d.extest, boundary := d.boundary, tdo := d.tdo }
  let s := { State.reset with pending := s.pending, free := s.free, keep := s.keep, out := s.out,
                              dev := dev }
  let lc := fusedLc s
  let s := if lc ≠ old ∧ lc = 4 then eraseKey s
    else if lc ≠ old ∧ lc = 5 then burn s 0x120 [1]
    else s
  loadFuses s

/-- PWR_GOOD_RISE: a COLD reset; I3C_SA0 is sampled (R428). -/
def execPwrGoodRise (sa0 : Bool) (s : State) : Host.Outcome State Fault Refusal :=
  let s := coldReset s
  let dev := s.dev
  .next { s with dev := { dev with off := false, sa0 := sa0 } }

/-- PWR_GOOD_FALL: OFF; nothing is promised for data in flight, a write of flash under way is torn (R363), and
THERMTRIP_N is released (R439, R458). -/
def execPwrGoodFall (s : State) : Host.Outcome State Fault Refusal :=
  let s := coldReset (tearFlash s)
  let dev := s.dev
  .next { s with dev := { dev with off := true, thermtrip := false } }

/-- COLD_RST_N: low starts a COLD reset; the boot flow starts after the rise (R457). -/
def execColdRstN (low : Bool) (s : State) : Host.Outcome State Fault Refusal :=
  let fresh := low && !s.dev.coldLow && !s.dev.off
  let dev := s.dev
  let s := { s with dev := { dev with coldLow := low } }
  .next (if fresh then coldReset s else s)

/-! WARM (R430). -/

/-- Stores that no home has accepted: each 8-byte unit is lost or kept as a whole, by a free value
(R190). -/
def keepUnits (s : State) (cells : List (Nat × Byte)) : State :=
  ((cells.map (fun c => c.1 / 8)).eraseDups).foldl (fun s u =>
    let (v, s) := takeFree s
    if v % 2 = 1 then
      let s := { s with spdBad := Tab.erase s.spdBad u }
      (cells.filter (fun c => decide (c.1 / 8 = u))).foldl
        (fun s c => { s with mem := Memory.write s.mem c.1 c.2 }) s
    else s) s

/-- Whether an address lies in memory that a WARM reset keeps. -/
def keptAddr (s : State) (pa : Nat) : Bool :=
  decide (pa < visTop s) || decide (spdBase ≤ pa ∧ pa < spdEnd)

/-- The bytes in the store buffer of a core, and those in its combining buffer. -/
def sbCells (k : Core) : List (Nat × Byte) :=
  k.sb.flatMap (fun e => e.parts.flatMap (fun p =>
    (upto p.bytes.length).map (fun i => (p.pa + i, p.bytes.getD i 0))))
def cbCells (k : Core) : List (Nat × Byte) :=
  k.cb.flatMap (fun b => ((upto 64).filter (fun i => b.mask.getLsbD i)).map
    (fun i => (64 * b.line + i, b.data.extractLsb' (8 * i) 8)))

/-- The buffered stores of every core meet a WARM reset. -/
def warmStores (s : State) : State :=
  s.cores.foldl (fun s e =>
    keepUnits s ((sbCells e.2 ++ cbCells e.2).filter (fun c => keptAddr s c.1))) s

/-- A local line meets a WARM reset: its current value is written to memory; a line that a partner
holds X-R or X-W is poisoned as LOST (R206). Counts the poisoned lines and the shared copies
dropped. -/
def warmLine (x : State × Nat × Nat) (e : Nat × LineRec) : State × Nat × Nat :=
  let (s, d0, d1) := x
  let r := e.2
  if 2 ^ 51 ≤ 64 * e.1 then x
  else
    let s := writeBack s e.1
    if r.powner.isSome then (setPoison s e.1 (some .lost), d0 + 1, d1)
    else (s, d0, d1 + r.partners.length)

/-- A line write that its home has received, of this node or of a partner, is completed (R190). -/
def warmWrite (s : State) (q : HomeReq) : State :=
  match q.req with
  | .wrLine mask d p =>
    let k := if p then some Poison.fwd
      else if mask = BitVec.allOnes 64 then none else memPoison s q.line
    let s := dramWrite s q.line (mergeLine (memLine s q.line) d mask) k
    if p && !(onChan s q.line s.deadCh) then logPoison s q.line .fwd else s
  | _ => s

/-- The requests of comet channels are dropped (R331, R430). -/
def warmChans (s : State) : State :=
  let (s, hq) := s.homeQ.foldl (fun x q => match q.who with
    | .req (.comet n) => dropReq n x q
    | _ => (x.1, x.2 ++ [q])) (s, [])
  { s with homeQ := hq }

/-- The write-back of a WARM reset, with its one RECLAIM record (R206); stripe updates and the check
caches with it (R296, R298). -/
def warmMemory (s : State) : State :=
  let s := warmChans s
  let (s, d0, d1) := s.lines.foldl warmLine (s, 0, 0)
  let s := warmStores (s.homeQ.foldl warmWrite s)
  let s := logEv s { code := 0x22, cls := if 0 < d0 then clsContained else clsRecovered,
                     kind := kDevice, d0 := d0, d1 := d1 }
  { s with lines := [] }

/-- The fabric stores that have left their core are put on their lanes before the ports go DOWN, and so
complete at the partner (R190). One that no credit admits yet is lost as a store not yet accepted
(DESIGN CHOICE, assumption 117). -/
def warmSend (s : State) : State :=
  let s := { s with outbox := s.outbox.filter (fun m => decide (m.op.toNat = opWrLine)) }
  packAll s s.outbox.length

/-- Every port goes DOWN with REASON 7 at the start of a WARM reset. -/
def warmPorts (s : State) : State :=
  (upto 512).foldl (fun s p =>
    if portUp s p || decide (fget s F.fabPstat_ST p = 2) then
      logEv s { code := 0x42, cls := clsRecovered, kind := kPort, unit := p, d0 := 7 }
    else s) s

/-- Every register at its Warm value (R12); a node whose MODE stays ROOT has STRAT 0 and LOCK 1 (R402). -/
def warmRegs (s : State) : State :=
  rootLock { s with warmed := true,
                    regs := s.regs.map (fun e =>
                      (e.1, w64 (e.1.1.unitFix e.1.2 (e.1.1.resetNat true e.2.toNat)))) }

/-- What a WARM reset clears beside the registers. -/
def warmClear (s : State) : State :=
  let t := s.time
  let sv := s.svc
  let d := s.dev
  let links := s.fab.links.map (fun e =>
    (e.1, ({ Link.reset with wire := e.2.wire, lanes := e.2.lanes, ctrls := e.2.ctrls } : Link)))
  let fab := { Fab.reset with kept := s.fab.kept, links := links }
  let time := { t with latch := [], caps := [], tout := [], pps := none, good := 0, tsync := [],
                       timeSet := none }
  let svc := { Svc.reset with addr := sv.addr, ibi := sv.ibi }
  let dev := { d with bootDue := some false, halted := false, romHalt := false, service := false,
                      ps1 := false, lcTarget := none, dbg := none }
  { s with ccache := [], cores := [], homeQ := [], homeDone := [], snoops := [], txs := [], reclaims := [],
           sseq := [], outbox := [], fab := fab, winUse := [], missQ := [], missOvf := false,
           vps := [], vjobs := [], vmsgs := [], proxyQ := [], copies := [], chans := [], etlb := [], time := time, svc := svc, dev := dev,
           resets := [] }

/-- A WARM reset (R430). Nothing happens in OFF or while a COLD reset runs, which is wider. -/
def warmReset (s : State) : State :=
  if s.dev.off || decide (s.dev.bootDue = some true) then s
  else
    let old := fget s F.lcState_STATE 0
    let s := stopUpdate (cutBurn s) 2
    let s := s.cores.foldl (fun s e => loseTlb s e.1) s
    let s := warmMemory (warmPorts (warmSend s))
    loadFuses (lifeChange (warmClear (warmRegs s)) old)

/-- WARM: CORE_PKGCTL.WARM (R430). -/
def execWarm (s : State) : Host.Outcome State Fault Refusal := .next (warmReset s)

/-- WARM_RST_N: low starts a WARM reset, which holds before the boot flow until the rise (R430,
R457). -/
def execWarmRstN (low : Bool) (s : State) : Host.Outcome State Fault Refusal :=
  let s := if low && !s.dev.warmLow then warmReset s else s
  let dev := s.dev
  .next { s with dev := { dev with warmLow := low } }

/-- LC_ADVANCE_RESET: 10 ms after LC_ADVANCE (R371). -/
def execLcAdvanceReset (s : State) : Host.Outcome State Fault Refusal :=
  if s.dev.lcTarget.isSome then .next (warmReset s) else .next s

/-- TAMPER_N: one wipe per low period, in any state but OFF (R309, R457). -/
def execTamperN (low : Bool) (s : State) : Host.Outcome State Fault Refusal :=
  let fresh := low && !s.dev.tamperLow && !s.dev.off
  let dev := s.dev
  let s := { s with dev := { dev with tamperLow := low } }
  .next (if fresh then wipe s 1 else s)

/-- WIPE_DONE (R309). -/
def execWipeDone (s : State) : Host.Outcome State Fault Refusal :=
  if fbit s F.spdStat_WIPING 0 then .next (wipeEnd s) else .next s

/-! The boot flow (R360, R364). -/

/-- Places of the secure part (R365). -/
def monBase : Nat := 0x10001F00000
def cfgBase : Nat := 0x10001FD0000
def handOff : Nat := 0x10001FDF000

/-- Where an image is copied: SERVICE, MONITOR and CONFIG into the secure part, a DRAM image to its LOAD
address, where it waits for INIT (R364, R365). -/
def imgPlace (e : List Byte) : Nat :=
  let t := imgType e
  if t = 1 then spdSecure else if t = 2 then monBase else if t = 3 then cfgBase else imgLoad e

/-- The images of a header in the order of steps 4 and 5: SERVICE, CONFIG, MONITOR, then the DRAM images
(R364). -/
def imgOrder (h : List Byte) : List (List Byte) :=
  let of (t : Nat) : List (List Byte) := (imgEnts h).filter (fun e => decide (imgType e = t))
  of 1 ++ of 3 ++ of 2 ++ (imgEnts h).filter (fun e => decide (3 < imgType e))

/-- Each image is copied into its place and its copy verified, until one fails (R364); whether all are good.
-/
def copyImages (s : State) (i : Nat) (h : List Byte) : Bool × State :=
  (imgOrder h).foldl (fun (x : Bool × State) e =>
    if x.1 then (imgGood x.2 i e, copyIn x.2 (imgPlace e) (imgBytes x.2 i e)) else x) (true, s)

/-- The records of CONFIG until KEY 0 (R365). -/
def configRecs : List Byte → Nat → List (Nat × Nat)
  | _, 0 => []
  | bs, n + 1 =>
    if bs.length < 16 ∨ fieldAt bs 0 2 = 0 then []
    else (fieldAt bs 0 2, fieldAt bs 8 8) :: configRecs (bs.drop 16) n

/-- CONFIG is applied: PMODE at a COLD boot only; each unknown key is logged (R293, R365). -/
def applyConfig (s : State) (cold : Bool) (cfg : List Byte) : State :=
  let recs := configRecs cfg cfg.length
  let s := (recs.filter (fun x => decide (x.1 ≠ 1))).foldl (fun s x =>
    logEv s { code := 0x70, cls := clsCorrected, kind := kDevice, d0 := x.1, d1 := x.2 }) s
  if cold then
    let mode := match (recs.filter (fun x => decide (x.1 = 1))).getLast? with
      | some x => x.2 % 2
      | none => 1
    fput s F.memqMode_PMODE 0 mode
  else s

/-- A retired channel of the repair record is served by its spare, or, where the spare is taken,
stays out of service (R301, R303, R348). -/
def applyChan (s : State) (c : Nat) : State :=
  let q := c / 16
  if fget s F.memqStat_SPARE q = 0 then
    fput (fput s F.memqStat_SPARE q 2) F.memqStat_SPCH q (c % 16)
  else
    let s := fput (fput s F.memqStat_DEGR q 1) F.memqStat_FLCH q (c % 16)
    if fbit s F.memqMode_PMODE 0 then degrade s c
    else { s with deadCh := addNew s.deadCh c }

/-- The repair record is applied at a COLD boot, where a copy of it can be read (R348, R354). -/
def applyRepairs (s : State) : State :=
  if !(repairReads s) then s else
  let s := s.keep.cores.foldl (fun s e =>
    fput (fput s F.fltClspare_SST e.1 2) F.fltClspare_RETIRED e.1 e.2) s
  let s := match s.keep.slice with
    | some n => fput (fput s F.fltSlstat_SST 0 2) F.fltSlstat_MSLICE 0 n
    | none => s
  let s := fsat s F.fltSlstat_WAYOFF 0
    (s.keep.ways.filter (fun w => decide (arrayKind w.1 = kSlice))).length
  let s := fsat s F.spdStat_FREP 0 (s.keep.columns.filter (fun c => decide (c.1 = 0x30))).length
  s.keep.chans.foldl applyChan s

/-- The user record is applied at a COLD boot (R443, R446): the lanes and channels with a usable
entry start from it. -/
def applyCal (s : State) : State :=
  let ents := ((calNewest s).map (fun x => x.2.ents)).getD []
  let good := (ents.filter (fun e => e.2.1 && !e.2.2)).map (fun e => e.1)
  let s := ents.foldl (fun s e => showStale s e.1 e.2.2) s
  let fab := s.fab
  let s := { s with fab := { fab with kept := good.filter (fun u => decide (u < 544)) } }
  showCal ((good.filter (fun u => decide (544 ≤ u))).foldl
    (fun s u => fput s F.calMstat_REC (u - 544) 1) s)

/-- Step 1 to 6 of a COLD boot that a WARM boot leaves out: repairs, calibration and HELD. -/
def coldApply (s : State) : State :=
  fput (applyCal (applyRepairs s)) F.svcKey_HELD 0 (b2n (s.keep.key.isSome && repairReads s && !(keyDead s)))

/-- The slot of the higher SEQ among candidates, slot A where both are equal (R360). -/
def higherSlot (seq : Nat → Nat) : List Nat → Option Nat
  | [] => none
  | [a] => some a
  | a :: b :: _ => some (if seq a < seq b then b else a)

/-- The slot that R360 chooses among those not set aside, and whether it is a last resort. -/
def chooseSlot (s : State) (st : BootRec) (failed : List Nat) : Option (Nat × Bool) :=
  let seq (i : Nat) : Nat := hdrSeq (slotHeader s i)
  let ok := [0, 1].filter (fun i => decide (slotWhy s i true = 0) && !(failed.contains i))
  let cand := ok.filter (fun i => decide (seq i ≠ st.rej i))
  (higherSlot seq (if cand.isEmpty then ok else cand)).map (fun i => (i, cand.isEmpty))

/-- WHY of slot `i` when slot `b` has booted (none: no slot has). A slot set aside because the status write
of its trial failed shows 0x9, or 0x7 where its SEQ was rejected (DESIGN CHOICE, assumption 135). -/
def whyOf (s : State) (st : BootRec) (bad : List Nat) (b : Option Nat) (i : Nat) : Nat :=
  let w := slotWhy s i true
  if b = some i then 0
  else if w ≠ 0 then w
  else if bad.contains i then 6
  else if hdrSeq (slotHeader s i) = st.rej i then 7
  else 9

/-- BOOT_STAT's SEQ, WHYA, WHYB and FLASH2 (R373). -/
def showBoot (s : State) (st : BootRec) (bad : List Nat) (b : Option Nat) : State :=
  let s := wr s .bootStat 0 0
  let s := fput (fput s F.bootStat_WHYA 0 (whyOf s st bad b 0)) F.bootStat_WHYB 0
    (whyOf s st bad b 1)
  fput s F.bootStat_FLASH2 0 (b2n s.keep.flash2)

/-- No slot boots: the ROM halts (R363). -/
def noImage (s : State) (st : BootRec) (bad : List Nat) : State :=
  let s := showBoot s st bad none
  let dev := s.dev
  { s with dev := { dev with romHalt := true } }

/-- Step 7: the hand-off block, then LCORE 0 starts (R366). -/
def startMonitor (s : State) (h : List Byte) : State :=
  let stat := natLe (rd s .bootStat 0).toNat 8
  let used := (imgEnts h).length
  let s := copyIn s handOff (stat ++ (upto 8).map (fun i => if i < used then 0 else 1))
  if s.dev.halted then s
  else
    let entry := (((imgEnts h).find? (fun e => decide (imgType e = 2))).map imgEntry).getD 0
    let s := wr s .pstate 0 (Reg.base .pstate false 0)
    let s := fput s F.coreMdtb_EN 0 0
    let s := modCore s 0 (fun k => { k with run := .run, pc := w64 (monBase + entry) })
    setG s 0 1 (w64 handOff)

/-- The chosen slot has its images copied and verified, and its status is recorded: the rest of the
flow (R360, R364). -/
def bootSlot (s : State) (st : BootRec) (bad : List Nat) (b : Nat) (last trial : Bool) : State :=
  let h := slotHeader s b
  let s := showBoot s st bad (some b)
  let s := fput (fput s F.bootStat_SEQ 0 (hdrSeq h)) F.bootStat_LASTR 0 (b2n last)
  let s := fput (fput s F.bootStat_TRIAL 0 (b2n trial)) F.bootStat_SLOT 0 b
  let s := fput (fput s F.bootStat_VALID 0 1) F.fltMoon_IMGSEQ 0 (hdrSeq h)
  let dev := s.dev
  let s := { s with dev := { dev with service := true, since := tbOf s } }
  startMonitor ((upto 512).foldl startTraining s) h

/-- R360: slots are tried until one boots. `bad` have failed their digests, `lost` their status
write. The record keeps TSLOT of a slot whose write failed, as the text of R360 does. -/
def bootLoop (s : State) (cold : Bool) (st : BootRec) (epoch : Nat) (bad lost : List Nat) :
    Nat → State
  | 0 => noImage s st bad
  | n + 1 =>
    match chooseSlot s st (bad ++ lost) with
    | none => noImage s st bad
    | some (b, last) =>
      let h := slotHeader s b
      let (good, s) := copyImages s b h
      if !good then bootLoop s cold st epoch (b :: bad) lost n
      else
        let cfg := (imgEnts h).find? (fun e => decide (imgType e = 3))
        let s := applyConfig s cold ((cfg.map (imgBytes s b)).getD [])
        let s := if cold && lost.isEmpty then coldApply s else s
        let trial := decide (hdrSeq h ≠ st.conf b)
        let st1 := if trial then { st with tslot := b, tseq := hdrSeq h } else st
        let s := fput s F.nodeSelf_EPOCH 0 epoch
        let (ok, s) := writeStatus s { st1 with epoch := epoch }
        let s := if ok then s
          else logEv s { code := 0x72, cls := clsCorrected, kind := kDevice, d0 := b,
                         d1 := b2n trial }
        if !ok && trial then bootLoop s cold st1 epoch bad (b :: lost) n
        else bootSlot s st bad b last trial

/-- Steps 2 to 7 of the boot flow (R364). A TSLOT that is none of 0x00, 0x01 and 0xFF names no slot: nothing
is rejected, and the record keeps it (DESIGN CHOICE, assumption 135). -/
def bootFlow (s : State) (cold : Bool) : State :=
  let lc := fget s F.lcState_STATE 0
  let (v, s) := takeFree s
  let svc := s.svc
  let dev := s.dev
  let s := { s with svc := { svc with session := natLe v 16 },
                    dev := { dev with bootDue := none, romHalt := decide (lc = 5) } }
  if lc = 0 ∨ lc = 5 then s
  else
    let s := copyHeader (copyHeader s 0) 1
    let st := (newestStatus s).1
    let st := if st.tslot = 0 then { st with reja := st.tseq, tslot := 0xFF }
      else if st.tslot = 1 then { st with rejb := st.tseq, tslot := 0xFF }
      else st
    let epoch := ((if cold then st.epoch else fget s F.nodeSelf_EPOCH 0) + 1) % 256
    bootLoop s cold st epoch [] [] 3

/-- BOOT_FLOW_START: after a COLD or WARM reset, with no reset pin held low (R364, R430, R457). -/
def execBootFlowStart (s : State) : Host.Outcome State Fault Refusal :=
  let held := s.dev.off || s.dev.coldLow || s.dev.warmLow || s.dev.extest
  match s.dev.bootDue with
  | some cold => if held then .next s else .next (bootFlow s cold)
  | none => .next s

end Sys2Proof.Machine
end

