-- ==== Sys2Proof/Machine/Power.lean ====
section
/-! DEFINITION. CLUSTER and CORE resets and the release of a core (R431, R432), C6 and CLUSTER_OFF
(R434, R435), package standby (R436–R438), and the cluster frequency (R440). -/

namespace Sys2Proof.Machine

/-! CLUSTER and CORE resets. -/

/-- The number of a core's own registers of this kind: system registers and core-local ports; 0 for
registers that are not a core's (R13). -/
def Reg.ownCount (r : Reg) : Nat :=
  match r.place with
  | .sys _ n => n
  | .localPort _ dims => dims.foldl (fun a d => a * d.2) 1
  | .port _ _ => 0

/-- The registers of core `c` take their Warm values, which are those that the table of the register
gives when nothing is listed (R12, R13). -/
def resetRegs (s : State) (c : Nat) : State :=
  { s with regs := s.regs.filter (fun e =>
      decide (e.1.1.ownCount = 0) || decide (e.1.2 / e.1.1.ownCount ≠ c)) }

/-- A reset of core `c` goes as far as it can (R431): a running move ends first (R428), the buffers
drain, the caches are written back, what is outstanding ends, and the core is HELD with its registers
at their Warm values. The counter-dump state stays. -/
def resetStep (s : State) (c : Nat) : State :=
  if (Tab.find s.moves c).isSome then s
  else
    let s := modCore (haltAs s (Fin.ofNat 128 c) .draining) c (fun k => { k with waitt := none })
    let s := drainAll s c
    let k := coreOf s c
    if !k.sb.isEmpty || !k.cb.isEmpty then s
    else
      let s := flushCore s c
      if coreBusy s c then s
      else
        let s := resetRegs (loseTlb s c) c
        { setCore s c { Core.reset with dumps := k.dumps } with
          resets := s.resets.filter (fun x => x ≠ c) }

/-- The mark of a CLUSTER reset of cluster `n` among the resets. -/
def clusterMark (n : Nat) : Nat := 128 + n

/-- A CLUSTER reset applies to CORE_CLSTAT, whose FACT then follows the kept FREQ, once its cores are HELD
(R13, R431, R435). -/
def clusterStep (s : State) (n : Nat) : State :=
  if s.resets.any (fun c => decide (c < 128) && decide (c / 8 = n)) then s
  else
    let s := wr s .coreClstat n (Reg.base .coreClstat true n)
    let s := fput s F.coreClstat_FACT n (min (fget s F.coreClctl_FREQ n) 0x1D)
    { s with resets := s.resets.filter (fun x => x ≠ clusterMark n) }

/-- Every reset that waits goes on, those of cores before that of their cluster. -/
def pumpResets (s : State) : State :=
  let s := (s.resets.filter (fun x => decide (x < 128))).foldl resetStep s
  (s.resets.filter (fun x => decide (128 ≤ x))).foldl (fun s x => clusterStep s (x - 128)) s

/-- A CORE reset of core `c` starts. -/
def coreReset (s : State) (c : Nat) : State :=
  resetStep { s with resets := addNew s.resets c } c

/-- A CLUSTER reset: of its cores, and then of CORE_CLSTAT (R13, R431, R435). -/
def clusterReset (s : State) (n : Nat) : State :=
  let s := (upto 8).foldl (fun s k => coreReset s (8 * n + k)) s
  clusterStep { s with resets := addNew s.resets (clusterMark n) } n

/-- CORE_RESET (R431). -/
def execCoreReset (c : CoreNo) (s : State) : Host.Outcome State Fault Refusal :=
  .next (coreReset s c)

/-- CLUSTER_RESET (R431). -/
def execClusterReset (n : Fin 16) (s : State) : Host.Outcome State Fault Refusal :=
  .next (clusterReset s n)

/-- A write of CORE_START: the PC field, and with REL = 1 the release of a HELD core (R432). A core
whose reset has not ended is not HELD yet. -/
def writeStart (s : State) (c : Nat) (v : Word) : State :=
  let s := regWrite s .coreStart c v
  let k := coreOf s c
  if bit v.toNat 0 && decide (k.run = .held) && !(s.resets.contains c) then
    let pc := w64 (fget s F.coreStart_PC c * 4)
    let s := wr s .pstate c (Reg.base .pstate true c)
    setCore (fput s F.coreMdtb_EN c 0) c { k with run := .run, pc := pc }
  else s

/-- REL (R432). -/
def execRel (c : CoreNo) (v : Word) (s : State) : Host.Outcome State Fault Refusal :=
  .next (writeStart s c (v ||| 1))

/-! C6 and CLUSTER_OFF. -/

/-- CLUSTER_OFF: with OFFEN set and every core of the cluster in C6 (R435). -/
def execClusterOff (n : Fin 16) (s : State) : Host.Outcome State Fault Refusal :=
  if fbit s F.coreClctl_OFFEN n &&
      (upto 8).all (fun k => decide ((coreOf s (8 * n.val + k)).run = .c6)) then
    .next (fput s F.coreClstat_COFF n 1)
  else .next s

/-- The core is powered again, and its cluster if it was off: it is in C1 (R434, R435). -/
def powerUp (s : State) (c : CoreNo) : State :=
  modCore (fput s F.coreClstat_COFF (c.val / 8) 0) c (fun k => { k with run := .c1 })

/-- C6_WAKE: a wake condition powers the core, whose cluster comes back if it was off, and ends the
wait: an eligible interrupt is taken; else a WAITT deadline is reached and gD := 0. Where the descriptor
of a pending interrupt is not at hand, the powered core goes on waiting in C1 until it has come (R96,
R434, R435). -/
def execC6Wake (c : CoreNo) (s : State) : Host.Outcome State Fault Refusal :=
  let k := coreOf s c
  if k.run ≠ .c6 ∨ s.dev.ps1 = true then .next s
  else
    match eligible c s with
    | .ok (some _) _ => execInterrupt c (powerUp s c)
    | .error _ _ => execInterrupt c (powerUp s c)
    | .ok none _ =>
      match k.waitt with
      | some (a, d) =>
        let s := powerUp (if deadlinePast s a then s else advanceTb s a.toNat) c
        .next (setG (modCore s c (fun k => { k with run := .run, waitt := none })) c d 0)
      | none => .next s

/-! Package standby. -/

/-- Whether any tide flow entry exists on the node. -/
def anyFlow (s : State) : Bool :=
  s.regs.any (fun e => decide (e.1.1 = .tideFlowa) && decide (fget s F.tideFlowa_ROLE e.1.2 ≠ 0))

/-- The first condition of R436 that fails, as its PSTAT code; 0 when all hold. -/
def ps1Why (s : State) : Nat :=
  let upd := fget s F.fltMoon_UPD 0
  if anyFlow s then 3
  else if s.lines.any (fun e => e.2.inRd) then 4
  else if !s.reclaims.isEmpty || s.migrating.isSome || !s.moves.isEmpty ||
      decide (upd = 1 ∨ upd = 2) then 5
  else if s.chans.any (fun e => decide (chanSt s e.1 = csRun ∨ chanSt s e.1 = csWait)) then 6
  else 0

/-- PS1 = 1: standby is armed or refused (R436). -/
def armPs1 (s : State) : State :=
  let w := ps1Why s
  fput s F.corePkgctl_PSTAT 0 (if w = 0 then 1 else w)

/-- PS1 (R436). -/
def execPs1 (s : State) : Host.Outcome State Fault Refusal := .next (armPs1 s)

/-- CANCEL = 1 disarms (R436). -/
def cancelPs1 (s : State) : State := fput s F.corePkgctl_PSTAT 0 7

/-- CANCEL (R436). -/
def execCancel (s : State) : Host.Outcome State Fault Refusal := .next (cancelPs1 s)

/-- The memory-side cache is written back and empty (R437). -/
def cleanMsc (s : State) : State :=
  s.lines.foldl (fun s e =>
    if e.2.msc.isSome then writeBack s e.1 else s) s

/-- Whether a fabric store or write-back of this node waits to leave, or its flit is not yet acknowledged
(R190, R437). -/
def storesOut (s : State) : Bool :=
  let isStore (m : Msg) : Bool := decide (m.op.toNat = opWrLine ∨ m.op.toNat = opWb)
  let mine (f : Flit) : Bool := decide (f.src = selfId s) && (flitMsgs f 0).any isStore
  s.outbox.any isStore || s.fab.links.any (fun e =>
    e.2.queue.any (fun q => mine q.flit) || e.2.replay.any (fun r => mine r.2.1))

/-- A port goes DOWN with REASON 7 for PS1; one that is DOWN takes that REASON too (R437). -/
def ps1Port (s : State) (p : Nat) : State :=
  if portExists s p && decide (fget s F.fabPstat_ST p = 1) then fput s F.fabPstat_REASON p 7
  else dropPort s p 7

/-- PS1_ENTRY: an armed device whose clusters are all off; the conditions are checked again,
fabric stores complete first, and the check caches are written back (R296, R436, R437). -/
def execPs1Entry (s : State) : Host.Outcome State Fault Refusal :=
  let off := (upto 16).all (fun n => fbit s F.coreClstat_COFF n)
  if fget s F.corePkgctl_PSTAT 0 ≠ 1 ∨ off = false ∨ s.dev.ps1 = true then .next s
  else
    let w := ps1Why s
    if w ≠ 0 then .next (fput s F.corePkgctl_PSTAT 0 w)
    else if !s.txs.isEmpty || storesOut s then .next s
    else
      let s := cleanChecks (cleanMsc s) (fun _ _ => true)
      let dev := s.dev
      let s := { s with dev := { dev with ps1 := true } }
      .next ((upto 512).foldl ps1Port s)

/-- PS1 ends: PSTAT, the ports retrain, and the PORT_SETs that waited apply (R437, R438). -/
def leavePs1 (s : State) : State :=
  let dev := s.dev
  let svc := s.svc
  let s := { s with dev := { dev with ps1 := false }, svc := { svc with portSets := [] } }
  let s := fput s F.corePkgctl_PSTAT 0 2
  let s := (upto 512).foldl startTraining s
  svc.portSets.foldl doPortSet s

/-- PS1_EXIT: a wake condition of any core holds (R438). -/
def execPs1Exit (s : State) : Host.Outcome State Fault Refusal :=
  if s.dev.ps1 then .next (leavePs1 s) else .next s

/-! Frequency (R440). -/

/-- FACT of a cluster set, with the sensed temperature and THR; from 95 °C it does not exceed 0x1D. -/
def setFact (s : State) (n f temp : Nat) : State :=
  let f := if 95 ≤ temp then min f 0x1D else f
  let s := fput (fput s F.coreClstat_FACT n f) F.coreClstat_TEMP n temp
  fput s F.coreClstat_THR n (b2n (decide (f < fget s F.coreClctl_FREQ n)))

/-- A junction temperature of 125 °C or more in cluster `n` drives THERMTRIP_N low and halts the device (R335,
R440). -/
def heat (s : State) (n temp : Nat) : State :=
  if 125 ≤ temp then
    let dev := s.dev
    fatal { s with dev := { dev with thermtrip := true } } 6 kCluster n
  else s

/-- FREQUENCY_DOWN_STEP: over a limit FACT does not exceed 0x1D, and falls by one step, down to 0x08. -/
def execFrequencyDownStep (n : Fin 16) (temp : BitVec 8) (s : State) :
    Host.Outcome State Fault Refusal :=
  let f := fget s F.coreClstat_FACT n
  .next (heat (setFact s n (min (if 8 < f then f - 1 else f) 0x1D) temp.toNat) n temp.toNat)

/-- FREQUENCY_UP_STEP: within the limits FACT rises by one step toward FREQ, above 0x1D only below
95 °C. -/
def execFrequencyUpStep (n : Fin 16) (temp : BitVec 8) (s : State) :
    Host.Outcome State Fault Refusal :=
  let f := fget s F.coreClstat_FACT n
  let up := decide (f < fget s F.coreClctl_FREQ n) && decide (temp.toNat < 105) &&
    (decide (f < 0x1D) || decide (temp.toNat < 95))
  .next (heat (setFact s n (if up then f + 1 else f) temp.toNat) n temp.toNat)

/-- FREQ has been written: FACT follows it, up to 0x1D at once, and from a limit only downward. -/
def followFreq (s : State) (n : Nat) : State :=
  let f := fget s F.coreClstat_FACT n
  let freq := fget s F.coreClctl_FREQ n
  let hot := fbit s F.coreClstat_THR n || decide (105 ≤ fget s F.coreClstat_TEMP n)
  let new := if hot then min f freq else min freq (max f 0x1D)
  setFact s n new (fget s F.coreClstat_TEMP n)

end Sys2Proof.Machine
end

