-- ==== Sys2Proof/Machine/Service.lean ====
section
/-! DEFINITION. The service mailbox's request ring (R393) and the I3C target (R376, R377). -/

namespace Sys2Proof.Machine

/-! The request ring (R393). -/

/-- Entries of the request ring. -/
def reqSize (s : State) : Nat := 2 ^ (fget s F.svcReq_SIZE 0 + 4)

/-- Whether the device reads an entry now. -/
def reqReady (s : State) : Bool :=
  fbit s F.svcReq_EN 0 && serving s && !s.dev.ps1 &&
    decide (fget s F.svcReqidx_WIDX 0 ≠ fget s F.svcReqidx_RIDX 0) &&
    inDram s (fget s F.svcReq_BASE 0 * 4096) (256 * reqSize s)

/-- Whether a CMD message to `dst` has a way out by the node table. -/
def cmdWay (s : State) (dst : Nat) : Bool :=
  decide (selfId s ≠ 0xFFFF) && decide (dst ≠ 0xFFFF) &&
    (decide (dst = selfId s) || (tableRoute s dst none).isSome)

/-- One entry: its packet goes by VIA, or comes back in the reply ring with KIND 1. -/
def mailOut (s : State) (e : List Byte) : State :=
  let dst := fieldAt e 0 2
  let via := fieldAt e 2 1
  let port := fieldAt e 4 2
  let pk := (e.drop 16).take 224
  let bs := pk.take (32 + min (fieldAt pk 8 2) 192)
  if via = 0 then receive s .mailbox bs
  else if via = 1 && cmdWay s dst then sendCmd s dst 0 bs
  else if via = 2 && decide (port < 512) && portUp s port then sendCmd s 0xFFFF port bs
  else pushRsp s (selfId s) 0 0 1 pk

/-- Reads request entries in order, at most `n`. An entry that cannot be read without poison is
passed over. -/
def readReqs (s : State) : Nat → State
  | 0 => s
  | n + 1 =>
    if reqReady s then
      let r := fget s F.svcReqidx_RIDX 0
      let a := fget s F.svcReq_BASE 0 * 4096 + r % reqSize s * 256
      match devLines s (a / 64) 4 with
      | (none, s) => s
      | (some (bs, poison), s) =>
        let s := fput (devDone s) F.svcReqidx_RIDX 0 (r + 1)
        readReqs (if poison then s else mailOut s bs) n
    else s

/-- The device reads what software has written, at most one ring. -/
def pumpReqs (s : State) : State :=
  readReqs s (min (reqSize s)
    ((fget s F.svcReqidx_WIDX 0 + 2 ^ 32 - fget s F.svcReqidx_RIDX 0) % 2 ^ 32))

/-- A write of SVC_REQIDX: WIDX advances (R393). -/
def writeReqIdx (s : State) (v : Word) : State := pumpReqs (regWrite s .svcReqidx 0 v)

/-- A write of SVC_RSPIDX: RIDX advances, and held replies are written (R393). -/
def writeRspIdx (s : State) (v : Word) : State := flushRsp (regWrite s .svcRspidx 0 v)

/-- SVC_REQIDX_WRITE (R393). -/
def execSvcReqidxWrite (v : Word) (s : State) : Host.Outcome State Fault Refusal :=
  .next (writeReqIdx s v)

/-- SVC_RSPIDX_WRITE (R393). -/
def execSvcRspidxWrite (v : Word) (s : State) : Host.Outcome State Fault Refusal :=
  .next (writeRspIdx s v)

/-! I3C (R376, R377). -/

/-- The bytes that a controller reads. -/
def setBytes (s : State) (bs : List Byte) : State :=
  { s with out := { s.out with bytes := bs, nack := false } }

/-- Whether the target answers at its dynamic address. -/
def i3cOn (s : State) : Bool := s.svc.addr.isSome && !s.dev.off

/-- Whether the target takes its address: not while it holds 4 requests (R377). -/
def i3cTakes (s : State) : Bool := decide (s.svc.i3cq.length < 4)

/-- The target refuses its address: the controller reads nothing (R377). -/
def nackI3c (s : State) : State := { s with out := { s.out with bytes := [], nack := true } }

/-- The state with the dynamic address set. -/
def setAddr (s : State) (a : Option (BitVec 7)) : State :=
  let svc := s.svc
  { s with svc := { svc with addr := a } }

/-- The provisioned ID: bits [47:0] of DEVID, most significant byte first. -/
def provId (s : State) : List Byte := natBe (leNat (devId s) % 2 ^ 48) 6

/-- What GETBCR and GETDCR answer: in-band interrupts with a data byte, and device class 0
(21_signals_and_package.md, I3C). -/
def i3cBcr : Byte := 0x06
def i3cDcr : Byte := 0x00

/-- I3C_PRIVATE_WRITE: one packet of 32 to 224 bytes, which the target holds until the device takes it; any
other length is discarded (R377). -/
def execI3cPrivateWrite (data : List Byte) (s : State) : Host.Outcome State Fault Refusal :=
  if !(i3cOn s) then .next s
  else if !(i3cTakes s) then .next (nackI3c s)
  else
    let s := setBytes s []
    let svc := s.svc
    if 32 ≤ data.length ∧ data.length ≤ 224 then
      .next { s with svc := { svc with i3cq := svc.i3cq ++ [data] } }
    else .next s

/-- The device takes the requests that the I3C target holds, in order. -/
def pumpI3c (s : State) : State :=
  let svc := s.svc
  svc.i3cq.foldl (fun s d => receive s .i3c d) { s with svc := { svc with i3cq := [] } }

/-- I3C_PRIVATE_READ: the oldest pending reply; it stays pending when the controller ends the read
early (R377). -/
def execI3cPrivateRead (whole : Bool) (s : State) : Host.Outcome State Fault Refusal :=
  if !(i3cOn s) then .next s
  else if !(i3cTakes s) then .next (nackI3c s)
  else
    match s.svc.replies with
    | [] => .next (setBytes s [])
    | r :: rs =>
      if whole then
        let svc := s.svc
        .next (setBytes { s with svc := { svc with replies := rs, ibiRaised := none } } r)
      else .next s

/-- ENTDAA: a target without a dynamic address gives its provisioned ID, BCR and DCR and takes one
(R376). -/
def execEntdaa (a : BitVec 7) (s : State) : Host.Outcome State Fault Refusal :=
  if s.dev.off || s.svc.addr.isSome then .next s
  else .next (setAddr (setBytes s (provId s ++ [i3cBcr, i3cDcr])) (some a))

/-- RSTDAA (R376). -/
def execRstdaa (s : State) : Host.Outcome State Fault Refusal :=
  if s.dev.off then .next s else .next (setAddr s none)

/-- SETDASA (R376). -/
def execSetdasa (a : BitVec 7) (s : State) : Host.Outcome State Fault Refusal :=
  if s.dev.off || s.svc.addr.isSome then .next s else .next (setAddr s (some a))

/-- A CCC that reads bytes of the target, which takes its address or refuses it (R377). -/
def cccRead (s : State) (bs : List Byte) : State :=
  if !(i3cOn s) then s else if i3cTakes s then setBytes s bs else nackI3c s

/-- GETPID (R376). -/
def execGetpid (s : State) : Host.Outcome State Fault Refusal := .next (cccRead s (provId s))

/-- GETBCR (R376). -/
def execGetbcr (s : State) : Host.Outcome State Fault Refusal := .next (cccRead s [i3cBcr])

/-- GETDCR (R376). -/
def execGetdcr (s : State) : Host.Outcome State Fault Refusal := .next (cccRead s [i3cDcr])

/-- GETSTATUS: two bytes, whose content the spec does not state: a free value (R376). -/
def execGetstatus (s : State) : Host.Outcome State Fault Refusal :=
  let (v, s) := takeFree s
  .next (cccRead s (natBe v 2))

/-- ENEC (R376, R377). -/
def execEnec (s : State) : Host.Outcome State Fault Refusal :=
  let svc := s.svc
  if s.dev.off then .next s else .next { s with svc := { svc with ibi := true } }

/-- DISEC (R376, R377). -/
def execDisec (s : State) : Host.Outcome State Fault Refusal :=
  let svc := s.svc
  if s.dev.off then .next s else .next { s with svc := { svc with ibi := false } }

/-- GETMWL: 224 (R376). -/
def execGetmwl (s : State) : Host.Outcome State Fault Refusal := .next (cccRead s (natBe 224 2))

/-- GETMRL: 224 (R376). -/
def execGetmrl (s : State) : Host.Outcome State Fault Refusal := .next (cccRead s (natBe 224 2))

end Sys2Proof.Machine
end

