-- ==== Sys2Proof/Machine/Port.lean ====
section
/-! DEFINITION. Port space (R24–R26, R57–R63, R246): where a port number leads, what a read and a
write of each register does, and PIN, POUT, PORT_TIMEOUT and REGISTER_WRITE (R9–R11, R88–R90). -/

namespace Sys2Proof.Machine

/-! Where a port number leads. -/

/-- Every register. -/
def allRegs : List Reg :=
  List.flatten [
    [.creg, .fpcs, .pstate, .hrsctl, .hrsent, .ppbase, .coreId, .corePredctl, .vdtb, .coreMdtb,
     .epc, .eaddr, .ecause, .stk, .slim, .coreIpend, .coreIpi, .asid, .vmid, .ftb, .ftmask, .pkr,
     .fltRclRing, .fltRclIdx],
    [.fltRclStat, .fltRclInt, .fabGcfg, .fabGstat, .nodeSelf, .nodeEnt, .nodeLctl, .fabPstat,
     .fabPerr, .tideFlowa, .tideFlowb, .tidePres, .nodeRbstat, .nodeShsel, .nodeShent, .reachA,
     .reachB, .reachC, .winA, .winB, .winStg0, .winStg1, .winCmd, .winMq],
    [.winMint, .vpArg, .vpCmd, .vpStat, .vpInt, .vpMdb, .vtDb, .memqMode, .memqScrub, .memqCerr,
     .memqStat, .spdPolicy, .spdStat, .cmtCtl, .cmtCfg, .cmtProg, .cmtStat, .cmtFaddr, .cmtInt,
     .cmtX, .cmtFtb, .cmtFtmask, .fltFatal, .fltClspare],
    [.fltSlstat, .fltMoon, .fltLogRing, .fltLogIdx, .fltLogCtl, .lcState, .bootStat, .bootFloor,
     .svcKey, .svcKeyw, .svcReq, .svcRsp, .svcReqidx, .svcRspidx, .svcInt, .svcCstat, .tbVal,
     .tbCmp, .tbSync, .tbPdly, .pegBase, .pegCtl, .pegCfg, .capCfg],
    [.capHead, .capInt, .toutCfg, .pmcCyc, .pmc, .pmsel, .psbbase, .pmcDump, .monSel, .monCnt,
     .coreClctl, .coreClstat, .coreStart, .corePrst, .corePkgctl, .calGstat, .calMstat, .calRec]]

/-- The instance at an offset from a register's base, and the bytes left over. -/
def instAt (off : Nat) : List (Nat × Nat) → Nat → Option (Nat × Nat)
  | [], i => some (i, off)
  | (stride, n) :: ds, i => if off / stride < n then instAt (off % stride) ds (i * n + off / stride) else none

/-- The instance of register `r` that holds port `p`, and the byte of it. A core-local port names the
registers of the issuing core; another reader has none (R26). -/
def Reg.locate (r : Reg) (c : Option CoreNo) (p : Nat) : Option (Nat × Nat) :=
  let fits (x : Nat × Nat) : Bool := decide (x.2 < r.width / 8)
  match r.place, c with
  | .sys _ _, _ => none
  | .localPort base dims, some c =>
    if base ≤ p then ((instAt (p - base) dims (c : Nat)).filter fits) else none
  | .localPort _ _, none => none
  | .port base dims, _ => if base ≤ p then (instAt (p - base) dims 0).filter fits else none

/-- Whether an instance answers: port registers of a base position at which no port starts do not
(R246), and VT_DB only where a vport of the core's VM has the index (R283). -/
def regHere (s : State) (c : Option CoreNo) (r : Reg) (i : Nat) : Bool :=
  match r with
  | .fabPstat | .fabPerr => portExists s i
  | .vtDb =>
    match c with
    | some c => (tenantVport s (fget s F.vmid_VMID c) i).isSome
    | none => false
  | _ => true

/-- The register at port `p`: its instance and the byte of it; none is unassigned (R25). -/
def regAt (s : State) (c : Option CoreNo) (p : Nat) : Option (Reg × Nat × Nat) :=
  match allRegs.findSome? (fun r => (r.locate c p).map (fun x => (r, x.1, x.2))) with
  | some (r, i, o) => if regHere s c r i then some (r, i, o) else none
  | none => none

/-- Offset of a port in the fuse readback (R372). -/
def fuseAt (p : Nat) : Option Nat :=
  if 0xB00100 ≤ p ∧ p < 0xB00240 then some (p - 0xB00100) else none

/-! Reads. -/

/-- The state code of a core in CORE_CLSTAT.CST; one whose reset has not ended is not HELD yet, and shows
C0 (DESIGN CHOICE, assumption 131). -/
def cstOf (s : State) (c : Nat) : Nat :=
  match (coreOf s c).run with
  | .run | .stepping | .draining => 0
  | .c1 => 1
  | .c6 => 2
  | .held => 3
  | .stopped => 4
  | .halted => 5

/-- Whether the copy that follows a flip has reached entry `n`: 65,536 entries in 37.5 µs, in ascending
order (R263; DESIGN CHOICE, assumption 79). -/
def bankCopied (s : State) (n : Nat) : Bool :=
  fbit s F.nodeRbstat_COPY 0 && decide (37500 * (n + 1) ≤ 65536 * (tbOf s - s.fab.copyAt))

/-- The value that a register holds, with what the device computes at the read. -/
def regValue (s : State) (c : Option CoreNo) (r : Reg) (i : Nat) : Nat :=
  let v := (rd s r i).toNat
  match r with
  | .coreIpend => (upto 32).foldl (fun a j =>
      a + b2n (pendBit s (i / 6) (64 + 32 * (i % 6) + j)) * 2 ^ j) 0
  | .coreClstat => setBitsOf v 23 0 ((upto 8).foldl (fun a k =>
      a + cstOf s (8 * i + k) * 2 ^ (3 * k)) 0)
  | .vpStat => if i = 0 then setBitsOf v 63 62 1 else v
  | .cmtCtl => cmtCtlOf s i
  | .cmtProg => if chanSt s i = csOff ∨ chanSt s i = csIdle then v else (chan s i).pc
  | .nodeShent =>
    let n := fget s F.nodeShsel_ID 0
    bitsOf (if bankCopied s n then rd s .nodeEnt n else Tab.get (rd s .nodeEnt n) s.fab.shadow n).toNat
      19 0
  | .vtDb =>
    match c with
    | some k => ((tenantVport s (fget s F.vmid_VMID k) i).map (vtDbRead s)).getD 0
    | none => 0
  | .capHead => (capPeek s i).toNat
  | .winMq => s.missQ.headD 0
  | _ => v

/-- A read of part of a register, the bits `mask`: its RC fields clear (R9). A monitor first takes
up what has passed unseen. -/
def readReg (s : State) (c : Option CoreNo) (r : Reg) (i mask : Nat) : Nat × State :=
  let s := match r with
    | .monCnt => monLapse s i
    | _ => s
  let v := fieldRead r (regValue s c r i)
  let raw := (rd s r i).toNat
  let new := fieldClear r raw mask
  (v &&& mask, if new = raw then s else wr s r i (w64 new))

/-- A 32-bit read at port `p` (R58, R278, R372, R396, R408). -/
def readPart (s : State) (c : Option CoreNo) (p : Nat) : Nat × State :=
  let latch : Nat := Tab.get 0 s.time.latch (latchKey c)
  let low (x : Word × State) : Nat × State :=
    let (w, s) := readLow x.2 (latchKey c) x.1
    (w.toNat, s)
  match fuseAt p with
  | some o => (leNat (fuse s o 4), s)
  | none =>
    match regAt s c p with
    | none => (0, s)
    | some (r, i, o) =>
      match r with
      | .tbVal => if o = 0 then low (rd s .tbVal 0, s) else (latch, s)
      | .capHead => if o = 0 then low (capPop s i) else (latch, s)
      | .winMq =>
        if o = 0 then ((missPop s).1.toNat % 2 ^ 32, (missPop s).2)
        else (s.missQ.headD 0 / 2 ^ 32, s)
      | _ =>
        let (v, s) := readReg s c r i ((2 ^ 32 - 1) * 2 ^ (8 * o))
        (v / 2 ^ (8 * o), s)

/-- A read of 32 or 64 bits at port `p`: a 64-bit read of a 32-bit register, or of an unassigned
port, is two (R58). -/
def portRead (s : State) (c : Option CoreNo) (p : Nat) (wide : Bool) : Nat × State :=
  let two : Nat × State :=
    let (a, s) := readPart s c p
    let (b, s) := readPart s c (p + 4)
    (a + b * 2 ^ 32, s)
  if !wide then readPart s c p
  else
    match regAt s c p with
    | some (r, i, _) =>
      if r.width = 64 then
        match r with
        | .capHead => ((capPop s i).1.toNat, (capPop s i).2)
        | .winMq => ((missPop s).1.toNat, (missPop s).2)
        | _ => readReg s c r i fullMask
      else two
    | none => two

/-! Writes. -/

/-- The value that a partial write gives to a register with effects of its own: the RW fields of
the half that is not written stay, and its other fields are not written (R58). -/
def halfValue (r : Reg) (old new mask : Nat) : Nat :=
  r.fields.foldl (fun acc f =>
    let m := bitsOf mask f.hi f.lo
    let n := bitsOf new f.hi f.lo &&& m
    let o := bitsOf old f.hi f.lo &&& (m ^^^ (2 ^ (f.hi + 1 - f.lo) - 1))
    match f.acc with
    | .rw => setBitsOf acc f.hi f.lo (n ||| o)
    | _ => setBitsOf acc f.hi f.lo n) 0

/-- A write of CORE_CLCTL: its RW fields, then CORE resets, then a CLUSTER reset (R431, R440). -/
def writeClctl (s : State) (n : Nat) (v : Word) : State :=
  let s := followFreq (regWrite s .coreClctl n v) n
  if bit v.toNat 0 then clusterReset s n
  else (upto 8).foldl (fun s k => if bit v.toNat (8 + k) then coreReset s (8 * n + k) else s) s

/-- A write of CORE_PKGCTL: PLIM, PS1, CANCEL, then WARM (R430, R436). -/
def writePkgctl (s : State) (v : Word) : State :=
  let s := regWrite s .corePkgctl 0 v
  let s := if bit v.toNat 1 then armPs1 s else s
  let s := if bit v.toNat 2 then cancelPs1 s else s
  if bit v.toNat 0 then warmReset s else s

/-- A write of PMC_DUMP: SEQ starts again when EN becomes 1 (R423). -/
def writeDump (s : State) (c : Nat) (v : Word) : State :=
  let was := fbit s F.pmcDump_EN c
  let s := regWrite s .pmcDump c v
  if !was && fbit s F.pmcDump_EN c then modCore s c (fun k => { k with dumps := 0 }) else s

/-- A write of FLT_FATAL: once VALID is clear the record reads zero (R336). -/
def writeFatal (s : State) (v : Word) : State :=
  let s := regWrite s .fltFatal 0 v
  if fbit s F.fltFatal_VALID 0 then s else wr s .fltFatal 0 0

/-- A write to register `r` of unit `i`, of which the bits `mask` are written, with the effect that
its chapter gives (R9–R11). -/
def writeReg (s : State) (c : Option CoreNo) (r : Reg) (i new mask : Nat) : State :=
  let s := match r with
    | .monSel | .monCnt => monLapse s i
    | _ => s
  let v := w64 (halfValue r (rd s r i).toNat new mask)
  let lowHalf := decide (mask % 2 ^ 32 ≠ 0)
  let plain := wr s r i (w64 (fieldWrite r (rd s r i).toNat new mask))
  match r with
  | .corePredctl => writePredctl s i v
  | .coreMdtb => writeMdtb s (Fin.ofNat 128 i) v
  | .coreIpi => writeIpi s (Fin.ofNat 128 i) v.toNat
  | .winCmd => winCommand s v.toNat
  | .vpCmd => vpCommand s (bitsOf v.toNat 27 16) (bitsOf v.toNat 3 0)
  | .vpMdb => writeVpMdb s i v.toNat
  | .vtDb =>
    match c with
    | some k =>
      match tenantVport s (fget s F.vmid_VMID k) i with
      | some w => writeVtDb s w v.toNat
      | none => s
    | none => s
  | .cmtCtl => writeCmtCtl s i v.toNat
  | .cmtCfg | .cmtProg => if chanSt s i = csRun ∨ chanSt s i = csWait then s else plain
  | .cmtX => if chanSt s (i / 2) = csRun ∨ chanSt s (i / 2) = csWait then s else plain
  | .fltRclRing | .fltRclIdx => flushRcl plain
  | .fltLogRing => writeLogRing s v
  | .fltLogIdx => writeLogIdx s v
  | .fltFatal => writeFatal s v
  | .bootFloor => if lowHalf then writeFloor s v.toNat else s
  | .svcKey => writeSvcKey s v
  | .svcKeyw => shiftKey s v
  | .svcReq => pumpReqs plain
  | .svcRsp => flushRsp plain
  | .svcReqidx => writeReqIdx s v
  | .svcRspidx => writeRspIdx s v
  | .tbSync => writeTbSync s v
  | .pegBase => writePegBase s v
  | .pegCtl => stagger s (v.toNat % 2 ^ 16)
  | .pegCfg => writePegCfg s i v
  | .capCfg => writeCapCfg s i v
  | .toutCfg => writeTout s i v
  | .pmcDump => writeDump s i v
  | .coreClctl => writeClctl s i v
  | .coreStart => writeStart s i v
  | .corePrst => if bit v.toNat 31 then portReset plain (bitsOf v.toNat 8 0) else plain
  | .corePkgctl => writePkgctl s v
  | _ => plain

/-- A 32-bit write at port `p`. -/
def writePart (s : State) (c : Option CoreNo) (p v : Nat) : State :=
  match regAt s c p with
  | none => s
  | some (r, i, o) => writeReg s c r i (v % 2 ^ 32 * 2 ^ (8 * o)) ((2 ^ 32 - 1) * 2 ^ (8 * o))

/-- A write of 32 or 64 bits at port `p` (R58). -/
def portWrite (s : State) (c : Option CoreNo) (p : Nat) (wide : Bool) (v : Word) : State :=
  let two : State := writePart (writePart s c p (v.toNat % 2 ^ 32)) c (p + 4) (v.toNat / 2 ^ 32)
  if !wide then writePart s c p v.toNat
  else
    match regAt s c p with
    | some (r, i, _) => if r.width = 64 then writeReg s c r i v.toNat fullMask else two
    | none => two

/-! Permission (R59–R62). -/

/-- Whether a register is marked "PL3 only" at port `p`. -/
def pl3Port (c : CoreNo) (p : Nat) : Bool :=
  match allRegs.findSome? (fun r => (r.locate (some c) p).map (fun _ => r)) with
  | some r => r.fields.any (fun f => f.pl3)
  | none => false

/-- The read and write bits of bitmap granule `g`, from the core's copy or from memory; 0 where the read
fails, which is logged (R61, R62). A core uses a cached granule as long as it has it, and a 65th takes the
place of the oldest of 64; the rule says only that it may, and up to how many (DESIGN CHOICE, assumption
138). -/
def bitmapBits (c : CoreNo) (g : Nat) : CpuM Nat := do
  let s ← get
  match Tab.find (coreOf s c).bitmap g with
  | some b => pure b
  | none =>
    let a := fget s F.ppbase_BASE c * 1024 + g / 4
    match region s a with
    | .dram =>
      acqS c (a / 64)
      let s ← get
      if (poisonOf s (a / 64)).isSome then
        set (logAccess s kCore c a 4)
        pure 0
      else
        let b := bitsOf (curByte s a).toNat (2 * (g % 4) + 1) (2 * (g % 4))
        modify (fun s => modCore s c (fun k =>
          { k with bitmap := (k.bitmap ++ [(g, b)]).drop (k.bitmap.length + 1 - 64) }))
        pure b
    | _ =>
      set (logAccess s kCore c a 4)
      pure 0

/-- Whether the level may access port `p` (R60). Fuses read back at PL2 and PL3 only (R372). -/
def portOk (c : CoreNo) (pl p : Nat) (wide wr : Bool) : CpuM Bool := do
  let s ← get
  let p3 := pl3Port c p || (wide && pl3Port c (p + 4))
  if pl = 3 then pure true
  else if pl = 2 then pure (!p3)
  else if !(fbit s F.ppbase_EN c) || decide (0x1000000 ≤ p) || p3 || (fuseAt p).isSome ||
      (decide (pl = 0) && !(fbit s F.ppbase_U c)) then pure false
  else
    let b ← bitmapBits c (p / 4096)
    pure (bit b (b2n wr))

/-- The checks of R59: permission, then alignment. -/
def portChecks (c : CoreNo) (p : Nat) (wide wr : Bool) : CpuM Unit := do
  let s ← get
  let ok ← portOk c (plOf s c) p wide wr
  if !ok then raise { code := 0x0A, addr := w64 p, wr := wr }
  else if p % (if wide then 8 else 4) ≠ 0 then raise { code := 0x03, addr := w64 p, wr := wr }
  else pure ()

/-- PIN (R88). -/
def execPin (c : CoreNo) (d a : GReg) (w : Bool) (o : POff) (s : State) :
    Host.Outcome State Fault Refusal :=
  let p := portNo s c a o
  issue c (.pin c d a w o) (pLen o) 0 true [evPort] (do
    portChecks c p w false
    let s ← get
    let (v, s) := portRead s (some c) p w
    set (setG s c d (w64 v))) s

/-- POUT (R88, R89): the write takes effect when the block takes it, here at once. -/
def execPout (c : CoreNo) (d a : GReg) (w : Bool) (o : POff) (s : State) :
    Host.Outcome State Fault Refusal :=
  let p := portNo s c a o
  let v := getG s c d
  issue c (.pout c d a w o) (pLen o) 0 true [evPort] (do
    portChecks c p w true
    modify (fun s => portWrite s (some c) p w v)) s

/-- Whether a port leads to a register or a fuse (R25). -/
def portAssigned (s : State) (c : Option CoreNo) (p : Nat) : Bool :=
  (regAt s c p).isSome || (fuseAt p).isSome

/-- Whether an access can time out (R90): core-local ports never do, and an unassigned port raises no
fault (R25). -/
def mayTimeOut (s : State) (c : CoreNo) (p : Nat) (w : Bool) : Bool :=
  decide (0x1000 ≤ p) && (portAssigned s (some c) p || (w && portAssigned s (some c) (p + 4)))

/-- PORT_TIMEOUT: a PIN or POUT to a block outside the core without a response in 2 µs. gD is
unchanged, and a POUT may or may not have taken effect, by a free value (R90). -/
def execPortTimeout (c : CoreNo) (isOut : Bool) (d a : GReg) (w : Bool) (o : POff) (s : State) :
    Host.Outcome State Fault Refusal :=
  let p := portNo s c a o
  let v := getG s c d
  if !(mayTimeOut s c p w) then if isOut then execPout c d a w o s else execPin c d a w o s
  else
    issue c (.portTimeout c isOut d a w o) (pLen o) 0 true [evPort] (do
      portChecks c p w isOut
      let s ← get
      let (f, s) := takeFree s
      set (if isOut && decide (f % 2 = 1) then portWrite s (some c) p w v else s)
      raise { code := 0x19, addr := w64 p, wr := isOut }) s

/-- REGISTER_WRITE: a write through a port of core `c` that has passed its checks reaches its
register (R9–R11). -/
def execRegisterWrite (c : CoreNo) (port : BitVec 32) (w : Bool) (v : Word) (s : State) :
    Host.Outcome State Fault Refusal :=
  .next (portWrite s (some c) port.toNat w v)

end Sys2Proof.Machine
end

