-- ==== Sys2Proof/Machine/Deliver.lean ====
section
/-! DEFINITION. Delivery of the flits that have reached this node: liveness and epoch (R243), the
order of each stream (R236), and what each message does (R225). DATA_FLIT (R237). -/

namespace Sys2Proof.Machine

/-- Opcodes of requests and evictions, of snoops and of responses (R225). -/
def isReqOp (op : Nat) : Bool := decide (1 ≤ op) && decide (op ≤ 0x0B)
def isSnoopOp (op : Nat) : Bool := decide (0x10 ≤ op) && decide (op ≤ 0x14)
def isRespOp (op : Nat) : Bool := [opData, opCmp, opSnpr, opNak, opProbeR].contains op
/-- Whether an opcode is defined. -/
def knownOp (op : Nat) : Bool :=
  isReqOp op || isSnoopOp op || isRespOp op || [opMsg, opCmd, opProbe, opTsync].contains op

/-- Stream IDs 0xF2–0xFC are reserved (R248). -/
def knownStream (n : Nat) : Bool := decide (n < 0xF2) || decide (0xFC < n)

/-- A delivered message has its effect. -/
def dispatchMsg (s : State) (m : Msg) : State :=
  let op := m.op.toNat
  if isReqOp op then nodeRequest s m
  else if op = opRclS then proxySnoop s .rclS m false
  else if op = opRclI then proxySnoop s .rclI m false
  else if op = opBinv then proxySnoop s .binv m false
  else if op = opSnpCur then proxySnoop s .snpCur m false
  else if op = opSnpCln then proxySnoop s .snpCln m false
  else if op = opData then dataArrive s m
  else if op = opCmp then cmpArrive s m
  else if op = opSnpr then snprArrive s m
  else if op = opNak then nakArrive s m
  else if op = opMsg then msgArrive s m
  else if op = opCmd then cmdArrive s m
  else if op = opProbe then probeArrive s m
  else if op = opTsync then tsyncArrive s m
  else s

/-- Key of a message's pair. -/
def pairOf (m : Msg) : Nat × Nat := (m.src.toNat, m.stream.toNat)

/-- How far a message is ahead of the next one of its pair, modulo 2^16. -/
def aheadBy (m : Msg) (next : Nat) : Nat := (m.sseq.toNat + 65536 - next) % 65536

/-- Whether a message has been delivered already (R236). -/
def isDup (s : State) (m : Msg) : Bool :=
  match Tab.find s.fab.order (pairOf m) with
  | some (next, _) => decide (32768 ≤ aheadBy m next)
  | none => false

/-- A message takes effect in its turn and the pair moves on; one that would be answered RETRY_BUSY
is not delivered, and its resend takes its turn (R225, R286). -/
def takeTurn (s : State) (m : Msg) : State :=
  let op := m.op.toNat
  if isReqOp op && decide (op ≠ opWb ∧ op ≠ opEvc) && busyAt s m then nak s m 4
  else
    let fab := s.fab
    let next := (m.sseq.toNat + 1) % 65536
    dispatchMsg { s with fab := { fab with order := Tab.set fab.order (pairOf m) (next, tbOf s) } } m

/-- Messages held ahead of a gap that it no longer keeps, at most `n`. -/
def releaseGap (s : State) (k : Nat × Nat) : Nat → State
  | 0 => s
  | n + 1 =>
    match Tab.find s.fab.order k with
    | none => s
    | some (next, _) =>
      match s.fab.gaps.find? (fun m => decide (pairOf m = k) && decide (aheadBy m next = 0)) with
      | none => s
      | some m =>
        let fab := s.fab
        releaseGap (takeTurn { s with fab := { fab with gaps := fab.gaps.erase m } } m) k n

/-- A sequenced message by the rules of R236: duplicates are discarded, a message ahead of a gap is
held, up to 1,024, with the time of its arrival where it is a TSYNC, and up to 8,192 pairs are known. -/
def inOrder (s : State) (m : Msg) : State :=
  let go (s : State) : State :=
    let s := takeTurn s m
    releaseGap s (pairOf m) s.fab.gaps.length
  match Tab.find s.fab.order (pairOf m) with
  | none => if 8192 ≤ s.fab.order.length then nak s m 4 else go s
  | some (next, _) =>
    let d := aheadBy m next
    if d = 0 then go s
    else if 32768 ≤ d then s
    else if m.first then go s
    else if s.fab.gaps.any (fun x => decide (pairOf x = pairOf m) && decide (x.sseq = m.sseq)) then s
    else if 1024 ≤ s.fab.gaps.length then nak s m 4
    else
      let fab := s.fab
      let time := s.time
      let rx := time.rx.filter (fun x => decide (x.1 ≠ m)) ++
        (if m.op.toNat = opTsync then [(m, tbOf s)] else [])
      { s with fab := { fab with gaps := fab.gaps ++ [m] }, time := { time with rx := rx } }

/-- What the entry of a flit's source allows (R243). -/
inductive Gate where
  | all
  | naks
  | cmdOnly
  deriving DecidableEq, Repr

/-- The check of R243 on a flit that has arrived on a port. -/
def gateOf (s : State) (f : Flit) : Gate × State :=
  let n := f.src
  let live := fget s F.nodeEnt_LIVE n
  if live = 3 then (.cmdOnly, s)
  else if s.reclaims.any (fun r => decide (r.node = n) && r.epoch.isSome) then (.naks, s)
  else if live = 0 then
    let s := fput (fput s F.nodeEnt_LIVE n 1) F.nodeEnt_PEPOCH n f.sepoch
    (.all, heardFrom s n)
  else if fget s F.nodeEnt_PEPOCH n = f.sepoch then (.all, heardFrom s n)
  else (.naks, startReclaim s n (some f.sepoch) [])

/-- One message of a flit is delivered; `ext` says that the flit has arrived on a port. -/
def deliverMsg (g : Gate) (ext : Bool) (s : State) (m : Msg) : State :=
  let op := m.op.toNat
  if !(knownOp op) || !(knownStream m.stream.toNat) then logDiscard s m.src.toNat 2
  else if op = opCmd then
    if ext && !(tc3Ok s m.port) then
      logDiscard s m.src.toNat 3
    else inOrder s m
  else
    match g with
    | .cmdOnly => s
    | .naks => if m.vc then s else nak s m 4
    | .all => if isRespOp op then dispatchMsg s m else inOrder s m

/-- A request of this node that could not be sent ends (R237); a command that could not be sent is
returned to the mailbox (R393). -/
def giveBack (s : State) (m : Msg) : State :=
  let op := m.op.toNat
  let bs := m.data.flatMap (fun g => natLe g.toNat 16)
  if op = opCmd then
    if bit (fieldAt bs 6 2) 0 then s
    else pushRsp s (selfId s) 0 0 1 (bs.take (32 + min (fieldAt bs 8 2) 192))
  else if isReqOp op then
    match s.txs.find? (fun t => decide (t.tag = m.tag.toNat) && decide (t.msg.sseq = m.sseq) &&
        decide (t.msg.op = m.op) && decide (t.msg.dst = m.dst)) with
    | some t => timeoutTx s t
    | none => s
  else s

/-- Whether a tide flit at its destination brings something new, for TIDE_FLIT (R426). -/
def tideNew (s : State) (f : Flit) (ms : List Msg) : Bool :=
  decide (f.cls = 0) && !f.vc && decide (fget s F.tideFlowa_ROLE f.flow = 3) &&
    decide (fget s F.tideFlowa_SRC f.flow = f.src) && ms.any (fun m => !(isDup s m))

/-- A flit that has reached this node. Port 513 marks a flit of this node that was discarded here. -/
def deliverFlit (s : State) (port : Nat) (f : Flit) : State :=
  let ms := flitMsgs f (if port < 512 then port else 0)
  if port = 513 then ms.foldl giveBack s
  else
    let s := if tideNew s f ms then mon s mTideFlit f.flow (flitVport s f) 1 else s
    if port < 512 then
      let (g, s) := gateOf s f
      ms.foldl (deliverMsg g true) s
    else ms.foldl (deliverMsg .all false) s

/-- The flits that have reached this node are delivered, at most `n`. -/
def drainInbox (s : State) : Nat → State
  | 0 => s
  | n + 1 =>
    match s.fab.inbox with
    | [] => s
    | (p, f) :: rest =>
      let fab := s.fab
      drainInbox (deliverFlit { s with fab := { fab with inbox := rest } } p f) n

/-- DATA_FLIT: the link accepts it or not, and the switch delivers, forwards or discards it (R229,
R237). -/
def execDataFlit (p : PortNo) (e : Fec) (f : BitVec 2048) (s : State) :
    Host.Outcome State Fault Refusal :=
  let s := receiveData s p e f.toNat
  .next (drainInbox s s.fab.inbox.length)

end Sys2Proof.Machine
end

