-- ==== Sys2Proof/Machine/Debug.lean ====
section
/-! DEFINITION. The debug TAP (R369, R370, R460): boundary scan, the unlock, memory, port and register
access, and the debug halt. -/

namespace Sys2Proof.Machine

/-- Whether the TAP takes an instruction: powered, and not held in Test-Logic-Reset. -/
def tapOn (s : State) : Bool := !s.dev.tlr && !s.dev.off

/-- Bits of the boundary-scan chain. -/
def scanLen : Nat := 6189

/-- What the TAP shifts out, with any instruction but EXTEST loaded. -/
def tapOut (s : State) (v : Nat) : State :=
  let dev := s.dev
  { s with dev := { dev with tdo := v, extest := false } }

/-- TRST_N: low holds the TAP in Test-Logic-Reset, which leaves EXTEST. -/
def execTrstN (low : Bool) (s : State) : Host.Outcome State Fault Refusal :=
  let dev := s.dev
  .next { s with dev := { dev with tlr := low, extest := dev.extest && !low } }

/-- EXTEST: it is loaded with `d` shifted in. The device enters a COLD reset and stays in it; the
captured pins are a free value. -/
def execExtest (d : Nat) (s : State) : Host.Outcome State Fault Refusal :=
  if tapOn s then
    let s := if s.dev.extest || s.dev.coldLow then s else coldReset s
    let (v, s) := takeFree s
    let dev := s.dev
    .next { s with dev := { dev with extest := true, boundary := d % 2 ^ scanLen,
                                     tdo := v % 2 ^ scanLen } }
  else .next s

/-- IDCODE: version 1, part 0x9612, manufacturer 0x3F5. -/
def execIdcode (s : State) : Host.Outcome State Fault Refusal :=
  .next (if tapOn s then tapOut s 0x196127EB else s)

/-- SAMPLE/PRELOAD: the pins are captured, a free value, and the boundary register is loaded. -/
def execSamplePreload (d : Nat) (s : State) : Host.Outcome State Fault Refusal :=
  if tapOn s then
    let (v, s) := takeFree s
    let s := tapOut s (v % 2 ^ scanLen)
    let dev := s.dev
    .next { s with dev := { dev with boundary := d % 2 ^ scanLen } }
  else .next s

/-- What BYPASS shifts out for the bits `v` shifted in: they come one bit later, behind the captured
zero. -/
def bypassed (s : State) (v : Nat) : State := tapOut s (2 * v)

/-- BYPASS. -/
def execBypass (b : Bool) (s : State) : Host.Outcome State Fault Refusal :=
  .next (if tapOn s then bypassed s (b2n b) else s)

/-! The unlock (R370). -/

/-- UNLOCK_CHAL: a fresh nonce, in PRODUCTION; in another state what it returns is not stated. -/
def execUnlockChal (s : State) : Host.Outcome State Fault Refusal :=
  if tapOn s then
    let (v, s) := takeFree s
    let s := tapOut s (v % 2 ^ 384)
    if fget s F.lcState_STATE 0 = 3 then
      let dev := s.dev
      .next { s with dev := { dev with nonce := some (natBe (v % 2 ^ 384) 48) } }
    else .next s
  else .next s

/-- Whether a key and signature unlock the device. -/
def unlockOk (s : State) (key sig : List Byte) : Bool :=
  let dukh := fuse s 0xF0 48
  match s.dev.nonce with
  | some n => !(unfused dukh) && decide (sha384 key = dukh) &&
      ecdsaOk key (sha384 (n ++ devId s)) sig
  | none => false

/-- UNLOCK_RESP: in PRODUCTION one attempt for each nonce, and none after three failures. -/
def execUnlockResp (key sig : Nat) (s : State) : Host.Outcome State Fault Refusal :=
  if tapOn s then
    let s := tapOut s 0
    if fget s F.lcState_STATE 0 ≠ 3 ∨ 3 ≤ s.dev.unlockFails then .next s
    else
      let ok := unlockOk s (natBe key 97) (natBe sig 96)
      let dev := s.dev
      let fails := if ok then dev.unlockFails else dev.unlockFails + 1
      let s := { s with dev := { dev with nonce := none, unlockFails := fails } }
      .next (if ok then fput (fput s F.lcState_UNLK 0 1) F.lcState_TAP 0 1 else s)
  else .next s

/-! Gated instructions. -/

/-- An instruction from 0x40 upward: with TAP = 0 it acts as BYPASS for its `v` shifted in (R369). -/
def gated (s : State) (v : Nat) (f : State → State) : State :=
  if !(tapOn s) then s
  else if fget s F.lcState_TAP 0 = 0 then bypassed s v
  else f (tapOut s s.dev.tdo)

/-- The memory access of the TAP that waits goes as far as it can: a PL3 access with TE = 0. An
access to a non-existent address reads poison, and a write to one is refused (R23, R308, R460). -/
def tapAccess (s : State) : State :=
  match s.dev.dbg with
  | none => s
  | some (w, a, v) =>
    let here (s : State) : State :=
      if w then
        let (ok, t) := devTry s a (natLe v.toNat 8)
        if ok then setTap t 0 0 else s
      else
        match devLine s (a / 64) with
        | (some (d, p), t) =>
          if p then setTap (devDone t) 0 3
          else setTap (devDone t) (lineSlice d (a % 64) 8) 0
        | (none, t) => t
    match region s a with
    | .dram => here s
    | .spd => here s
    | .secure =>
      if fget s F.lcState_TAP 0 = 2 then here s else setTap s 0 (if w then 2 else 3)
    | .fabric i =>
      if s.txs.any (fun t => t.who == .tap) then s
      else if (reachRefuses s i (fun _ => true)).isSome then setTap s 0 2
      else if w then
        let o := a % 64
        sendReq s .tap i (a / 64 * 64) opWrLine false
          (wrLineGranules (maskOf o 8) (BitVec.ofNat 512 (v.toNat * 2 ^ (8 * o)))) 0 false
      else sendReq s .tap i (a / 64 * 64) opRdCur false [] 0 false
    | .absent => setTap s 0 (if w then 2 else 3)

/-- DBG_MEM: one 64-bit access; while one runs, another is not started and the status is busy. A
misaligned address is refused. -/
def execDbgMem (wr : Bool) (a v : Word) (s : State) : Host.Outcome State Fault Refusal :=
  .next (gated s (b2n wr * 2 ^ 131 + a.toNat * 2 ^ 64 + v.toNat) (fun s =>
    let dev := s.dev
    if dev.dbg.isSome then { s with dev := { dev with tdo := 0, dbgStatus := 1 } }
    else if a.toNat % 8 ≠ 0 then setTap s 0 2
    else
      tapAccess { s with dev := { dev with tdo := 0, dbgStatus := 1,
                                           dbg := some (wr, a.toNat, v) } }))

/-- DBG_PORT: one 64-bit port access at PL3. Core-local ports name no core here and are
unassigned (R25, R26). -/
def execDbgPort (wr : Bool) (a : BitVec 32) (v : Word) (s : State) :
    Host.Outcome State Fault Refusal :=
  .next (gated s (b2n wr * 2 ^ 131 + a.toNat * 2 ^ 64 + v.toNat) (fun s =>
    if a.toNat % 8 ≠ 0 then setTap s 0 2
    else if wr then setTap (portWrite s none a.toNat true v) 0 0
    else
      let (x, s) := portRead s none a.toNat true
      setTap s x 0))

/-! The debug halt. -/

/-- A core halts at the boundary before the instruction it has not completed; a WAIT is not
completed. One that cannot be given up completes first (R96, R116). -/
def haltCore (s : State) (c : CoreNo) : State :=
  let k := coreOf s c
  match k.run with
  | .run | .stepping =>
    if undiscardable s c then modCore s c (fun k => { k with run := .stepping })
    else haltAs s c .halted
  | .c1 => modCore s c (fun k =>
      { k with run := .halted, waitt := none, c6due := false, pc := k.pc - 4 })
  | .c6 =>
    let s := fput s F.coreClstat_COFF (c.val / 8) 0
    modCore s c (fun k => { k with run := .halted, waitt := none, pc := k.pc - 4 })
  | .held | .stopped | .halted | .draining => s

/-- A halt, resume or step captures the core's state code. -/
def haltOp (s : State) (op : Nat) (c : CoreNo) (f : State → State) : State :=
  gated s (op * 2 ^ 30 + c.val * 2 ^ 16) (fun s =>
    let s := f s
    tapOut s (cstOf s c))

/-- DBG_HALT; a HELD or STOPPED core keeps its state. -/
def execDbgHalt (c : CoreNo) (s : State) : Host.Outcome State Fault Refusal :=
  .next (haltOp s 1 c (fun s => haltCore s c))

/-- DBG_RESUME; ignored unless the core is debug-halted. -/
def execDbgResume (c : CoreNo) (s : State) : Host.Outcome State Fault Refusal :=
  .next (haltOp s 2 c (fun s =>
    modCore s c (fun k => { k with run := if k.run = .halted then .run else k.run })))

/-- DBG_STEP: a halted core runs its next instruction and halts again. -/
def execDbgStep (c : CoreNo) (s : State) : Host.Outcome State Fault Refusal :=
  .next (haltOp s 3 c (fun s =>
    modCore s c (fun k => { k with run := if k.run = .halted then .stepping else k.run })))

/-- A debug write of a system register, by the Access codes of its fields (R9, R11): PSTATE.PL stays
(R36), HRSCTL.DROP removes entries (R54, R55), and RIDX is read when EN of the ring becomes 1 (R421). -/
def debugWrite (s : State) (c : CoreNo) (r : SysReg) (v : Word) : State :=
  match r.reg with
  | .hrsctl => putHrsctl s c v.toNat
  | .hrsent => setHrsAt s c (fget s F.hrsctl_SEL c) v
  | .ppbase => modCore (regWrite s .ppbase c v) c (fun k => { k with bitmap := [] })
  | .psbbase =>
    let was := fbit s F.psbbase_EN c
    let s := regWrite s .psbbase c v
    if fbit s F.psbbase_EN c && !was then dueRidx s c else s
  | reg => regWrite s reg (sysIdx r c) v

/-- What DBG_REG's selector names: a system register, a general register or the PC. -/
def debugReg (s : State) (c : CoreNo) (sel : Nat) (w : Bool) (v : Word) : Option (Word × State) :=
  if sel < 0x100 then
    (sysRegOf sel).map (fun r =>
      let s := upToDate s c r
      if w then (0, debugWrite s c r v) else (sysRead s c r, s))
  else if sel < 0x120 then
    let g : GReg := Fin.ofNat 32 (sel - 0x100)
    some (if w then (0, setG s c g v) else (getG s c g, s))
  else if sel = 0x120 then some (if w then (0, setPc s c v) else (getPc s c, s))
  else none

/-- DBG_REG: only on a core that is halted, stopped or HELD, and on a selector that is assigned. -/
def execDbgReg (c : CoreNo) (sel : BitVec 12) (wr : Bool) (v : Word) (s : State) :
    Host.Outcome State Fault Refusal :=
  let bits := b2n wr * 2 ^ 95 + c.val * 2 ^ 88 + sel.toNat * 2 ^ 76 + v.toNat
  .next (gated s bits (fun s =>
    let idle := match (coreOf s c).run with
      | .halted | .stopped | .held => true
      | _ => false
    let res := if idle then debugReg s c sel.toNat wr v else none
    match res with
    | some (x, t) =>
      let dev := t.dev
      { t with dev := { dev with tdo := x.toNat, dbgStatus := 0 } }
    | none =>
      let dev := s.dev
      { s with dev := { dev with tdo := 0, dbgStatus := 2 } }))

end Sys2Proof.Machine
end

