-- ==== Sys2Proof/Machine/Sync.lean ====
section
/-! DEFINITION. Atomics (R81–R83), barriers and drains (R84, R170–R177, R271), cache operations
(R85) and TLB operations (R86, R87, R159, R160). -/

namespace Sys2Proof.Machine

/-- Performs an atomic on the 8 aligned bytes at `va` at the home of their address (R81, R82). It
waits until older overlapping stores are performed and never forwards (R170); a release waits for
every older store. The old value is the answer. -/
def atomicAt (c : CoreNo) (va : Word) (op : AtomOp) (rel : Bool) : CpuM Word := do
  needAlign va 8 true
  let s ← get
  let pl := plOf s c
  let te := fbit s F.pstate_TE c
  let ps ← transl c va.toNat 8 pl te .rmw
  let gs := segsOf ps
  modify (fun s => noteAcc s c va ps true)
  leaveFor c (fun b => gs.any (cbHolds b))
  let s ← get
  drainFor c (fun e => rel || sbBefore s gs e)
  let s ← get
  if (if rel then postedCoh s c (fun t => t.msg.op.toNat == opWrLine) else postedOver s c gs) then stall
  else
  match gs with
  | [] => pure 0
  | g :: _ =>
    let pois : CpuM Word :=
      raise { code := 0x0E, addr := w64 g.pa, info := if te then va.toNat else 0, wr := true }
    let atHome : CpuM Word := do
      let (v, s) := ask s (.core c) (g.pa / 64) (.atom (g.pa % 64) op)
      match v with
      | some v =>
        set s
        if v.pois then pois else pure (w64 v.old)
      | none =>
        set (noteMust s c)
        stall
    match region s g.pa with
    | .dram => atHome
    | .spd => atHome
    | .secure => if secureDenied s pl g.pa then pois else atHome
    | .absent => pois
    | .fabric i =>
      match Tab.find (coreOf s c).got g.pa with
      | some k =>
        match k with
        | .poison => pois
        | _ =>
          let v ← useGot te va g.pa true false k
          pure (w64 v)
      | none =>
        if txOf s c g.pa then stall
        else
          refuseReach c i pl va g.pa true false
          let s ← get
          (if reachCoh s i then pure () else recallOwn i (g.pa / 64))
          let (d, sub) := atomGranules op
          sendWait (.load c) i g.pa opAtom false d sub false
          modify (fun s => noteMust s c)
          stall

/-- An atomic instruction: gD := the old value (R81). -/
def atomOp (c : CoreNo) (i : Instr) (d a : GReg) (rel : Bool) (op : State → AtomOp) (s : State) :
    Host.Outcome State Fault Refusal :=
  issue c i 4 0 true [evAtom] (do
    let v ← atomicAt c (getG s c a) (op s) rel
    modify (fun s => setG s c d v)) s

/-- AADD (R81). -/
def execAadd (c : CoreNo) (d a b : GReg) (acq rel : Bool) (s : State) :
    Host.Outcome State Fault Refusal :=
  atomOp c (.aadd c d a b acq rel) d a rel (fun s => .add (getG s c b)) s

/-- ASWP (R81). -/
def execAswp (c : CoreNo) (d a b : GReg) (acq rel : Bool) (s : State) :
    Host.Outcome State Fault Refusal :=
  atomOp c (.aswp c d a b acq rel) d a rel (fun s => .swap (getG s c b)) s

/-- ACAS: the compare value is gD (R81). -/
def execAcas (c : CoreNo) (d a b : GReg) (acq rel : Bool) (s : State) :
    Host.Outcome State Fault Refusal :=
  atomOp c (.acas c d a b acq rel) d a rel (fun s => .cas (getG s c d) (getG s c b)) s

/-! Barriers. -/

/-- Whether a fabric store or maintenance operation of core `c` is outstanding; `cohOnly` asks only
for those through coherent reaches, whose response performs them (R84, R271). -/
def storeOut (s : State) (c : CoreNo) (cohOnly : Bool) : Bool :=
  s.txs.any (fun t => (match t.who with
    | .store k _ _ => decide (k = c.val)
    | .line k => decide (k = c.val)
    | _ => false) && (!cohOnly || reachCoh s t.reach))

/-- Whether a request of HReq is a cache operation. -/
def HReq.isMaint : HReq → Bool
  | .cinv | .ccln | .cfls => true
  | _ => false

/-- Whether a cache operation of core `c` still waits at a home. -/
def maintOut (s : State) (c : CoreNo) : Bool :=
  s.homeQ.any (fun q => q.who == .req (.core c) && q.req.isMaint)

/-- A latched fabric store error is delivered at the barrier, and its delivery clears the latch (R271). -/
def reportLatch (c : CoreNo) : CpuM Unit := do
  let s ← get
  match (coreOf s c).latch with
  | none => pure ()
  | some e =>
    raise { code := if e.timeout then 0x10 else 0x0F, addr := e.va, info := e.pa, wr := e.wr,
            retry := e.retry, latched := true }

/-- SYNC: every older store is performed, the combining buffer is drained, older maintenance is
complete; a latched fabric store error is reported (R84, R172, R271). -/
def execSync (c : CoreNo) (s : State) : Host.Outcome State Fault Refusal :=
  issue c (.sync c) 4 0 true [] (do
    drainSb c
    leaveFor c (fun _ => true)
    let s ← get
    if maintOut s c || storeOut s c true then stall else reportLatch c) s

/-- LSYNC: loads return in program order here, so it only retires (R84). -/
def execLsync (c : CoreNo) (s : State) : Host.Outcome State Fault Refusal :=
  issue c (.lsync c) 4 0 true [] (pure ()) s

/-- SSYNC: the next store waits in the store buffer for every older one, those sent through a coherent
reach included (R84, R172). -/
def execSsync (c : CoreNo) (s : State) : Host.Outcome State Fault Refusal :=
  issue c (.ssync c) 4 0 true []
    (modify (fun s => modCore s c (fun k => { k with
      fence := k.fence || !k.sb.isEmpty || postedCoh s c (fun t => t.msg.op.toNat == opWrLine) }))) s

/-- ISYNC: instructions complete in order here, so it only retires (R84). -/
def execIsync (c : CoreNo) (s : State) : Host.Outcome State Fault Refusal :=
  issue c (.isync c) 4 0 true [] (pure ()) s

/-- Whether a physical address lies in fabric space. -/
def toFabric (s : State) (pa : Nat) : Bool :=
  match region s pa with
  | .fabric _ => true
  | _ => false

/-- FSYNC: waits for the completion of every older store to fabric space and reports a latched
error; it does not drain the combining buffer (R84, R271). -/
def execFsync (c : CoreNo) (s : State) : Host.Outcome State Fault Refusal :=
  issue c (.fsync c) 4 0 true [] (do
    drainFor c (fun e => e.parts.any (fun x => toFabric s x.pa))
    leaveFor c (fun b => b.issued && toFabric s (64 * b.line))
    let s ← get
    if storeOut s c false then stall else reportLatch c) s

/-- DRAIN: issues every line of the combining buffer and waits until each is performed (R84). -/
def execDrain (c : CoreNo) (s : State) : Host.Outcome State Fault Refusal :=
  issue c (.drain c) 4 0 true [] (do
    leaveFor c (fun _ => true)
    let s ← get
    if storeOut s c true then stall else pure ()) s

/-- SPECBAR: nothing is speculative here, so it only retires (R84, R112). -/
def execSpecbar (c : CoreNo) (s : State) : Host.Outcome State Fault Refusal :=
  issue c (.specbar c) 4 0 true [] (pure ()) s

/-! Cache operations. -/

/-- A cache operation on the line of gA (R85). It does not hold back retirement; SYNC waits for it.
On a non-existent address it has no effect and is logged. -/
def maintOp (c : CoreNo) (i : Instr) (lvl : Nat) (a : GReg) (k : AKind) (req : HReq) (op : Nat)
    (s : State) : Host.Outcome State Fault Refusal :=
  issue c i 4 lvl true [] (do
    let va := getG s c a
    let pl := plOf s c
    let te := fbit s F.pstate_TE c
    let p ← transl1 c va.toNat 1 pl te k
    let l := p.pa / 64
    drainFor c (sbHits [⟨p.va, 64 * l, 64, p.mt, none⟩])
    let s ← get
    let atHome : CpuM Unit :=
      set (arrive s { who := .req (.core c), line := l, ra := 64 * l, req := req, snooped := [],
                      wants := false })
    match region s p.pa with
    | .dram => atHome
    | .spd => atHome
    | .secure => if secureDenied s pl p.pa then set (logAccess s kCore c p.pa 0) else atHome
    | .absent => set (logAccess s kCore c p.pa 0)
    | .fabric n =>
      match reachRefuses s n (coreOwns s c pl) with
      | some (retry, why) =>
        let s := match why with
          | some d => logAccess s kCore c p.pa d
          | none => s
        set (latchErr s c { timeout := false, retry := retry, wr := decide (k = .cinv), va := va,
                            pa := p.pa })
      | none =>
        if reachCoh s n then
          sendWait (.store c va (decide (k = .cinv))) n (64 * l) op false [] 0 false
        else
          let r := lrec s l
          (if req ≠ .cinv ∧ r.dirty then
             sendWait (.store c va false) n (64 * l) opWrLine false
               (wrLineGranules (BitVec.allOnes 64) (curLine s l)) 0 (poisonOf s l).isSome
           else pure ())
          modify (fun s =>
            if req = .ccln then setLrec s l { lrec s l with dirty := false }
            else setLrec s l LineRec.none)) s

/-- CINV (R85): needs the write right and, by R37, PL1. -/
def execCinv (c : CoreNo) (a : GReg) (s : State) : Host.Outcome State Fault Refusal :=
  maintOp c (.cinv c a) 1 a .cinv .cinv opCinv s

/-- CCLN (R85). -/
def execCcln (c : CoreNo) (a : GReg) (s : State) : Host.Outcome State Fault Refusal :=
  maintOp c (.ccln c a) 0 a .load .ccln opCcln s

/-- CFLS (R85). -/
def execCfls (c : CoreNo) (a : GReg) (s : State) : Host.Outcome State Fault Refusal :=
  maintOp c (.cfls c a) 0 a .load .cfls opCfls s

/-- ICINV: the page must be mapped; the instruction words come with the commands here, so there is
no L1I content to invalidate (R85, R113). -/
def execIcinv (c : CoreNo) (a : GReg) (s : State) : Host.Outcome State Fault Refusal :=
  issue c (.icinv c a) 4 0 true [] (do
    let _ ← transl1 c (getG s c a).toNat 1 (plOf s c) (fbit s F.pstate_TE c) .map
    pure ()) s

/-! TLB operations. -/

/-- The translations that TLBINV and TLBINVB remove (R159). -/
def invMatch (vmid asid va scope : Nat) (t : TlbTag) : Bool :=
  let cov := canonical va && decide (t.vpn = bitsOf va 55 (pageShift t.sz))
  decide (t.vmid = vmid) &&
    (if scope = 0 then cov && (t.g || decide (t.asid = asid))
     else if scope = 1 then cov
     else if scope = 2 then !t.g && decide (t.asid = asid)
     else true)

/-- Core `k` has sent an access through a reach, or asked a home for an atomic, an uncached load or a
cache operation, and it is not performed (R160). -/
def accessOut (s : State) (k : CoreNo) : Bool :=
  postedCoh s k (fun _ => true) || s.txs.any (Tx.mustEnd s k) || s.homeQ.any (HomeReq.mustEnd k) ||
    maintOut s k

/-- The matching entries leave the TLBs of core `k`, and its walk in progress starts again (R160). -/
def dropTlb (s : State) (k : CoreNo) (p : TlbTag → Bool) : State :=
  let keep (l : List TlbEnt) : List TlbEnt := l.filter (fun e => !(p e.tag))
  modCore { s with txs := s.txs.map (fun t => if t.who = .walk k then { t with who := .row k } else t) } k
    (fun x => { x with tlb := keep x.tlb, itlb := keep x.itlb, dtlb := keep x.dtlb,
                       got := noWalks x.got })

/-- Core `k` drops the matching entries, after every access translated through one has been
performed (R160). -/
def invOn (p : TlbTag → Bool) (k : CoreNo) : CpuM Unit := do
  leaveFor k (fun b => b.tags.any p)
  drainFor k (fun e => e.parts.any (fun x => x.tag.any p))
  let s ← get
  if accessOut s k then stall else set (dropTlb s k p)

/-- Every core of the device drops the matching entries. -/
def invEach (p : TlbTag → Bool) : List Nat → CpuM Unit
  | [] => pure ()
  | k :: ks => do
    invOn p (Fin.ofNat 128 k)
    invEach p ks

/-- A waiting request of an ordinary channel that a removal of the entries `p` waits for: one whose
engine's TLB holds such an entry, or a read, which may be a walk's (R160, R313). -/
def chanWaits (s : State) (p : TlbTag → Bool) (n : Nat) (reads : Bool) : Bool :=
  decide (64 ≤ n) && (reads || (Tab.get [] s.etlb (n / 32)).any (fun e => p e.tag))

/-- Some access of an ordinary channel that the removal waits for is outstanding (R313). -/
def engineOut (s : State) (p : TlbTag → Bool) : Bool :=
  s.homeQ.any (fun q => match q.who with
    | .req (.comet n) => chanWaits s p n.val (q.req == .rdCur)
    | _ => false) ||
  s.txs.any (fun t => match t.who with
    | .comet n => chanWaits s p n (decide (t.msg.op.toNat = opRdCur))
    | .dropped n => chanWaits s p n false
    | _ => false)

/-- Every engine TLB drops the matching entries, and the answers that ordinary channels have not yet
looked at are asked for again, so that a walk in progress starts again (R160, R313). -/
def dropEngines (s : State) (p : TlbTag → Bool) : State :=
  { s with
    etlb := s.etlb.map (fun e => (e.1, e.2.filter (fun x => !(p x.tag))))
    homeDone := s.homeDone.filter (fun x => match x.1.who with
      | .req (.comet n) => decide (n.val < 64) || x.1.req != .rdCur
      | _ => true)
    chans := s.chans.map (fun e =>
      if e.1 < 64 then e else (e.1, { e.2 with
        got := e.2.got.filter (fun g => g.1 % 4 ≠ 0)
        done := e.2.done.filter (fun g => decide (g.1 < walkAt 0 ∨ g.1 = choiceKey)) })) }

/-- The engine TLBs drop the matching entries once every channel access translated through one has
been performed (R313). -/
def invEngines (p : TlbTag → Bool) : CpuM Unit := do
  let s ← get
  if engineOut s p then stall else set (dropEngines s p)

/-- The cores that hold any state. -/
def coreKeys (s : State) : List Nat := s.cores.map (fun e => e.1)

/-- TLBINV: on this core only (R86, R159). -/
def execTlbinv (c : CoreNo) (a b : GReg) (s : State) : Host.Outcome State Fault Refusal :=
  issue c (.tlbinv c a b) 4 1 true [] (invOn (invMatch (fget s F.vmid_VMID c)
    (fget s F.asid_ASID c) (getG s c a).toNat ((getG s c b).toNat % 4)) c) s

/-- TLBINVB: on every core of the device (R86, R160). -/
def execTlbinvb (c : CoreNo) (a b : GReg) (s : State) : Host.Outcome State Fault Refusal :=
  issue c (.tlbinvb c a b) 4 1 true [] (do
    let p := invMatch (fget s F.vmid_VMID c) (fget s F.asid_ASID c) (getG s c a).toNat
      ((getG s c b).toNat % 4)
    invEach p (coreKeys s)
    invEngines p) s

/-- TLBINVA: every entry of the VMID gA[15:0], or of all VMIDs, on every core (R86, R159). -/
def execTlbinva (c : CoreNo) (a b : GReg) (s : State) : Host.Outcome State Fault Refusal :=
  issue c (.tlbinva c a b) 4 2 true [] (do
    let p (t : TlbTag) : Bool :=
      (getG s c b).getLsbD 0 || decide (t.vmid = (getG s c a).toNat % 65536)
    invEach p (coreKeys s)
    invEngines p) s

/-- Whether a TLB entry is locked and covers an address of the current VMID and ASID. -/
def lockedHit (s : State) (c : CoreNo) (va : Nat) (e : TlbEnt) : Bool :=
  e.locked && canonical va && entHits e (fget s F.vmid_VMID c) (fget s F.asid_ASID c) va

/-- TLBLOCK: walks as a load would and locks the entry; gD := 0, or 1 when 32 others are locked
(R87, R158). The 32 locks are counted before the walk, which could fault; a ninth page of a set whose
eight ways are locked finds no way, is not locked, and gives 1 (DESIGN CHOICE, assumption 108). -/
def execTlblock (c : CoreNo) (d a : GReg) (s : State) : Host.Outcome State Fault Refusal :=
  issue c (.tlblock c d a) 4 2 true [] (do
    let va := (getG s c a).toNat
    if !(canonical va) then raise (xlatExc 0x05 va 0 .load)
    else if (coreOf s c).tlb.any (lockedHit s c va) then modify (fun s => setG s c d 0)
    else if ((coreOf s c).tlb.filter (fun e => e.locked)).length ≥ 32 then
      modify (fun s => setG s c d 1)
    else
      let e ← walk c va (plOf s c) .load true none 4
      let s ← get
      let core := coreOf s c
      if 8 ≤ (core.tlb.filter (fun x => x.locked && tlbSet x == tlbSet e)).length then set (setG s c d 1)
      else
        let (v, s) := takeFree s
        set (setG (modCore s c (fun k => { k with
          tlb := fillL2 v { e with locked := true } (k.tlb.filter (fun x => x.tag ≠ e.tag)) })) c d 0)) s

/-- TLBUNLOCK: the matching locked entry becomes ordinary and stays valid (R87). -/
def execTlbunlock (c : CoreNo) (d a : GReg) (s : State) : Host.Outcome State Fault Refusal :=
  issue c (.tlbunlock c d a) 4 2 true [] (modify (fun s =>
    let va := (getG s c a).toNat
    if (coreOf s c).tlb.any (lockedHit s c va) then
      setG (modCore s c (fun k => { k with tlb := k.tlb.map (fun e =>
        if lockedHit s c va e then { e with locked := false } else e) })) c d 0
    else setG s c d 1)) s

end Sys2Proof.Machine
end

