-- ==== Sys2Proof/Machine/Float.lean ====
section
/-! DEFINITION. IEEE 754 binary16, binary32 and binary64 arithmetic (R34, R35, R74): exact
computation on integers, then one rounding. Flags are numbers in the bit order of FPCS.FLG. -/

namespace Sys2Proof.Machine

/-- A binary format: exponent bits and fraction bits. -/
structure FFmt where
  eb : Nat
  mb : Nat
  deriving DecidableEq, Repr

/-- The format of a lane width; a width of 8 has none and is not reached (R74). -/
def fmtOf (w : Nat) : FFmt :=
  if w = 16 then ⟨5, 10⟩ else if w = 32 then ⟨8, 23⟩ else ⟨11, 52⟩

/-- Width of a format in bits. -/
def FFmt.width (f : FFmt) : Nat := f.eb + f.mb + 1
/-- Exponent bias. -/
def FFmt.bias (f : FFmt) : Int := 2 ^ (f.eb - 1) - 1
/-- Smallest normal exponent. -/
def FFmt.emin (f : FFmt) : Int := 1 - f.bias

/-- Rounding and flushing controls of FPCS. -/
structure FCtl where
  rm : Nat
  fz : Bool
  deriving DecidableEq, Repr

/-- Flag values (FPCS.FLG). -/
def flagInvalid : Nat := 1
def flagDivZero : Nat := 2
def flagOverflow : Nat := 4
def flagUnderflow : Nat := 8
def flagInexact : Nat := 16

/-- An unpacked operand: a finite value is (-1)^s × m × 2^e. -/
inductive FVal where
  | fin (s : Bool) (m : Nat) (e : Int)
  | inf (s : Bool)
  | nan (signalling : Bool)
  deriving DecidableEq, Repr

/-- Unpack an operand; with FZ a subnormal is a zero of the same sign. -/
def unpackF (f : FFmt) (k : FCtl) (x : Nat) : FVal :=
  let s := bit x (f.eb + f.mb)
  let e := bitsOf x (f.eb + f.mb - 1) f.mb
  let m := x % 2 ^ f.mb
  if e = 2 ^ f.eb - 1 then
    if m = 0 then .inf s else .nan (!bit m (f.mb - 1))
  else if e = 0 then
    if k.fz then .fin s 0 0 else .fin s m (f.emin - f.mb)
  else .fin s (m + 2 ^ f.mb) ((e : Int) - f.bias - f.mb)

/-- The flags a flushed subnormal operand raises (open in the spec). -/
def flushIn (f : FFmt) (k : FCtl) (x : Nat) : Nat :=
  if k.fz ∧ bitsOf x (f.eb + f.mb - 1) f.mb = 0 ∧ x % 2 ^ f.mb ≠ 0 then
    Config.flushInFlags % 32 else 0

/-- Pack sign, exponent field and fraction. -/
def packF (f : FFmt) (s : Bool) (e m : Nat) : Nat :=
  b2n s * 2 ^ (f.eb + f.mb) + e * 2 ^ f.mb + m

/-- A quiet NaN with an open sign and payload. -/
def nanF (f : FFmt) (a b c : Nat) : Nat :=
  let p := Config.nanPayload f.width a b c
  packF f (bit p (f.mb - 1)) (2 ^ f.eb - 1) (2 ^ (f.mb - 1) + p % 2 ^ (f.mb - 1))

/-- Infinity. -/
def infF (f : FFmt) (s : Bool) : Nat := packF f s (2 ^ f.eb - 1) 0

/-- Whether a magnitude is rounded up, by mode, sign, the last kept bit and the remainder: `half` is
−1, 0 or 1 as the remainder lies below, at or above one half, `some` says that it is not zero. -/
def roundUp (rm : Nat) (s odd : Bool) (half : Int) (inexact : Bool) : Bool :=
  if rm = 0 then decide (half > 0) || (decide (half = 0) && odd)
  else if rm = 1 then false
  else if rm = 2 then inexact && !s
  else inexact && s

/-- `m` shifted right by `r` bits and rounded; `st` says that a part below `m` is not zero. -/
def roundShift (rm : Nat) (s : Bool) (m r : Nat) (st : Bool) : Nat × Bool :=
  let q := m >>> r
  let rem := m % 2 ^ r
  let inex := decide (rem ≠ 0) || st
  let half : Int :=
    if 2 * rem > 2 ^ r then 1 else if 2 * rem < 2 ^ r then -1 else if st then 1 else 0
  let half := if r = 0 then -1 else half
  (q + b2n (roundUp rm s (decide (q % 2 = 1)) half inex), inex)

/-- Round (-1)^s × m × 2^e (plus a sticky part below m) into a format. -/
def roundF (f : FFmt) (k : FCtl) (s : Bool) (m : Nat) (e : Int) (st : Bool) : Nat × Nat :=
  if m = 0 then (packF f s 0 0, 0)
  else
    let ex : Int := e + (Nat.log2 m : Int)
    let q : Int := (if ex < f.emin then f.emin else ex) - f.mb
    let (v, inex) :=
      if q ≤ e then (m * 2 ^ (e - q).toNat, st) else roundShift k.rm s m (q - e).toNat st
    let tinyB := decide (ex < f.emin)
    let q' : Int := ex - f.mb
    let v' := if q' ≤ e then 0 else (roundShift k.rm s m (q' - e).toNat st).1
    let tinyA := tinyB && !(decide (ex + 1 = f.emin) && decide (v' = 2 ^ (f.mb + 1)))
    let tiny := tinyB && (tinyA || !Config.tinyAfter)
    if v ≥ 2 ^ f.mb then
      let (v, q) := if v ≥ 2 ^ (f.mb + 1) then (v / 2, q + 1) else (v, q)
      let ef : Int := q + f.mb + f.bias
      if ef ≥ 2 ^ f.eb - 1 then
        let toInf := k.rm = 0 ∨ (k.rm = 2 ∧ !s) ∨ (k.rm = 3 ∧ s)
        (if toInf then infF f s else packF f s (2 ^ f.eb - 2) (2 ^ f.mb - 1),
         flagOverflow + flagInexact)
      else
        (packF f s ef.toNat (v - 2 ^ f.mb),
         (if inex then flagInexact else 0) + (if inex && tiny then flagUnderflow else 0))
    else if k.fz ∧ v ≠ 0 then
      (packF f s 0 0, Config.flushFlags % 32 &&& (flagInexact + flagUnderflow))
    else
      (packF f s 0 v,
       (if inex then flagInexact else 0) + (if inex && tiny then flagUnderflow else 0))

/-- A NaN result: invalid when a NaN operand signals. -/
def nanRes (f : FFmt) (a b c : Nat) (sig : Bool) : Nat × Nat :=
  (nanF f a b c, if sig then flagInvalid else 0)

/-- Whether an operand is a signalling NaN. -/
def FVal.sig : FVal → Bool
  | .nan s => s
  | _ => false

/-- Whether an operand is a NaN. -/
def FVal.isNan : FVal → Bool
  | .nan _ => true
  | _ => false

/-- The sign of an exact zero sum (IEEE 754): the common sign, else + unless rounding toward −∞. -/
def zeroSign (rm : Nat) (s t : Bool) : Bool := if s = t then s else decide (rm = 3)

/-- The exact sum of two finite values, rounded. -/
def addFin (f : FFmt) (k : FCtl) (s : Bool) (m : Nat) (e : Int) (t : Bool) (n : Nat) (g : Int) :
    Nat × Nat :=
  let lo := if e < g then e else g
  let x : Int := (m : Int) * 2 ^ (e - lo).toNat * (if s then -1 else 1)
  let y : Int := (n : Int) * 2 ^ (g - lo).toNat * (if t then -1 else 1)
  let z := x + y
  if z = 0 then (packF f (zeroSign k.rm s t) 0 0, 0)
  else roundF f k (decide (z < 0)) z.natAbs lo false

/-- Addition. -/
def faddF (f : FFmt) (k : FCtl) (a b : Nat) : Nat × Nat :=
  match unpackF f k a, unpackF f k b with
  | .fin s m e, .fin t n g => addFin f k s m e t n g
  | .inf s, .inf t => if s = t then (infF f s, 0) else (nanF f a b 0, flagInvalid)
  | .inf s, .fin .. => (infF f s, 0)
  | .fin .., .inf t => (infF f t, 0)
  | x, y => nanRes f a b 0 (x.sig || y.sig)

/-- The operand with its sign bit flipped. -/
def negF (f : FFmt) (a : Nat) : Nat := a ^^^ 2 ^ (f.eb + f.mb)

/-- Subtraction: the sum with the second operand's sign flipped, unless it is a NaN. -/
def fsubF (f : FFmt) (k : FCtl) (a b : Nat) : Nat × Nat :=
  if (unpackF f k b).isNan then faddF f k a b else faddF f k a (negF f b)

/-- Multiplication. -/
def fmulF (f : FFmt) (k : FCtl) (a b : Nat) : Nat × Nat :=
  match unpackF f k a, unpackF f k b with
  | .fin s m e, .fin t n g => roundF f k (s != t) (m * n) (e + g) false
  | .inf s, .inf t => (infF f (s != t), 0)
  | .inf s, .fin t n _ => if n = 0 then (nanF f a b 0, flagInvalid) else (infF f (s != t), 0)
  | .fin s m _, .inf t => if m = 0 then (nanF f a b 0, flagInvalid) else (infF f (s != t), 0)
  | x, y => nanRes f a b 0 (x.sig || y.sig)

/-- Division. -/
def fdivF (f : FFmt) (k : FCtl) (a b : Nat) : Nat × Nat :=
  match unpackF f k a, unpackF f k b with
  | .fin s m e, .fin t n g =>
    if n = 0 then
      if m = 0 then (nanF f a b 0, flagInvalid) else (infF f (s != t), flagDivZero)
    else
      let sh := f.mb + 3 + Nat.log2 n
      let x := m * 2 ^ sh
      if m = 0 then (packF f (s != t) 0 0, 0)
      else roundF f k (s != t) (x / n) (e - g - sh) (decide (x % n ≠ 0))
  | .inf _, .inf _ => (nanF f a b 0, flagInvalid)
  | .inf s, .fin t _ _ => (infF f (s != t), 0)
  | .fin s _ _, .inf t => (packF f (s != t) 0 0, 0)
  | x, y => nanRes f a b 0 (x.sig || y.sig)

/-- Integer square root by bits, from bit `n - 1` down. -/
def isqrtBits (v : Nat) : Nat → Nat → Nat
  | 0, r => r
  | n + 1, r =>
    let r' := r + 2 ^ n
    isqrtBits v n (if r' * r' ≤ v then r' else r)

/-- Integer square root. -/
def isqrt (v : Nat) : Nat := isqrtBits v (Nat.log2 v / 2 + 1) 0

/-- Square root. -/
def fsqrtF (f : FFmt) (k : FCtl) (a : Nat) : Nat × Nat :=
  match unpackF f k a with
  | .fin s m e =>
    if m = 0 then (packF f s 0 0, 0)
    else if s then (nanF f a 0 0, flagInvalid)
    else
      let sh := 2 * f.mb + 6 + (e % 2).toNat
      let x := m * 2 ^ sh
      let r := isqrt x
      roundF f k false r ((e - sh) / 2) (decide (r * r ≠ x))
  | .inf s => if s then (nanF f a 0 0, flagInvalid) else (infF f false, 0)
  | .nan sg => nanRes f a 0 0 sg

/-- Fused multiply-add c + a × b with one rounding (FMA: vD := vD + vA × vB). -/
def fmaF (f : FFmt) (k : FCtl) (a b c : Nat) : Nat × Nat :=
  let x := unpackF f k a
  let y := unpackF f k b
  let z := unpackF f k c
  let zeroInf : Bool := match x, y with
    | .inf _, .fin _ n _ => decide (n = 0)
    | .fin _ m _, .inf _ => decide (m = 0)
    | _, _ => false
  if x.isNan || y.isNan || z.isNan then
    (nanF f a b c, if x.sig || y.sig || z.sig || (zeroInf && Config.fmaInvalid) then flagInvalid
      else 0)
  else if zeroInf then (nanF f a b c, flagInvalid)
  else match x, y, z with
    | .fin s m e, .fin t n g, .fin u o h => addFin f k (s != t) (m * n) (e + g) u o h
    | .fin _ _ _, .fin _ _ _, .inf u => (infF f u, 0)
    | .inf s, .fin t _ _, .inf u =>
      if (s != t) = u then (infF f u, 0) else (nanF f a b c, flagInvalid)
    | .inf s, .inf t, .inf u =>
      if (s != t) = u then (infF f u, 0) else (nanF f a b c, flagInvalid)
    | .fin s _ _, .inf t, .inf u =>
      if (s != t) = u then (infF f u, 0) else (nanF f a b c, flagInvalid)
    | .inf s, .fin t _ _, _ => (infF f (s != t), 0)
    | .inf s, .inf t, _ => (infF f (s != t), 0)
    | .fin s _ _, .inf t, _ => (infF f (s != t), 0)
    | _, _, _ => (nanF f a b c, 0)

/-- A finite value's sign-and-magnitude comparison: whether the first is less. -/
def ltFin (s : Bool) (m : Nat) (e : Int) (t : Bool) (n : Nat) (g : Int) : Bool :=
  let lo := if e < g then e else g
  let x : Int := (m : Int) * 2 ^ (e - lo).toNat * (if s then -1 else 1)
  let y : Int := (n : Int) * 2 ^ (g - lo).toNat * (if t then -1 else 1)
  decide (x < y)

/-- Whether the first value is less than the second; false where either is a NaN. -/
def FVal.lt : FVal → FVal → Bool
  | .fin s m e, .fin t n g => ltFin s m e t n g
  | .inf s, .inf t => s && !t
  | .inf s, .fin .. => s
  | .fin .., .inf t => !t
  | _, _ => false

/-- FMIN (`mx` false) and FMAX (`mx` true). -/
def fminmaxF (f : FFmt) (k : FCtl) (mx : Bool) (a b : Nat) : Nat × Nat :=
  let x := unpackF f k a
  let y := unpackF f k b
  if x.isNan || y.isNan then
    (Config.minMaxNan f.width a b % 2 ^ f.width, if x.sig || y.sig then flagInvalid else 0)
  else
    let z (v : FVal) (r : Nat) : Nat := match v with
      | .fin s 0 _ => packF f s 0 0
      | _ => r
    if x.lt y then (if mx then z y b else z x a, 0)
    else if y.lt x then (if mx then z x a else z y b, 0)
    else (if Config.minMaxZero f.width a b then z x a else z y b, 0)

/-- The four condition flags of FCMP as a number, Z in bit 0 to U in bit 3 (R32): N is the flag of
a floating-point compare and B that of an unsigned one, so B is 0 (DEDUCED, assumption 7). -/
def fcmpF (f : FFmt) (k : FCtl) (a b : Nat) : Nat × Nat :=
  let x := unpackF f k a
  let y := unpackF f k b
  if x.isNan || y.isNan then (8, if x.sig || y.sig then flagInvalid else 0)
  else if x.lt y then (2, 0)
  else if y.lt x then (0, 0)
  else (1, 0)

/-- A finite magnitude rounded to an integer. -/
def roundInt (rm : Nat) (s : Bool) (m : Nat) (e : Int) : Nat × Bool :=
  if 0 ≤ e then (m * 2 ^ e.toNat, false) else roundShift rm s m (-e).toNat false

/-- Conversion to an integer of `w` bits between `lo` and `hi`, saturating; a NaN gives 0 and
raises invalid (R74). -/
def toIntF (f : FFmt) (k : FCtl) (w : Nat) (lo hi : Int) (a : Nat) : Nat × Nat :=
  let enc (i : Int) : Nat := (BitVec.ofInt w i).toNat
  match unpackF f k a with
  | .nan _ => (0, flagInvalid)
  | .inf s => (enc (if s then lo else hi), flagInvalid)
  | .fin s m e =>
    let (v, inex) := roundInt k.rm s m e
    let i : Int := if s then -(v : Int) else v
    if i < lo then (enc lo, flagInvalid)
    else if i > hi then (enc hi, flagInvalid)
    else (enc i, if inex then flagInexact else 0)

/-- Conversion of a signed integer of `w` bits. -/
def fromIntF (f : FFmt) (k : FCtl) (w a : Nat) : Nat × Nat :=
  let i := sextN w a
  roundF f k (decide (i < 0)) i.natAbs 0 false

/-- Conversion between formats. -/
def cvtF (src dst : FFmt) (k : FCtl) (a : Nat) : Nat × Nat :=
  match unpackF src k a with
  | .fin s m e => roundF dst k s m e false
  | .inf s => (infF dst s, 0)
  | .nan sg => nanRes dst a 0 0 sg

end Sys2Proof.Machine
end

