-- ==== Sys2Proof/Machine/Vector.lean ====
section
/-! DEFINITION. Vector and floating-point instructions (R34, R35, R74). -/

namespace Sys2Proof.Machine

/-- Lane `i` of width `w` of a vector. -/
def laneOf (v : Vec) (w i : Nat) : Nat := bitsOf v.toNat (w * i + w - 1) (w * i)

/-- A vector from its lanes of width `w`, lane 0 first. -/
def fromLanes (w : Nat) : List Nat → Nat
  | [] => 0
  | x :: xs => x % 2 ^ w + 2 ^ w * fromLanes w xs

/-- The lanes of width `w` of a vector. -/
def lanesOf (v : Vec) (w : Nat) : List Nat := (upto (256 / w)).map (laneOf v w)

/-- A vector whose lane `i` of width `w` is `f i`. -/
def mkVec (w : Nat) (f : Nat → Nat) : Vec :=
  BitVec.ofNat 256 (fromLanes w ((upto (256 / w)).map f))

/-- The instruction sets each lane of vD from the matching lanes of vA and vB (R74). -/
def vecOp (c : CoreNo) (i : Instr) (z : Lane) (wf : Bool) (d a b : VReg) (f : Nat → Nat → Nat → Nat)
    (s : State) : Host.Outcome State Fault Refusal :=
  issue c i 4 0 wf [] (modify (fun s =>
    setV s c d (mkVec z.bits (fun j => f z.bits (laneOf (getV s c a) z.bits j)
      (laneOf (getV s c b) z.bits j))))) s

/-- The rounding and flushing controls of a core. -/
def fpCtl (s : State) (c : CoreNo) : FCtl := ⟨fget s F.fpcs_RM c, fbit s F.fpcs_FZ c⟩

/-- The flags an instruction raises join FLG; an enabled one takes FP_EXC and writes no result
(R35). -/
def raiseFlags (c : CoreNo) (fl : Nat) : CpuM Unit := do
  modify (fun s => fput s F.fpcs_FLG c (fget s F.fpcs_FLG c ||| fl))
  let s ← get
  if fl &&& fget s F.fpcs_TEN c ≠ 0 then raise { code := 0x18 } else pure ()

/-- The OR of the flags of lane results. -/
def orFlags (rs : List (Nat × Nat)) : Nat := rs.foldl (fun acc r => acc ||| r.2) 0

/-- A floating-point instruction on lanes of width `w`: the scalar form acts on lane 0 and clears
the rest of vD (R34, R74). `f j` is lane j's result with its flags. -/
def fpOp (c : CoreNo) (i : Instr) (sc : Bool) (w : Nat) (wf : Bool) (d : VReg)
    (f : State → Nat → Nat × Nat) (s : State) : Host.Outcome State Fault Refusal :=
  issue c i 4 0 wf [evFp] (do
    let s ← get
    let rs := (upto (if sc then 1 else 256 / w)).map (f s)
    raiseFlags c (orFlags rs)
    modify (fun s => setV s c d (BitVec.ofNat 256 (fromLanes w (rs.map (fun r => r.1)))))) s

/-- A two-operand floating-point operation of R74; flushed operands add their flags. -/
def fp2 (c : CoreNo) (i : Instr) (sc : Bool) (z : Lane) (d a b : VReg)
    (f : FFmt → FCtl → Nat → Nat → Nat × Nat) (s : State) : Host.Outcome State Fault Refusal :=
  let fm := fmtOf z.bits
  fpOp c i sc z.bits (fpLane z) d (fun s j =>
    let k := fpCtl s c
    let x := laneOf (getV s c a) z.bits j
    let y := laneOf (getV s c b) z.bits j
    let r := f fm k x y
    (r.1, r.2 ||| flushIn fm k x ||| flushIn fm k y)) s

/-- A one-operand floating-point operation; `fm` is the format of its operand, if it is one. -/
def fp1 (c : CoreNo) (i : Instr) (sc : Bool) (w : Nat) (wf : Bool) (fm : Option FFmt) (d a : VReg)
    (f : FCtl → Nat → Nat × Nat) (s : State) : Host.Outcome State Fault Refusal :=
  fpOp c i sc w wf d (fun s j =>
    let k := fpCtl s c
    let x := laneOf (getV s c a) w j
    let r := f k x
    (r.1, r.2 ||| (match fm with
      | some fm => flushIn fm k x
      | none => 0))) s

/-- VADD, per lane (R74). -/
def execVadd (c : CoreNo) (z : Lane) (d a b : VReg) (s : State) :
    Host.Outcome State Fault Refusal :=
  vecOp c (.vadd c z d a b) z true d a b (fun _ x y => x + y) s

/-- VSUB, per lane (R74). -/
def execVsub (c : CoreNo) (z : Lane) (d a b : VReg) (s : State) :
    Host.Outcome State Fault Refusal :=
  vecOp c (.vsub c z d a b) z true d a b (fun w x y => x + 2 ^ w - y) s

/-- VMUL, low half, per lane (R74). -/
def execVmul (c : CoreNo) (z : Lane) (d a b : VReg) (s : State) :
    Host.Outcome State Fault Refusal :=
  vecOp c (.vmul c z d a b) z true d a b (fun _ x y => x * y) s

/-- VSHL by the matching lane of vB; an amount of the width or more leaves 0 (R74). -/
def execVshl (c : CoreNo) (z : Lane) (d a b : VReg) (s : State) :
    Host.Outcome State Fault Refusal :=
  vecOp c (.vshl c z d a b) z true d a b (fun w x y => if y < w then x * 2 ^ y else 0) s

/-- VSHR, logical, by the matching lane of vB (R74). -/
def execVshr (c : CoreNo) (z : Lane) (d a b : VReg) (s : State) :
    Host.Outcome State Fault Refusal :=
  vecOp c (.vshr c z d a b) z true d a b (fun w x y => if y < w then x / 2 ^ y else 0) s

/-- VSAR, arithmetic, by the matching lane of vB (R74). -/
def execVsar (c : CoreNo) (z : Lane) (d a b : VReg) (s : State) :
    Host.Outcome State Fault Refusal :=
  vecOp c (.vsar c z d a b) z true d a b (fun w x y => ((BitVec.ofNat w x).sshiftRight (min y w)).toNat) s

/-- VMIN, signed (R74). -/
def execVmin (c : CoreNo) (z : Lane) (d a b : VReg) (s : State) :
    Host.Outcome State Fault Refusal :=
  vecOp c (.vmin c z d a b) z true d a b (fun w x y => if sextN w x < sextN w y then x else y) s

/-- VMAX, signed (R74). -/
def execVmax (c : CoreNo) (z : Lane) (d a b : VReg) (s : State) :
    Host.Outcome State Fault Refusal :=
  vecOp c (.vmax c z d a b) z true d a b (fun w x y => if sextN w x < sextN w y then y else x) s

/-- VMINU (R74). -/
def execVminu (c : CoreNo) (z : Lane) (d a b : VReg) (s : State) :
    Host.Outcome State Fault Refusal :=
  vecOp c (.vminu c z d a b) z true d a b (fun _ x y => if x < y then x else y) s

/-- VMAXU (R74). -/
def execVmaxu (c : CoreNo) (z : Lane) (d a b : VReg) (s : State) :
    Host.Outcome State Fault Refusal :=
  vecOp c (.vmaxu c z d a b) z true d a b (fun _ x y => if x < y then y else x) s

/-- VAND: bitwise; the lane-size field must be 0b00 (R74). -/
def execVand (c : CoreNo) (z : Lane) (d a b : VReg) (s : State) :
    Host.Outcome State Fault Refusal :=
  issue c (.vand c z d a b) 4 0 (laneZero z) [] (modify (fun s =>
    let x := getV s c a
    let y := getV s c b
    setV s c d (x &&& y))) s

/-- VOR: bitwise; the lane-size field must be 0b00 (R74). -/
def execVor (c : CoreNo) (z : Lane) (d a b : VReg) (s : State) :
    Host.Outcome State Fault Refusal :=
  issue c (.vor c z d a b) 4 0 (laneZero z) [] (modify (fun s =>
    let x := getV s c a
    let y := getV s c b
    setV s c d (x ||| y))) s

/-- VXOR: bitwise; the lane-size field must be 0b00 (R74). -/
def execVxor (c : CoreNo) (z : Lane) (d a b : VReg) (s : State) :
    Host.Outcome State Fault Refusal :=
  issue c (.vxor c z d a b) 4 0 (laneZero z) [] (modify (fun s =>
    let x := getV s c a
    let y := getV s c b
    setV s c d (x ^^^ y))) s

/-- FADD, per lane or scalar (R35, R74). -/
def execFadd (c : CoreNo) (sc : Bool) (z : Lane) (d a b : VReg) (s : State) :
    Host.Outcome State Fault Refusal :=
  fp2 c (.fadd c sc z d a b) sc z d a b faddF s

/-- FSUB, per lane or scalar (R35, R74). -/
def execFsub (c : CoreNo) (sc : Bool) (z : Lane) (d a b : VReg) (s : State) :
    Host.Outcome State Fault Refusal :=
  fp2 c (.fsub c sc z d a b) sc z d a b fsubF s

/-- FMUL, per lane or scalar (R35, R74). -/
def execFmul (c : CoreNo) (sc : Bool) (z : Lane) (d a b : VReg) (s : State) :
    Host.Outcome State Fault Refusal :=
  fp2 c (.fmul c sc z d a b) sc z d a b fmulF s

/-- FDIV, per lane or scalar (R35, R74). -/
def execFdiv (c : CoreNo) (sc : Bool) (z : Lane) (d a b : VReg) (s : State) :
    Host.Outcome State Fault Refusal :=
  fp2 c (.fdiv c sc z d a b) sc z d a b fdivF s

/-- FMIN, per lane or scalar (R35, R74). -/
def execFmin (c : CoreNo) (sc : Bool) (z : Lane) (d a b : VReg) (s : State) :
    Host.Outcome State Fault Refusal :=
  fp2 c (.fmin c sc z d a b) sc z d a b (fun fm k x y => fminmaxF fm k false x y) s

/-- FMAX, per lane or scalar (R35, R74). -/
def execFmax (c : CoreNo) (sc : Bool) (z : Lane) (d a b : VReg) (s : State) :
    Host.Outcome State Fault Refusal :=
  fp2 c (.fmax c sc z d a b) sc z d a b (fun fm k x y => fminmaxF fm k true x y) s

/-- FSQRT, per lane or scalar (R35, R74). -/
def execFsqrt (c : CoreNo) (sc : Bool) (z : Lane) (d a : VReg) (s : State) :
    Host.Outcome State Fault Refusal :=
  fp1 c (.fsqrt c sc z d a) sc z.bits (fpLane z) (some (fmtOf z.bits)) d a
    (fun k x => fsqrtF (fmtOf z.bits) k x) s

/-- FMA: vD := vD + vA × vB with one rounding (R35, R74). -/
def execFma (c : CoreNo) (sc : Bool) (z : Lane) (d a b : VReg) (s : State) :
    Host.Outcome State Fault Refusal :=
  let fm := fmtOf z.bits
  fpOp c (.fma c sc z d a b) sc z.bits (fpLane z) d (fun s j =>
    let k := fpCtl s c
    let x := laneOf (getV s c a) z.bits j
    let y := laneOf (getV s c b) z.bits j
    let u := laneOf (getV s c d) z.bits j
    let r := fmaF fm k x y u
    (r.1, r.2 ||| flushIn fm k x ||| flushIn fm k y ||| flushIn fm k u)) s

/-- FCMP: condition register vD[2:0] := the flags of lane 0 of vA against lane 0 of vB (R32, R74). -/
def execFcmp (c : CoreNo) (z : Lane) (d a b : VReg) (s : State) :
    Host.Outcome State Fault Refusal :=
  issue c (.fcmp c z d a b) 4 0 (fpLane z && decide (d.val < 8)) [evFp] (do
    let s ← get
    let fm := fmtOf z.bits
    let k := fpCtl s c
    let x := laneOf (getV s c a) z.bits 0
    let y := laneOf (getV s c b) z.bits 0
    let r := fcmpF fm k x y
    raiseFlags c (r.2 ||| flushIn fm k x ||| flushIn fm k y)
    modify (fun s => setC s c (Fin.ofNat 8 d.val) r.1)) s

/-- Conversion between floating-point sizes: lane j of vD, for each j that both sizes have; the other
lanes of vD, where the source is wider, are free values (R74). -/
def execCvtFpFp (c : CoreNo) (z src : Lane) (d a : VReg) (s : State) :
    Host.Outcome State Fault Refusal :=
  issue c (.cvtFpFp c z src d a) 4 0 (fpLane z && fpLane src) [evFp] (do
    let s ← get
    let k := fpCtl s c
    let w := z.bits
    let n := min (256 / w) (256 / src.bits)
    let rs := (upto n).map (fun j =>
      let x := laneOf (getV s c a) src.bits j
      let r := cvtF (fmtOf src.bits) (fmtOf w) k x
      (r.1, r.2 ||| flushIn (fmtOf src.bits) k x))
    raiseFlags c (orFlags rs)
    let s ← get
    let (v, s') := takeFree s
    let rest := if w * n < 256 then v % 2 ^ (256 - w * n) else 0
    set (setV (if w * n < 256 then s' else s) c d
      (BitVec.ofNat 256 (fromLanes w (rs.map (fun r => r.1)) + 2 ^ (w * n) * rest)))) s

/-- Conversion to signed integers, saturating; a NaN gives 0 and raises invalid (R74). -/
def execCvtFpSigned (c : CoreNo) (z : Lane) (d a : VReg) (s : State) :
    Host.Outcome State Fault Refusal :=
  fp1 c (.cvtFpSigned c z d a) false z.bits (fpLane z) (some (fmtOf z.bits)) d a (fun k x =>
    toIntF (fmtOf z.bits) k z.bits (-(2 : Int) ^ (z.bits - 1)) ((2 : Int) ^ (z.bits - 1) - 1) x) s

/-- Conversion of signed integers to floating point (R74). -/
def execCvtSignedFp (c : CoreNo) (z : Lane) (d a : VReg) (s : State) :
    Host.Outcome State Fault Refusal :=
  fp1 c (.cvtSignedFp c z d a) false z.bits (fpLane z) none d a (fun k x =>
    fromIntF (fmtOf z.bits) k z.bits x) s

/-- Conversion to unsigned integers, saturating; a NaN gives 0 and raises invalid (R74). -/
def execCvtFpUnsigned (c : CoreNo) (z : Lane) (d a : VReg) (s : State) :
    Host.Outcome State Fault Refusal :=
  fp1 c (.cvtFpUnsigned c z d a) false z.bits (fpLane z) (some (fmtOf z.bits)) d a (fun k x =>
    toIntF (fmtOf z.bits) k z.bits 0 ((2 : Int) ^ z.bits - 1) x) s

/-- VEXT: gD := the named lane of vA, zero-extended (R74). A lane number beyond the last lane has no
stated value: it is a free value. -/
def execVext (c : CoreNo) (z : Lane) (d : GReg) (a : VReg) (lane : Fin 32) (s : State) :
    Host.Outcome State Fault Refusal :=
  issue c (.vext c z d a lane) 4 0 true [] (modify (fun s =>
    if lane.val < 256 / z.bits then setG s c d (w64 (laneOf (getV s c a) z.bits lane))
    else
      let (v, s) := takeFree s
      setG s c d (w64 (v % 2 ^ z.bits)))) s

/-- VINS: the named lane of vD := the low bits of gA (R74). With a lane number beyond the last lane
vD is a free value. -/
def execVins (c : CoreNo) (z : Lane) (d : VReg) (a : GReg) (lane : Fin 32) (s : State) :
    Host.Outcome State Fault Refusal :=
  issue c (.vins c z d a lane) 4 0 true [] (modify (fun s =>
    let w := z.bits
    if lane.val < 256 / w then
      setV s c d (BitVec.ofNat 256 (setBitsOf (getV s c d).toNat (w * lane + w - 1) (w * lane)
        (getG s c a).toNat))
    else
      let (v, s) := takeFree s
      setV s c d (BitVec.ofNat 256 v))) s

/-- VBCAST: every lane of vD := the low bits of gA (R74). -/
def execVbcast (c : CoreNo) (z : Lane) (d : VReg) (a : GReg) (s : State) :
    Host.Outcome State Fault Refusal :=
  issue c (.vbcast c z d a) 4 0 true [] (modify (fun s =>
    setV s c d (mkVec z.bits (fun _ => (getG s c a).toNat)))) s

/-- VLDL: lane 0 of vD := the bytes at gA; the rest of vD := 0 (R74). -/
def execVldl (c : CoreNo) (z : Lane) (d : VReg) (a : GReg) (s : State) :
    Host.Outcome State Fault Refusal :=
  issue c (.vldl c z d a) 4 0 true [evLoad] (do
    let bs ← loadData c (getG s c a) (z.bits / 8)
    modify (fun s => setV s c d (BitVec.ofNat 256 (leNat bs)))) s

/-- VSTL: stores lane 0 of vD at gA (R74). -/
def execVstl (c : CoreNo) (z : Lane) (d : VReg) (a : GReg) (s : State) :
    Host.Outcome State Fault Refusal :=
  issue c (.vstl c z d a) 4 0 true [evStore]
    (storeData c (getG s c a) (natLe (getV s c d).toNat (z.bits / 8)) false false) s

/-- VST: stores the 32 bytes of vD at gA (R74). -/
def execVst (c : CoreNo) (d : VReg) (a : GReg) (s : State) :
    Host.Outcome State Fault Refusal :=
  issue c (.vst c d a) 4 0 true [evStore]
    (storeData c (getG s c a) (natLe (getV s c d).toNat 32) false false) s

/-- VLD: vD := 32 bytes at the effective address (R49, R74). -/
def execVld (c : CoreNo) (d : VReg) (m : MAddr) (s : State) :
    Host.Outcome State Fault Refusal :=
  issue c (.vld c d m) (mLen m) 0 true [evLoad] (do
    let bs ← loadData c (effAddr s c (getPc s c) m) 32
    modify (fun s => setV s c d (BitVec.ofNat 256 (leNat bs)))) s

end Sys2Proof.Machine
end

