-- ==== Sys2Proof/Machine/Dispatch.lean ====
section
/-! DEFINITION. One arm per command: the command's meaning, called by its full name. -/

namespace Sys2Proof.Machine

/-- The effect of a command on everything but the queue. -/
def exec (i : Instr) (s : State) : Host.Outcome State Fault Refusal :=
  match i with
  | .add c d a b => Sys2Proof.Machine.execAdd c d a b s
  | .sub c d a b => Sys2Proof.Machine.execSub c d a b s
  | .and c d a b => Sys2Proof.Machine.execAnd c d a b s
  | .or c d a b => Sys2Proof.Machine.execOr c d a b s
  | .xor c d a b => Sys2Proof.Machine.execXor c d a b s
  | .andn c d a b => Sys2Proof.Machine.execAndn c d a b s
  | .shl c d a b => Sys2Proof.Machine.execShl c d a b s
  | .shr c d a b => Sys2Proof.Machine.execShr c d a b s
  | .sar c d a b => Sys2Proof.Machine.execSar c d a b s
  | .ror c d a b => Sys2Proof.Machine.execRor c d a b s
  | .mul c d a b => Sys2Proof.Machine.execMul c d a b s
  | .mulh c d a b => Sys2Proof.Machine.execMulh c d a b s
  | .mulhu c d a b => Sys2Proof.Machine.execMulhu c d a b s
  | .div c d a b => Sys2Proof.Machine.execDiv c d a b s
  | .divu c d a b => Sys2Proof.Machine.execDivu c d a b s
  | .rem c d a b => Sys2Proof.Machine.execRem c d a b s
  | .remu c d a b => Sys2Proof.Machine.execRemu c d a b s
  | .min c d a b => Sys2Proof.Machine.execMin c d a b s
  | .max c d a b => Sys2Proof.Machine.execMax c d a b s
  | .minu c d a b => Sys2Proof.Machine.execMinu c d a b s
  | .maxu c d a b => Sys2Proof.Machine.execMaxu c d a b s
  | .clz c d a => Sys2Proof.Machine.execClz c d a s
  | .ctz c d a => Sys2Proof.Machine.execCtz c d a s
  | .popc c d a => Sys2Proof.Machine.execPopc c d a s
  | .sext c z d a => Sys2Proof.Machine.execSext c z d a s
  | .addi c d a im => Sys2Proof.Machine.execAddi c d a im s
  | .andi c d a im => Sys2Proof.Machine.execAndi c d a im s
  | .ori c d a im => Sys2Proof.Machine.execOri c d a im s
  | .xori c d a im => Sys2Proof.Machine.execXori c d a im s
  | .shi c d a k n => Sys2Proof.Machine.execShi c d a k n s
  | .movi c d im => Sys2Proof.Machine.execMovi c d im s
  | .muli c d a im => Sys2Proof.Machine.execMuli c d a im s
  | .cmp c cd a b => Sys2Proof.Machine.execCmp c cd a b s
  | .cmpW c cd a b => Sys2Proof.Machine.execCmpW c cd a b s
  | .tst c cd a b => Sys2Proof.Machine.execTst c cd a b s
  | .cmpi c cd a im => Sys2Proof.Machine.execCmpi c cd a im s
  | .cmpui c cd a im => Sys2Proof.Machine.execCmpui c cd a im s
  | .csel c d a b cr cond => Sys2Proof.Machine.execCsel c d a b cr cond s
  | .extu c d a b => Sys2Proof.Machine.execExtu c d a b s
  | .exts c d a b => Sys2Proof.Machine.execExts c d a b s
  | .ins c d a b => Sys2Proof.Machine.execIns c d a b s
  | .bswap c d a => Sys2Proof.Machine.execBswap c d a s
  | .bc c cr cond disp => Sys2Proof.Machine.execBc c cr cond disp s
  | .jmp c disp => Sys2Proof.Machine.execJmp c disp s
  | .call c disp => Sys2Proof.Machine.execCall c disp s
  | .jmpr c a => Sys2Proof.Machine.execJmpr c a s
  | .callr c a => Sys2Proof.Machine.execCallr c a s
  | .ret c => Sys2Proof.Machine.execRet c s
  | .ldB c d m => Sys2Proof.Machine.execLdB c d m s
  | .ldH c d m => Sys2Proof.Machine.execLdH c d m s
  | .ldW c d m => Sys2Proof.Machine.execLdW c d m s
  | .ldD c d m => Sys2Proof.Machine.execLdD c d m s
  | .ldBs c d m => Sys2Proof.Machine.execLdBs c d m s
  | .ldHs c d m => Sys2Proof.Machine.execLdHs c d m s
  | .ldWs c d m => Sys2Proof.Machine.execLdWs c d m s
  | .ld16 c d m => Sys2Proof.Machine.execLd16 c d m s
  | .stB c d m => Sys2Proof.Machine.execStB c d m s
  | .stH c d m => Sys2Proof.Machine.execStH c d m s
  | .stW c d m => Sys2Proof.Machine.execStW c d m s
  | .stD c d m => Sys2Proof.Machine.execStD c d m s
  | .st16 c d m => Sys2Proof.Machine.execSt16 c d m s
  | .stnt c d m => Sys2Proof.Machine.execStnt c d m s
  | .lda c d m => Sys2Proof.Machine.execLda c d m s
  | .stl c d m => Sys2Proof.Machine.execStl c d m s
  | .addM c d a m => Sys2Proof.Machine.execAddM c d a m s
  | .subM c d a m => Sys2Proof.Machine.execSubM c d a m s
  | .andM c d a m => Sys2Proof.Machine.execAndM c d a m s
  | .orM c d a m => Sys2Proof.Machine.execOrM c d a m s
  | .xorM c d a m => Sys2Proof.Machine.execXorM c d a m s
  | .cmpM c d a m => Sys2Proof.Machine.execCmpM c d a m s
  | .mulM c d a m => Sys2Proof.Machine.execMulM c d a m s
  | .vadd c z d a b => Sys2Proof.Machine.execVadd c z d a b s
  | .vsub c z d a b => Sys2Proof.Machine.execVsub c z d a b s
  | .vmul c z d a b => Sys2Proof.Machine.execVmul c z d a b s
  | .vand c z d a b => Sys2Proof.Machine.execVand c z d a b s
  | .vor c z d a b => Sys2Proof.Machine.execVor c z d a b s
  | .vxor c z d a b => Sys2Proof.Machine.execVxor c z d a b s
  | .vshl c z d a b => Sys2Proof.Machine.execVshl c z d a b s
  | .vshr c z d a b => Sys2Proof.Machine.execVshr c z d a b s
  | .vsar c z d a b => Sys2Proof.Machine.execVsar c z d a b s
  | .vmin c z d a b => Sys2Proof.Machine.execVmin c z d a b s
  | .vmax c z d a b => Sys2Proof.Machine.execVmax c z d a b s
  | .vminu c z d a b => Sys2Proof.Machine.execVminu c z d a b s
  | .vmaxu c z d a b => Sys2Proof.Machine.execVmaxu c z d a b s
  | .fadd c sc z d a b => Sys2Proof.Machine.execFadd c sc z d a b s
  | .fsub c sc z d a b => Sys2Proof.Machine.execFsub c sc z d a b s
  | .fmul c sc z d a b => Sys2Proof.Machine.execFmul c sc z d a b s
  | .fdiv c sc z d a b => Sys2Proof.Machine.execFdiv c sc z d a b s
  | .fsqrt c sc z d a => Sys2Proof.Machine.execFsqrt c sc z d a s
  | .fma c sc z d a b => Sys2Proof.Machine.execFma c sc z d a b s
  | .fmin c sc z d a b => Sys2Proof.Machine.execFmin c sc z d a b s
  | .fmax c sc z d a b => Sys2Proof.Machine.execFmax c sc z d a b s
  | .fcmp c z d a b => Sys2Proof.Machine.execFcmp c z d a b s
  | .cvtFpFp c z src d a => Sys2Proof.Machine.execCvtFpFp c z src d a s
  | .cvtFpSigned c z d a => Sys2Proof.Machine.execCvtFpSigned c z d a s
  | .cvtSignedFp c z d a => Sys2Proof.Machine.execCvtSignedFp c z d a s
  | .cvtFpUnsigned c z d a => Sys2Proof.Machine.execCvtFpUnsigned c z d a s
  | .vext c z d a lane => Sys2Proof.Machine.execVext c z d a lane s
  | .vins c z d a lane => Sys2Proof.Machine.execVins c z d a lane s
  | .vbcast c z d a => Sys2Proof.Machine.execVbcast c z d a s
  | .vldl c z d a => Sys2Proof.Machine.execVldl c z d a s
  | .vstl c z d a => Sys2Proof.Machine.execVstl c z d a s
  | .vst c d a => Sys2Proof.Machine.execVst c d a s
  | .vld c d m => Sys2Proof.Machine.execVld c d m s
  | .bcpy c => Sys2Proof.Machine.execBcpy c s
  | .bset c => Sys2Proof.Machine.execBset c s
  | .bcmp c => Sys2Proof.Machine.execBcmp c s
  | .bscn c => Sys2Proof.Machine.execBscn c s
  | .aadd c d a b acq rel => Sys2Proof.Machine.execAadd c d a b acq rel s
  | .aswp c d a b acq rel => Sys2Proof.Machine.execAswp c d a b acq rel s
  | .acas c d a b acq rel => Sys2Proof.Machine.execAcas c d a b acq rel s
  | .sync c => Sys2Proof.Machine.execSync c s
  | .lsync c => Sys2Proof.Machine.execLsync c s
  | .ssync c => Sys2Proof.Machine.execSsync c s
  | .isync c => Sys2Proof.Machine.execIsync c s
  | .fsync c => Sys2Proof.Machine.execFsync c s
  | .drain c => Sys2Proof.Machine.execDrain c s
  | .specbar c => Sys2Proof.Machine.execSpecbar c s
  | .cinv c a => Sys2Proof.Machine.execCinv c a s
  | .ccln c a => Sys2Proof.Machine.execCcln c a s
  | .cfls c a => Sys2Proof.Machine.execCfls c a s
  | .icinv c a => Sys2Proof.Machine.execIcinv c a s
  | .tlbinv c a b => Sys2Proof.Machine.execTlbinv c a b s
  | .tlbinvb c a b => Sys2Proof.Machine.execTlbinvb c a b s
  | .tlbinva c a b => Sys2Proof.Machine.execTlbinva c a b s
  | .tlblock c d a => Sys2Proof.Machine.execTlblock c d a s
  | .tlbunlock c d a => Sys2Proof.Machine.execTlbunlock c d a s
  | .pin c d a w o => Sys2Proof.Machine.execPin c d a w o s
  | .pout c d a w o => Sys2Proof.Machine.execPout c d a w o s
  | .mfs c d n => Sys2Proof.Machine.execMfs c d n s
  | .mts c d n => Sys2Proof.Machine.execMts c d n s
  | .mtsPstate c d => Sys2Proof.Machine.execMtsPstate c d s
  | .mtsHrsctl c d => Sys2Proof.Machine.execMtsHrsctl c d s
  | .drop c d => Sys2Proof.Machine.execDrop c d s
  | .mtsPpbase c d => Sys2Proof.Machine.execMtsPpbase c d s
  | .mtsVdtb c d => Sys2Proof.Machine.execMtsVdtb c d s
  | .mtsPkr c d => Sys2Proof.Machine.execMtsPkr c d s
  | .mtsTbCmp c d => Sys2Proof.Machine.execMtsTbCmp c d s
  | .mtsPsbbase c d => Sys2Proof.Machine.execMtsPsbbase c d s
  | .scall c => Sys2Proof.Machine.execScall c s
  | .hcall c => Sys2Proof.Machine.execHcall c s
  | .mcall c => Sys2Proof.Machine.execMcall c s
  | .xret c => Sys2Proof.Machine.execXret c s
  | .brk c => Sys2Proof.Machine.execBrk c s
  | .wait c => Sys2Proof.Machine.execWait c s
  | .waitt c d a => Sys2Proof.Machine.execWaitt c d a s
  | .waittDeadline c => Sys2Proof.Machine.execWaittDeadline c s
  | .rdtb c d => Sys2Proof.Machine.execRdtb c d s
  | .wrpkr c a => Sys2Proof.Machine.execWrpkr c a s
  | .rdpkr c d => Sys2Proof.Machine.execRdpkr c d s
  | .interrupt c => Sys2Proof.Machine.execInterrupt c s
  | .counterOverflow c n => Sys2Proof.Machine.execCounterOverflow c n s
  | .sampleRecord c => Sys2Proof.Machine.execSampleRecord c s
  | .coreTimer c => Sys2Proof.Machine.execCoreTimer c s
  | .coreReplay c => Sys2Proof.Machine.execCoreReplay c s
  | .eclipseMove c => Sys2Proof.Machine.execEclipseMove c s
  | .eclipseResume c => Sys2Proof.Machine.execEclipseResume c s
  | .portTimeout c isOut d a w o => Sys2Proof.Machine.execPortTimeout c isOut d a w o s
  | .predFlush c => Sys2Proof.Machine.execPredFlush c s
  | .coreMdtbWrite c v => Sys2Proof.Machine.execCoreMdtbWrite c v s
  | .coreIpi c v => Sys2Proof.Machine.execCoreIpi c v s
  | .registerWrite c port w v => Sys2Proof.Machine.execRegisterWrite c port w v s
  | .rdS r addr spec => Sys2Proof.Machine.execRdS r addr spec s
  | .rdX r addr => Sys2Proof.Machine.execRdX r addr s
  | .upg r addr => Sys2Proof.Machine.execUpg r addr s
  | .wb r addr data => Sys2Proof.Machine.execWb r addr data s
  | .evc r addr => Sys2Proof.Machine.execEvc r addr s
  | .rdCur r addr => Sys2Proof.Machine.execRdCur r addr s
  | .wrLine r addr mask data => Sys2Proof.Machine.execWrLine r addr mask data s
  | .atom r addr op => Sys2Proof.Machine.execAtom r addr op s
  | .homeCinv r addr => Sys2Proof.Machine.execHomeCinv r addr s
  | .homeCcln r addr => Sys2Proof.Machine.execHomeCcln r addr s
  | .homeCfls r addr => Sys2Proof.Machine.execHomeCfls r addr s
  | .rclS m => Sys2Proof.Machine.execRclS m s
  | .rclI m => Sys2Proof.Machine.execRclI m s
  | .binv m => Sys2Proof.Machine.execBinv m s
  | .snpCur m => Sys2Proof.Machine.execSnpCur m s
  | .snpCln m => Sys2Proof.Machine.execSnpCln m s
  | .data m => Sys2Proof.Machine.execData m s
  | .cmpResponse m => Sys2Proof.Machine.execCmpResponse m s
  | .snpr m => Sys2Proof.Machine.execSnpr m s
  | .nak m => Sys2Proof.Machine.execNak m s
  | .msg m => Sys2Proof.Machine.execMsg m s
  | .cmd m => Sys2Proof.Machine.execCmd m s
  | .probe m => Sys2Proof.Machine.execProbe m s
  | .probeR m => Sys2Proof.Machine.execProbeR m s
  | .tsync m => Sys2Proof.Machine.execTsync m s
  | .dataFlit p e f => Sys2Proof.Machine.execDataFlit p e f s
  | .idleFlit p e f => Sys2Proof.Machine.execIdleFlit p e f s
  | .ctrlFlit p k => Sys2Proof.Machine.execCtrlFlit p k s
  | .linkNak p ack => Sys2Proof.Machine.execLinkNak p ack s
  | .replayTimeout p => Sys2Proof.Machine.execReplayTimeout p s
  | .ackTimer p => Sys2Proof.Machine.execAckTimer p s
  | .flitFillTimeout => Sys2Proof.Machine.execFlitFillTimeout s
  | .orderingStateExpiry src stream => Sys2Proof.Machine.execOrderingStateExpiry src stream s
  | .trainingPhaseDone p info => Sys2Proof.Machine.execTrainingPhaseDone p info s
  | .trainingLimit p => Sys2Proof.Machine.execTrainingLimit p s
  | .trainingRetry p => Sys2Proof.Machine.execTrainingRetry p s
  | .laneSuspect g pos => Sys2Proof.Machine.execLaneSuspect g pos s
  | .laneSpared g => Sys2Proof.Machine.execLaneSpared g s
  | .laneLost g pos => Sys2Proof.Machine.execLaneLost g pos s
  | .standbyRotate g => Sys2Proof.Machine.execStandbyRotate g s
  | .grefclkLoss g => Sys2Proof.Machine.execGrefclkLoss g s
  | .suspect n => Sys2Proof.Machine.execSuspect n s
  | .probeInterval n => Sys2Proof.Machine.execProbeInterval n s
  | .tokenBucketRelease f => Sys2Proof.Machine.execTokenBucketRelease f s
  | .tideCopyTimeout f p => Sys2Proof.Machine.execTideCopyTimeout f p s
  | .bankCopyDone => Sys2Proof.Machine.execBankCopyDone s
  | .fabricTimeout tag => Sys2Proof.Machine.execFabricTimeout tag s
  | .retryBusyResend tag => Sys2Proof.Machine.execRetryBusyResend tag s
  | .holdWindowEnd addr => Sys2Proof.Machine.execHoldWindowEnd addr s
  | .snoopResend addr n => Sys2Proof.Machine.execSnoopResend addr n s
  | .partnerSlow addr n => Sys2Proof.Machine.execPartnerSlow addr n s
  | .reclaimComplete => Sys2Proof.Machine.execReclaimComplete s
  | .winLoad ix => Sys2Proof.Machine.execWinLoad ix s
  | .winInsert => Sys2Proof.Machine.execWinInsert s
  | .winInvalidate ix => Sys2Proof.Machine.execWinInvalidate ix s
  | .winInvalidateVport v => Sys2Proof.Machine.execWinInvalidateVport v s
  | .winMqRead => Sys2Proof.Machine.execWinMqRead s
  | .vpCreate v => Sys2Proof.Machine.execVpCreate v s
  | .vpDestroy v => Sys2Proof.Machine.execVpDestroy v s
  | .vpFreeze v => Sys2Proof.Machine.execVpFreeze v s
  | .vpRestore v => Sys2Proof.Machine.execVpRestore v s
  | .vpThaw v => Sys2Proof.Machine.execVpThaw v s
  | .vpMdbWrite v x => Sys2Proof.Machine.execVpMdbWrite v x s
  | .vtDbWrite c k x => Sys2Proof.Machine.execVtDbWrite c k x s
  | .cmtEn n => Sys2Proof.Machine.execCmtEn n s
  | .cmtDrop n => Sys2Proof.Machine.execCmtDrop n s
  | .cmtHold n h => Sys2Proof.Machine.execCmtHold n h s
  | .cmtGo n => Sys2Proof.Machine.execCmtGo n s
  | .cmtRing n => Sys2Proof.Machine.execCmtRing n s
  | .cmtResume n => Sys2Proof.Machine.execCmtResume n s
  | .cmtSkip n => Sys2Proof.Machine.execCmtSkip n s
  | .cmtMove n => Sys2Proof.Machine.execCmtMove n s
  | .cmtGather n => Sys2Proof.Machine.execCmtGather n s
  | .cmtLoop n => Sys2Proof.Machine.execCmtLoop n s
  | .cmtWait n => Sys2Proof.Machine.execCmtWait n s
  | .cmtWaitEnd n => Sys2Proof.Machine.execCmtWaitEnd n s
  | .cmtSignal n => Sys2Proof.Machine.execCmtSignal n s
  | .cmtEndProg n => Sys2Proof.Machine.execCmtEndProg n s
  | .windowMissRetry n => Sys2Proof.Machine.execWindowMissRetry n s
  | .holdPoint n => Sys2Proof.Machine.execHoldPoint n s
  | .quiet n => Sys2Proof.Machine.execQuiet n s
  | .pegEvent n => Sys2Proof.Machine.execPegEvent n s
  | .pegCfgWrite n v => Sys2Proof.Machine.execPegCfgWrite n v s
  | .stagger x => Sys2Proof.Machine.execStagger x s
  | .tbValRead c n => Sys2Proof.Machine.execTbValRead c n s
  | .capHeadRead n => Sys2Proof.Machine.execCapHeadRead n s
  | .capCfgWrite n v => Sys2Proof.Machine.execCapCfgWrite n v s
  | .timeIn n rise => Sys2Proof.Machine.execTimeIn n rise s
  | .ppsIn rise => Sys2Proof.Machine.execPpsIn rise s
  | .timeOutPulseEnd n => Sys2Proof.Machine.execTimeOutPulseEnd n s
  | .ppsOutRise => Sys2Proof.Machine.execPpsOutRise s
  | .ppsOutFall => Sys2Proof.Machine.execPpsOutFall s
  | .tsyncInterval => Sys2Proof.Machine.execTsyncInterval s
  | .tsyncHold => Sys2Proof.Machine.execTsyncHold s
  | .portDelayMeasure p d => Sys2Proof.Machine.execPortDelayMeasure p d s
  | .channelFailed q ch cause => Sys2Proof.Machine.execChannelFailed q ch cause s
  | .rebuildFrame q => Sys2Proof.Machine.execRebuildFrame q s
  | .rebuildDone q => Sys2Proof.Machine.execRebuildDone q s
  | .uncorrRewriteDone q => Sys2Proof.Machine.execUncorrRewriteDone q s
  | .dramInitDone => Sys2Proof.Machine.execDramInitDone s
  | .mr4Read q ch step => Sys2Proof.Machine.execMr4Read q ch step s
  | .zqCalibration q ch ok => Sys2Proof.Machine.execZqCalibration q ch ok s
  | .writePathUpdate q ch ok drift => Sys2Proof.Machine.execWritePathUpdate q ch ok drift s
  | .equaliserUpdate p pos => Sys2Proof.Machine.execEqualiserUpdate p pos s
  | .columnRepair a u sub col way => Sys2Proof.Machine.execColumnRepair a u sub col way s
  | .columnRepairDone a u sub col => Sys2Proof.Machine.execColumnRepairDone a u sub col s
  | .sliceMigration n => Sys2Proof.Machine.execSliceMigration n s
  | .sliceMigrated => Sys2Proof.Machine.execSliceMigrated s
  | .moonLost n err => Sys2Proof.Machine.execMoonLost n err s
  | .moonCoreChange ok => Sys2Proof.Machine.execMoonCoreChange ok s
  | .fatal cause => Sys2Proof.Machine.execFatal cause s
  | .mergeWindowClose => Sys2Proof.Machine.execMergeWindowClose s
  | .fltLogIdxWrite v => Sys2Proof.Machine.execFltLogIdxWrite v s
  | .fltLogRingWrite v => Sys2Proof.Machine.execFltLogRingWrite v s
  | .keySet => Sys2Proof.Machine.execKeySet s
  | .keyErase => Sys2Proof.Machine.execKeyErase s
  | .svcKeywWrite v => Sys2Proof.Machine.execSvcKeywWrite v s
  | .svcReqidxWrite v => Sys2Proof.Machine.execSvcReqidxWrite v s
  | .svcRspidxWrite v => Sys2Proof.Machine.execSvcRspidxWrite v s
  | .i3cPrivateWrite data => Sys2Proof.Machine.execI3cPrivateWrite data s
  | .i3cPrivateRead whole => Sys2Proof.Machine.execI3cPrivateRead whole s
  | .entdaa a => Sys2Proof.Machine.execEntdaa a s
  | .rstdaa => Sys2Proof.Machine.execRstdaa s
  | .setdasa a => Sys2Proof.Machine.execSetdasa a s
  | .getpid => Sys2Proof.Machine.execGetpid s
  | .getbcr => Sys2Proof.Machine.execGetbcr s
  | .getdcr => Sys2Proof.Machine.execGetdcr s
  | .getstatus => Sys2Proof.Machine.execGetstatus s
  | .enec => Sys2Proof.Machine.execEnec s
  | .disec => Sys2Proof.Machine.execDisec s
  | .getmwl => Sys2Proof.Machine.execGetmwl s
  | .getmrl => Sys2Proof.Machine.execGetmrl s
  | .identify k => Sys2Proof.Machine.execIdentify k s
  | .portSet k => Sys2Proof.Machine.execPortSet k s
  | .portStatus k => Sys2Proof.Machine.execPortStatus k s
  | .nodeRouteStage k => Sys2Proof.Machine.execNodeRouteStage k s
  | .nodeRouteCommit k => Sys2Proof.Machine.execNodeRouteCommit k s
  | .tideAdmit k => Sys2Proof.Machine.execTideAdmit k s
  | .tideRelease k => Sys2Proof.Machine.execTideRelease k s
  | .reachGrant k => Sys2Proof.Machine.execReachGrant k s
  | .reachRevoke k => Sys2Proof.Machine.execReachRevoke k s
  | .partnerDead k => Sys2Proof.Machine.execPartnerDead k s
  | .calSave k => Sys2Proof.Machine.execCalSave k s
  | .calRestoreFactory k => Sys2Proof.Machine.execCalRestoreFactory k s
  | .fwStage k => Sys2Proof.Machine.execFwStage k s
  | .fwCommit k => Sys2Proof.Machine.execFwCommit k s
  | .bootConfirm k => Sys2Proof.Machine.execBootConfirm k s
  | .repairRetire k => Sys2Proof.Machine.execRepairRetire k s
  | .repairStatus k => Sys2Proof.Machine.execRepairStatus k s
  | .monRead k => Sys2Proof.Machine.execMonRead k s
  | .timeSet k => Sys2Proof.Machine.execTimeSet k s
  | .timeSetTimeout => Sys2Proof.Machine.execTimeSetTimeout s
  | .lcAdvance k => Sys2Proof.Machine.execLcAdvance k s
  | .lcAdvanceReset => Sys2Proof.Machine.execLcAdvanceReset s
  | .bootFloorWrite v => Sys2Proof.Machine.execBootFloorWrite v s
  | .fuseBurnDone => Sys2Proof.Machine.execFuseBurnDone s
  | .pwrGoodRise sa0 => Sys2Proof.Machine.execPwrGoodRise sa0 s
  | .pwrGoodFall => Sys2Proof.Machine.execPwrGoodFall s
  | .coldRstN low => Sys2Proof.Machine.execColdRstN low s
  | .warmRstN low => Sys2Proof.Machine.execWarmRstN low s
  | .warm => Sys2Proof.Machine.execWarm s
  | .bootFlowStart => Sys2Proof.Machine.execBootFlowStart s
  | .tamperN low => Sys2Proof.Machine.execTamperN low s
  | .wipeDone => Sys2Proof.Machine.execWipeDone s
  | .clusterReset n => Sys2Proof.Machine.execClusterReset n s
  | .coreReset c => Sys2Proof.Machine.execCoreReset c s
  | .portReset p => Sys2Proof.Machine.execPortReset p s
  | .rel c v => Sys2Proof.Machine.execRel c v s
  | .ps1 => Sys2Proof.Machine.execPs1 s
  | .cancel => Sys2Proof.Machine.execCancel s
  | .ps1Entry => Sys2Proof.Machine.execPs1Entry s
  | .ps1Exit => Sys2Proof.Machine.execPs1Exit s
  | .clusterOff n => Sys2Proof.Machine.execClusterOff n s
  | .c6Wake c => Sys2Proof.Machine.execC6Wake c s
  | .frequencyDownStep n temp => Sys2Proof.Machine.execFrequencyDownStep n temp s
  | .frequencyUpStep n temp => Sys2Proof.Machine.execFrequencyUpStep n temp s
  | .trstN low => Sys2Proof.Machine.execTrstN low s
  | .extest d => Sys2Proof.Machine.execExtest d s
  | .idcode => Sys2Proof.Machine.execIdcode s
  | .samplePreload d => Sys2Proof.Machine.execSamplePreload d s
  | .bypass b => Sys2Proof.Machine.execBypass b s
  | .unlockChal => Sys2Proof.Machine.execUnlockChal s
  | .unlockResp key sig => Sys2Proof.Machine.execUnlockResp key sig s
  | .dbgMem wr a v => Sys2Proof.Machine.execDbgMem wr a v s
  | .dbgPort wr a v => Sys2Proof.Machine.execDbgPort wr a v s
  | .dbgHalt c => Sys2Proof.Machine.execDbgHalt c s
  | .dbgResume c => Sys2Proof.Machine.execDbgResume c s
  | .dbgStep c => Sys2Proof.Machine.execDbgStep c s
  | .dbgReg c sel wr v => Sys2Proof.Machine.execDbgReg c sel wr v s
  | .noSignal p => Sys2Proof.Machine.execNoSignal p s

end Sys2Proof.Machine
end

