-- ==== Sys2Proof/Machine/Tick.lean ====
section
/-! DEFINITION. What the device does while no command waits: one tick of TB, and every piece of
work that waits goes on as far as it can (DESIGN CHOICE, assumption 2). -/

namespace Sys2Proof.Machine

/-- The instruction that a core runs next of those that wait, and the core without it. -/
def nextWaiting (k : Core) : Option (Instr × Core) :=
  match k.wait, k.later with
  | some i, _ => some (i, { k with wait := none })
  | none, i :: is => some (i, { k with later := is })
  | none, [] => none

/-- The oldest of a core's instructions that wait is the one that `issue` holds the others for. -/
def settleWait (k : Core) : Core :=
  match k.wait, k.later with
  | none, i :: is => { k with wait := some i, later := is }
  | _, _ => k

/-- A core's waiting instructions run in order until one must wait again; at most `n`. -/
def runLater (exec : Instr → State → Host.Outcome State Fault Refusal) (s : State) (c : Nat) :
    Nat → State
  | 0 => modCore s c settleWait
  | n + 1 =>
    let k := coreOf s c
    if !k.active || fenced s c then modCore s c settleWait
    else
      match nextWaiting k with
      | none => s
      | some (i, k') =>
        match exec i (setCore s c k') with
        | .next t => if (coreOf t c).wait.isSome then t else runLater exec t c n
        | _ => s

/-- An interrupt that is eligible at a core's boundary is taken, by a core in C1 too (R96, R124). -/
def coreInt (s : State) (c : Nat) : State :=
  let k := coreOf s c
  if k.active || decide (k.run = .c1) then
    match acceptInt (Fin.ofNat 128 c) s with
    | .ok _ t => t
    | .error _ t => t
  else s

/-- Core `c` performs what it can: its store buffer and the issued lines of its combining buffer, an eclipse
move that is due at its boundary (R341), an interrupt, and then its waiting instructions. -/
def coreWork (exec : Instr → State → Host.Outcome State Fault Refusal) (s : State) (c : Nat) :
    State :=
  let s := if (coreOf s c).sb.isEmpty then s else performOwn s c
  let s := issueFor (Fin.ofNat 128 c) (fun b => b.issued) s
  let s := if (coreOf s c).ring.due then dueRidx s (Fin.ofNat 128 c) else s
  let s := if (coreOf s c).active && (coreOf s c).eclDue && fenced s c then startEclipse s c else s
  let s := coreInt s c
  let s := if (coreOf s c).c6due then goC6 s (Fin.ofNat 128 c) else s
  let k := coreOf s c
  if k.wait.isNone && k.later.isEmpty then s else runLater exec s c (k.later.length + 1)

/-- A comet channel goes on: it executes its current instruction, or tests what it waits for. -/
def chanWork (s : State) (n : Nat) : State :=
  if chanSt s n = csRun then runChan s n none else testWait s n

/-- Every waiting piece of work goes on: stores and instructions, channels, homes, messages in and
out, windows, vports, reclaims, commands, replies, log, resets and the debug TAP. -/
def deviceWork (exec : Instr → State → Host.Outcome State Fault Refusal) (s : State) : State :=
  let s := endDue ((s.cores.map (fun e => e.1)).foldl (coreWork exec) (resendPosted (sendHeld s)))
  let s := ((s.regs.filter (fun e => decide (e.1.1 = .cmtStat))).map (fun e => e.1.2)).foldl chanWork s
  let s := retryRows (pumpAll (retryDeferred (pumpAll s)))
  let s := packAll s s.outbox.length
  let s := drainInbox s s.fab.inbox.length
  let s := flushRcl (vpProgress (winProgress s))
  let s := flushLog (flushRsp (pumpReqs (pumpI3c (pumpLanes (verifyLive (emptyWays s))))))
  tapAccess (pumpResets s)

/-- One tick with no command waiting. In OFF nothing runs and TB does not count (R394, R395, R439). -/
def tick (exec : Instr → State → Host.Outcome State Fault Refusal) (s : State) : State :=
  let s := { s with free := s.free + 1 }
  if s.dev.off then s else deviceWork exec (tbTick s)

end Sys2Proof.Machine
end

