-- ==== Sys2Proof/Safety.lean ====
section
/-! DEFINITION. What counts as a safe outcome: the machine goes on, and its memory keeps the
canonical form; and the terms in which claims speak of an instruction that a core executes. -/

namespace Sys2Proof.Machine

/-- An outcome that is a next state. -/
def goesOn (o : Host.Outcome State Fault Refusal) : Prop := ∃ t, o = .next t

/-- Every memory of a state is in canonical form: DRAM and scratchpad, fuses and boot flash. -/
abbrev State.memOk (s : State) : Prop :=
  s.mem.wf = true ∧ s.keep.fuses.wf = true ∧ s.keep.flash.wf = true

/-- What every step keeps. -/
abbrev State.inv (s : State) : Prop := s.memOk

/-- The state in which the checks of an instruction of core `c` begin: nothing is noted yet of the
data access that it makes (R420). -/
def fresh (s : State) (c : CoreNo) : State :=
  modCore s c (fun k => { k with acc := ⟨false, 0, 0, 0⟩ })

/-- Core `c` executes an instruction of `len` bytes that needs level `lvl` (R37) at once: the core
runs, no older instruction waits, it is not fenced for a move (R341, R342), no interrupt is accepted at the boundary
before it (R116, R124), its level suffices, and the fetch checks (R43, R44) pass and leave `u`. -/
structure Runs (s : State) (c : CoreNo) (len lvl : Nat) (u : State) : Prop where
  active : (coreOf s c).active = true
  free : (coreOf s c).wait = none
  still : fenced s c = false
  quiet : acceptInt c s = .ok false s
  level : lvl ≤ plOf s c
  fetch : fetchCheck c len (fresh s c) = .ok () u

/-- `u` with the pc of core `c` past its instruction of `len` bytes in `s`. -/
def past (s u : State) (c : CoreNo) (len : Nat) : State :=
  setPc u c (getPc s c + BitVec.ofNat 64 len)

/-- `t` is `x` after an instruction of core `c` has retired. What the instruction asked for and no longer
waits for is dropped (`dropSwaps`). Of the registers only the core's counters may differ (R411–R417), and
of the cores only `c`: a sample may have been armed, completed or lost (R419), a control transfer has
trained the predictors (R101), no load is in the check buffer, and a core being stepped has halted
(R460). -/
structure Retired (x t : State) (c : CoreNo) : Prop where
  rest : t = { dropSwaps x c with regs := t.regs, cores := t.cores }
  regs : ∀ (r : Reg) (n : Nat), r ≠ .pmc → r ≠ .pmsel → rd t r n = rd x r n
  cores : ∀ n : Nat, n ≠ c.val → coreOf t n = coreOf x n
  own : coreOf t c = { (coreOf x c).idle.stepped with
    sample := (coreOf t c).sample, ring := (coreOf t c).ring, pred := (coreOf t c).pred }

end Sys2Proof.Machine
end

