-- ==== Sys2Proof/Certificates/Slice0/Obligations.lean ====
section
/-! DEFINITION. The statements about the machine. A relation named after a shape of commands lists,
one constructor per command, what the spec gives that command; the statement then says it of all. -/

open Sys2Proof Sys2Proof.Machine

namespace Sys2Proof.Claims

/-! Terms of the statements. -/

/-- No byte of this node's memory reads differently. -/
def SameBytes (s t : State) : Prop := ∀ a : Nat, curByte t a = curByte s a

/-- The instruction is executed and leaves `w`, but for what retiring changes: the counters, the
sample, the predictors and the check buffer of its core, and what it asked for and no longer waits for
(`Retired`). -/
def Completes (i : Instr) (s : State) (c : CoreNo) (w : State) : Prop :=
  ∃ t, exec i s = .next t ∧ Retired w t c

/-- The instruction takes the exception `e`: its next state is what `takeExc` leaves from `u`. -/
def Traps (i : Instr) (s : State) (c : CoreNo) (u : State) (e : Exc) : Prop :=
  exec i s = .next (takeExc u c i (getPc s c) e)

/-- An instruction of core `c` that reads its code at physical addresses: it runs at once, no interrupt is
pending, its level suffices, and its words lie in readable local memory below the secure part, in lines
of which the core holds a copy. -/
structure Plain (s : State) (c : CoreNo) (len lvl : Nat) : Prop where
  active : (coreOf s c).active = true
  free : (coreOf s c).wait = none
  still : fenced s c = false
  quiet : pendingVecs s c = []
  level : lvl ≤ plOf s c
  size : len = 4 ∨ len = 8
  physical : fbit s F.pstate_TE c = false
  aligned : (getPc s c).toNat % 4 = 0
  place : (getPc s c).toNat + 8 ≤ visTop s
  held : c.val ∈ (lrec s ((getPc s c).toNat / 64)).present
  held' : c.val ∈ (lrec s (((getPc s c).toNat + 4) / 64)).present
  clean : poisonOf s ((getPc s c).toNat / 64) = none
  clean' : poisonOf s (((getPc s c).toNat + 4) / 64) = none

end Sys2Proof.Claims

open Sys2Proof.Claims

/-! The queue, reset and the whole machine. -/

/-- With a command at the front of the queue, a step is that command's `exec` on the state with the
queue's rest (the row's own convention for a block). -/
def Obligations.StepRunsFront : Prop :=
  ∀ (s : State) (i : Instr) (rest : List Instr), s.pending = i :: rest →
    step s = exec i { s with pending := rest }

/-- With an empty queue a step is a tick, which never stops (DESIGN CHOICE, assumption 2). In OFF
nothing but the model's own counter changes (R439). -/
def Obligations.EmptyQueueTicks : Prop :=
  ∀ s : State, s.pending = [] →
    step s = .next (tick exec s) ∧
    (s.dev.off = true → step s = .next { s with free := s.free + 1 })

/-- R12, R428: after a COLD reset every field whose Cold entry is a value holds that value. CORE_ID and
LC_STATE are loaded from fuses, and CMT_CFG.PRIV depends on the channel (R63, R311, R368). No core
runs, and all of memory reads as zero (R305, R310). -/
def Obligations.ResetValues : Prop :=
  (∀ (r : Reg) (i : Nat) (f : Fld) (n : Nat), r ≠ .coreId → r ≠ .lcState → r ≠ .cmtCfg →
    f ∈ r.fields → f.cold = .val n → bitsOf (rd State.reset r i).toNat f.hi f.lo = n) ∧
  (∀ c : CoreNo, (coreOf State.reset c).run = .held ∧ plOf State.reset c = 3) ∧
  (∀ a : Nat, curByte State.reset a = 0)

/-- Every memory is in canonical form at reset. -/
def Obligations.ResetMemOk : Prop := State.reset.memOk

/-- Every step keeps the memories in canonical form. -/
def Obligations.StepKeepsMemOk : Prop :=
  ∀ s t : State, s.memOk → step s = .next t → t.memOk

/-! Running an instruction. -/

/-- R43, R139: with TE = 0 and code in held lines of readable local memory, the fetch checks of an
instruction pass and change nothing, so that the statements about `Runs` apply with `u = fresh s c`. -/
def Obligations.PlainFetchRuns : Prop :=
  ∀ (s : State) (c : CoreNo) (len lvl : Nat), Plain s c len lvl → Runs s c len lvl (fresh s c)

/-! Integer instructions. -/

namespace Sys2Proof.Claims

/-- A command that writes one general register from registers and immediates alone: its core, its
bytes, its destination and the value, read in `s` (R33, R65, R67, R68, R95, R92). -/
inductive WritesG (s : State) : Instr → CoreNo → Nat → GReg → Word → Prop
  | add (c d a b) : WritesG s (.add c d a b) c 4 d (getG s c a + getG s c b)
  | sub (c d a b) : WritesG s (.sub c d a b) c 4 d (getG s c a - getG s c b)
  | and (c d a b) : WritesG s (.and c d a b) c 4 d (getG s c a &&& getG s c b)
  | or (c d a b) : WritesG s (.or c d a b) c 4 d (getG s c a ||| getG s c b)
  | xor (c d a b) : WritesG s (.xor c d a b) c 4 d (getG s c a ^^^ getG s c b)
  | andn (c d a b) : WritesG s (.andn c d a b) c 4 d (getG s c a &&& ~~~(getG s c b))
  | shl (c d a b) : WritesG s (.shl c d a b) c 4 d (getG s c a <<< ((getG s c b).toNat % 64))
  | shr (c d a b) : WritesG s (.shr c d a b) c 4 d (getG s c a >>> ((getG s c b).toNat % 64))
  | sar (c d a b) :
      WritesG s (.sar c d a b) c 4 d ((getG s c a).sshiftRight ((getG s c b).toNat % 64))
  | ror (c d a b) :
      WritesG s (.ror c d a b) c 4 d ((getG s c a).rotateRight ((getG s c b).toNat % 64))
  | mul (c d a b) : WritesG s (.mul c d a b) c 4 d (getG s c a * getG s c b)
  | mulh (c d a b) : WritesG s (.mulh c d a b) c 4 d
      (((getG s c a).signExtend 128 * (getG s c b).signExtend 128).extractLsb' 64 64)
  | mulhu (c d a b) : WritesG s (.mulhu c d a b) c 4 d
      (((getG s c a).setWidth 128 * (getG s c b).setWidth 128).extractLsb' 64 64)
  | min (c d a b) : WritesG s (.min c d a b) c 4 d
      (BitVec.ofInt 64 (Min.min (getG s c a).toInt (getG s c b).toInt))
  | max (c d a b) : WritesG s (.max c d a b) c 4 d
      (BitVec.ofInt 64 (Max.max (getG s c a).toInt (getG s c b).toInt))
  | minu (c d a b) : WritesG s (.minu c d a b) c 4 d
      (BitVec.ofNat 64 (Min.min (getG s c a).toNat (getG s c b).toNat))
  | maxu (c d a b) : WritesG s (.maxu c d a b) c 4 d
      (BitVec.ofNat 64 (Max.max (getG s c a).toNat (getG s c b).toNat))
  | clz (c d a) : WritesG s (.clz c d a) c 4 d (BitVec.ofNat 64 (clzBits (getG s c a) 64))
  | ctz (c d a) : WritesG s (.ctz c d a) c 4 d (BitVec.ofNat 64 (ctzBits (getG s c a) 64))
  | popc (c d a) : WritesG s (.popc c d a) c 4 d (BitVec.ofNat 64 (popBits (getG s c a) 64))
  | sextB (c d a) : WritesG s (.sext c .b d a) c 4 d (((getG s c a).setWidth 8).signExtend 64)
  | sextH (c d a) : WritesG s (.sext c .h d a) c 4 d (((getG s c a).setWidth 16).signExtend 64)
  | sextW (c d a) : WritesG s (.sext c .w d a) c 4 d (((getG s c a).setWidth 32).signExtend 64)
  | bswap (c d a) : WritesG s (.bswap c d a) c 4 d (bswap (getG s c a))
  | addi (c d a im) : WritesG s (.addi c d a im) c (immLen im) d (getG s c a + immS im)
  | andi (c d a im) : WritesG s (.andi c d a im) c (immLen im) d (getG s c a &&& immZ im)
  | ori (c d a im) : WritesG s (.ori c d a im) c (immLen im) d (getG s c a ||| immZ im)
  | xori (c d a im) : WritesG s (.xori c d a im) c (immLen im) d (getG s c a ^^^ immZ im)
  | muli (c d a im) : WritesG s (.muli c d a im) c (immLen im) d (getG s c a * immS im)
  | shiShl (c d a n) : WritesG s (.shi c d a .shl n) c 4 d (getG s c a <<< n.toNat)
  | shiShr (c d a n) : WritesG s (.shi c d a .shr n) c 4 d (getG s c a >>> n.toNat)
  | shiSar (c d a n) : WritesG s (.shi c d a .sar n) c 4 d ((getG s c a).sshiftRight n.toNat)
  | shiRor (c d a n) : WritesG s (.shi c d a .ror n) c 4 d ((getG s c a).rotateRight n.toNat)
  | movi (c d v) : WritesG s (.movi c d (.short v)) c 4 d (v.signExtend 64)
  | moviLow (c d v) : WritesG s (.movi c d (.long 0 v)) c 8 d (v.signExtend 64)
  | moviHigh (c d v) : WritesG s (.movi c d (.long 1 v)) c 8 d (v ++ (getG s c d).setWidth 32)
  | csel (c d a b cr cond) (h : condOk cond = true) : WritesG s (.csel c d a b cr cond) c 4 d
      (if condHolds (getC s c cr) cond = true then getG s c a else getG s c b)
  | extu (c d a b) : WritesG s (.extu c d a b) c 4 d (extU (getG s c a) (getG s c b))
  | exts (c d a b) : WritesG s (.exts c d a b) c 4 d (extS (getG s c a) (getG s c b))
  | ins (c d a b) :
      WritesG s (.ins c d a b) c 4 d (insField (getG s c d) (getG s c a) (getG s c b))
  | rdtb (c d) : WritesG s (.rdtb c d) c 4 d (rd s .tbVal 0)
  | rdpkr (c d) : WritesG s (.rdpkr c d) c 4 d (BitVec.ofNat 64 (fget s F.pkr_KR c))

/-- A command that writes one condition register: its core, its bytes, the register and the flags,
read in `s` (R32, R68). -/
inductive WritesC (s : State) : Instr → CoreNo → Nat → CReg → Nat → Prop
  | cmp (c cd a b) : WritesC s (.cmp c cd a b) c 4 cd (mkFlags (decide (getG s c a = getG s c b))
      (decide ((getG s c a).toInt < (getG s c b).toInt))
      (decide ((getG s c a).toNat < (getG s c b).toNat)) false)
  | cmpW (c cd a b) : WritesC s (.cmpW c cd a b) c 4 cd
      (mkFlags (decide ((getG s c a).setWidth 32 = (getG s c b).setWidth 32))
        (decide (((getG s c a).setWidth 32).toInt < ((getG s c b).setWidth 32).toInt))
        (decide ((getG s c a).toNat % 2 ^ 32 < (getG s c b).toNat % 2 ^ 32)) false)
  | tst (c cd a b) : WritesC s (.tst c cd a b) c 4 cd
      (mkFlags (decide (getG s c a &&& getG s c b = 0))
        ((getG s c a &&& getG s c b).getLsbD 63) false false)
  | cmpi (c cd a im) : WritesC s (.cmpi c cd a im) c (immLen im) cd
      (mkFlags (decide (getG s c a = immS im)) (decide ((getG s c a).toInt < (immS im).toInt))
        (decide ((getG s c a).toNat < (immS im).toNat)) false)
  | cmpui (c cd a im) : WritesC s (.cmpui c cd a im) c (immLen im) cd
      (mkFlags (decide (getG s c a = immZ im)) (decide ((getG s c a).toInt < (immZ im).toInt))
        (decide ((getG s c a).toNat < (immZ im).toNat)) false)

end Sys2Proof.Claims

/-- R65, R67, R68: each command of `WritesG` completes; it writes its value to gD and moves the pc past
itself, and no other register, no flag and no byte of memory changes. Operands are read after the
fetch checks, in `u`. -/
def Obligations.IntegerResults : Prop :=
  ∀ (s u : State) (i : Instr) (c : CoreNo) (len : Nat) (d : GReg) (v : Word),
    WritesG u i c len d v → Runs s c len 0 u →
    ∃ t, exec i s = .next t ∧ Retired (setG (past s u c len) c d v) t c ∧ getG t c d = v ∧
      (∀ r : GReg, r ≠ d → getG t c r = getG u c r) ∧ SameBytes u t

/-- R66: no division faults, and what each writes to gD, by zero and for −2^63 by −1 too. -/
def Obligations.DivisionResults : Prop :=
  ∀ (s u : State) (c : CoreNo) (d a b : GReg) (x y : Word), Runs s c 4 0 u → getG u c a = x →
    getG u c b = y →
    ∃ q qu r ru : Word,
      Completes (.div c d a b) s c (setG (past s u c 4) c d q) ∧
      Completes (.divu c d a b) s c (setG (past s u c 4) c d qu) ∧
      Completes (.rem c d a b) s c (setG (past s u c 4) c d r) ∧
      Completes (.remu c d a b) s c (setG (past s u c 4) c d ru) ∧
      (y = 0 → q = 0 ∧ qu = 0 ∧ r = x ∧ ru = x) ∧
      (y ≠ 0 → qu.toNat = x.toNat / y.toNat ∧ ru.toNat = x.toNat % y.toNat) ∧
      (x = BitVec.intMin 64 → y = -1 → q = BitVec.intMin 64 ∧ r = 0) ∧
      (y ≠ 0 → ¬(x = BitVec.intMin 64 ∧ y = -1) →
        q.toInt = x.toInt.tdiv y.toInt ∧ r.toInt = x.toInt.tmod y.toInt)

/-- R65: what CLZ, CTZ and POPC count. -/
def Sys2Proof.Claims.BitCounts : Prop :=
  ∀ x : Word,
    (clzBits x 64 ≤ 64 ∧ (∀ i < clzBits x 64, x.getLsbD (63 - i) = false) ∧
      (clzBits x 64 < 64 → x.getLsbD (63 - clzBits x 64) = true)) ∧
    (ctzBits x 64 ≤ 64 ∧ (∀ i < ctzBits x 64, x.getLsbD i = false) ∧
      (ctzBits x 64 < 64 → x.getLsbD (ctzBits x 64) = true)) ∧
    popBits x 64 = ((List.range 64).filter (fun i => x.getLsbD i)).length

/-- R68: the bit fields of EXTU, EXTS and INS, cut at bit 63, and the byte order of BSWAP. -/
def Sys2Proof.Claims.BitFields : Prop :=
  ∀ (d x y : Word) (lsb w : Nat), lsb = (y.extractLsb' 0 6).toNat →
    w = Min.min ((y.extractLsb' 8 6).toNat + 1) (64 - lsb) →
    (∀ i < 64, (extU x y).getLsbD i = (decide (i < w) && x.getLsbD (lsb + i))) ∧
    (∀ i < 64, (extS x y).getLsbD i = x.getLsbD (lsb + Min.min i (w - 1))) ∧
    (∀ i < 64, (insField d x y).getLsbD i =
      if lsb ≤ i ∧ i < lsb + w then x.getLsbD (i - lsb) else d.getLsbD i) ∧
    (∀ k < 8, (bswap x).extractLsb' (8 * k) 8 = x.extractLsb' (8 * (7 - k)) 8)

/-- R32, R68: each compare completes; it writes Z, N, B and U = 0 into its condition register, leaves
the other seven, and changes no general register and no byte of memory. -/
def Obligations.CompareResults : Prop :=
  ∀ (s u : State) (i : Instr) (c : CoreNo) (len : Nat) (cd : CReg) (v : Nat),
    WritesC u i c len cd v → Runs s c len 0 u →
    ∃ t, exec i s = .next t ∧ Retired (setC (past s u c len) c cd v) t c ∧ getC t c cd = v ∧
      (∀ q : CReg, q ≠ cd → getC t c q = getC u c q) ∧ SameBytes u t

/-- R33: the condition codes, and an unordered comparison under every ordering code. A branch or a
select with a reserved code raises ILLEGAL_INSTR. -/
def Obligations.ConditionCodes : Prop :=
  (∀ z n b u : Bool, ∀ f : Nat, f = mkFlags z n b u →
    condHolds f 0 = z ∧ condHolds f 1 = !z ∧
    (u = false → condHolds f 2 = n ∧ condHolds f 3 = !n ∧ condHolds f 4 = (n || z) ∧
      condHolds f 5 = (!n && !z) ∧ condHolds f 6 = b ∧ condHolds f 7 = !b ∧
      condHolds f 8 = (b || z) ∧ condHolds f 9 = (!b && !z)) ∧
    (u = true → ∀ k : BitVec 4, 2 ≤ k.toNat → k.toNat ≤ 9 → condHolds f k = false) ∧
    condHolds f 10 = u ∧ condHolds f 11 = !u ∧ condHolds f 15 = true) ∧
  (∀ (s u : State) (c : CoreNo) (d a b : GReg) (cr : CReg) (k : BitVec 4) (disp : BDisp),
    12 ≤ k.toNat → k.toNat ≤ 14 →
    (Runs s c 4 0 u → Traps (.csel c d a b cr k) s c u { code := 0x01 }) ∧
    (Runs s c (bLen disp) 0 u → Traps (.bc c cr k disp) s c u { code := 0x01 }))

/-- R43, R69: BC, JMP and JMPR to a target that is a multiple of 4 complete: the pc is the target, or
for a BC whose condition does not hold the next instruction; nothing else changes. -/
def Sys2Proof.Claims.Branches : Prop :=
  (∀ (s u : State) (c : CoreNo) (cr : CReg) (k : BitVec 4) (disp : BDisp), condOk k = true →
    Runs s c (bLen disp) 0 u →
    Completes (.bc c cr k disp) s c
      (setPc u c (if condHolds (getC u c cr) k = true
        then getPc s c + bOff disp
        else getPc s c + BitVec.ofNat 64 (bLen disp)))) ∧
  (∀ (s u : State) (c : CoreNo) (disp : JDisp), Runs s c (jLen disp) 0 u →
    Completes (.jmp c disp) s c (setPc u c (getPc s c + jOff disp))) ∧
  (∀ (s u : State) (c : CoreNo) (a : GReg), Runs s c 4 0 u → (getG u c a).toNat % 4 = 0 →
    Completes (.jmpr c a) s c (setPc u c (getG u c a)))

/-- R43: a JMPR to an address that is not a multiple of 4 retires and takes ALIGN at the target, with
EPC and EADDR holding it (DEDUCED, assumption 10: at once), unless the core was being stepped; an
interrupt that is accepted at the target comes first (R124). -/
def Sys2Proof.Claims.MisalignedTarget : Prop :=
  ∀ (s u : State) (c : CoreNo) (a : GReg), Runs s c 4 0 u → (getG u c a).toNat % 4 ≠ 0 →
    (coreOf u c).run = .run →
    ∃ w, Retired (setPc u c (getG u c a)) w c ∧
      (∀ x, acceptInt c w = .ok true x → exec (.jmpr c a) s = .next x) ∧
      (∀ x, acceptInt c w = .ok false x →
        exec (.jmpr c a) s = .next (takeExc x c (.jmpr c a) (getG u c a)
          { code := 0x03, addr := getG u c a }))

/-! Memory instructions. -/

namespace Sys2Proof.Claims

/-- A command that loads: its core, its bytes, its effective address, the bytes loaded, whether the
address must be a multiple of their number, and what the bytes do to the state (R49, R70, R71, R74). -/
inductive Loads (s : State) :
    Instr → CoreNo → Nat → Word → Nat → Bool → (List Byte → State → State) → Prop
  | ldB (c d m) : Loads s (.ldB c d m) c (mLen m) (effAddr s c (getPc s c) m) 1 false
      (fun bs t => setG t c d (BitVec.ofNat 64 (leNat bs)))
  | ldH (c d m) : Loads s (.ldH c d m) c (mLen m) (effAddr s c (getPc s c) m) 2 false
      (fun bs t => setG t c d (BitVec.ofNat 64 (leNat bs)))
  | ldW (c d m) : Loads s (.ldW c d m) c (mLen m) (effAddr s c (getPc s c) m) 4 false
      (fun bs t => setG t c d (BitVec.ofNat 64 (leNat bs)))
  | ldD (c d m) : Loads s (.ldD c d m) c (mLen m) (effAddr s c (getPc s c) m) 8 false
      (fun bs t => setG t c d (BitVec.ofNat 64 (leNat bs)))
  | ldBs (c d m) : Loads s (.ldBs c d m) c (mLen m) (effAddr s c (getPc s c) m) 1 false
      (fun bs t => setG t c d ((BitVec.ofNat 8 (leNat bs)).signExtend 64))
  | ldHs (c d m) : Loads s (.ldHs c d m) c (mLen m) (effAddr s c (getPc s c) m) 2 false
      (fun bs t => setG t c d ((BitVec.ofNat 16 (leNat bs)).signExtend 64))
  | ldWs (c d m) : Loads s (.ldWs c d m) c (mLen m) (effAddr s c (getPc s c) m) 4 false
      (fun bs t => setG t c d ((BitVec.ofNat 32 (leNat bs)).signExtend 64))
  | ld16 (c d m) (h : d.val % 2 = 0) :
      Loads s (.ld16 c d m) c (mLen m) (effAddr s c (getPc s c) m) 16 false
      (fun bs t => setG (setG t c d (BitVec.ofNat 64 (leNat (bs.take 8)))) c (d + 1)
        (BitVec.ofNat 64 (leNat (bs.drop 8))))
  | lda (c d m) : Loads s (.lda c d m) c (mLen m) (effAddr s c (getPc s c) m) 8 true
      (fun bs t => setG t c d (BitVec.ofNat 64 (leNat bs)))
  | addM (c d a m) : Loads s (.addM c d a m) c (loLen m) (loAddr s c m) 8 false
      (fun bs t => setG t c d (getG s c a + BitVec.ofNat 64 (leNat bs)))
  | subM (c d a m) : Loads s (.subM c d a m) c (loLen m) (loAddr s c m) 8 false
      (fun bs t => setG t c d (getG s c a - BitVec.ofNat 64 (leNat bs)))
  | andM (c d a m) : Loads s (.andM c d a m) c (loLen m) (loAddr s c m) 8 false
      (fun bs t => setG t c d (getG s c a &&& BitVec.ofNat 64 (leNat bs)))
  | orM (c d a m) : Loads s (.orM c d a m) c (loLen m) (loAddr s c m) 8 false
      (fun bs t => setG t c d (getG s c a ||| BitVec.ofNat 64 (leNat bs)))
  | xorM (c d a m) : Loads s (.xorM c d a m) c (loLen m) (loAddr s c m) 8 false
      (fun bs t => setG t c d (getG s c a ^^^ BitVec.ofNat 64 (leNat bs)))
  | mulM (c d a m) : Loads s (.mulM c d a m) c (loLen m) (loAddr s c m) 8 false
      (fun bs t => setG t c d (getG s c a * BitVec.ofNat 64 (leNat bs)))
  | cmpM (c d a m) (h : d.val < 8) : Loads s (.cmpM c d a m) c (loLen m) (loAddr s c m) 8 false
      (fun bs t => setC t c (Fin.ofNat 8 d.val)
        (mkFlags (decide (getG s c a = BitVec.ofNat 64 (leNat bs)))
          (decide ((getG s c a).toInt < (BitVec.ofNat 64 (leNat bs)).toInt))
          (decide ((getG s c a).toNat < (BitVec.ofNat 64 (leNat bs)).toNat)) false))
  | vldl (c z d a) : Loads s (.vldl c z d a) c 4 (getG s c a) (z.bits / 8) false
      (fun bs t => setV t c d (BitVec.ofNat 256 (leNat bs)))
  | vld (c d m) : Loads s (.vld c d m) c (mLen m) (effAddr s c (getPc s c) m) 32 false
      (fun bs t => setV t c d (BitVec.ofNat 256 (leNat bs)))

/-- A command that stores: its core, its bytes, its effective address, the bytes it stores, whether
the address must be a multiple of their number, and whether it goes through the combining buffer or
with release ordering (R51, R70, R72, R74). -/
inductive Stores (s : State) :
    Instr → CoreNo → Nat → Word → List Byte → Bool → Bool → Bool → Prop
  | stB (c d m) : Stores s (.stB c d m) c (mLen m) (effAddr s c (getPc s c) m)
      (natLe (getG s c d).toNat 1) false false false
  | stH (c d m) : Stores s (.stH c d m) c (mLen m) (effAddr s c (getPc s c) m)
      (natLe (getG s c d).toNat 2) false false false
  | stW (c d m) : Stores s (.stW c d m) c (mLen m) (effAddr s c (getPc s c) m)
      (natLe (getG s c d).toNat 4) false false false
  | stD (c d m) : Stores s (.stD c d m) c (mLen m) (effAddr s c (getPc s c) m)
      (natLe (getG s c d).toNat 8) false false false
  | st16 (c d m) (h : d.val % 2 = 0) : Stores s (.st16 c d m) c (mLen m)
      (effAddr s c (getPc s c) m)
      (natLe (getG s c d).toNat 8 ++ natLe (getG s c (d + 1)).toNat 8) true false false
  | stnt (c d m) : Stores s (.stnt c d m) c (mLen m) (effAddr s c (getPc s c) m)
      (natLe (getG s c d).toNat 8) true true false
  | stl (c d m) : Stores s (.stl c d m) c (mLen m) (effAddr s c (getPc s c) m)
      (natLe (getG s c d).toNat 8) true false true
  | vstl (c z d a) : Stores s (.vstl c z d a) c 4 (getG s c a)
      (natLe (getV s c d).toNat (z.bits / 8)) false false false
  | vst (c d a) : Stores s (.vst c d a) c 4 (getG s c a)
      (natLe (getV s c d).toNat 32) false false false

/-- The `n` bytes at `va` lie in one line of visible local DRAM, addressed physically by core `c`. -/
structure PhysLine (s : State) (c : CoreNo) (va : Word) (n : Nat) : Prop where
  physical : fbit s F.pstate_TE c = false
  some_ : 0 < n
  inLine : va.toNat % 64 + n ≤ 64
  visible : va.toNat + n ≤ visTop s

end Sys2Proof.Claims

/-- R70, R71, R74: each load completes when its data can be read. The data read, in the state after
the fetch checks with the pc advanced, gives its register the value of `Loads`; the pc is the next
instruction's. An address that breaks a required alignment takes ALIGN with no other effect (R51). -/
def Sys2Proof.Claims.LoadResults : Prop :=
  ∀ (s u : State) (i : Instr) (c : CoreNo) (len : Nat) (va : Word) (n : Nat) (al : Bool)
    (eff : List Byte → State → State), Loads s i c len va n al eff → Runs s c len 0 u →
    (∀ (bs : List Byte) (w : State), (al = true → va.toNat % n = 0) →
      loadData c va n (past s u c len) = .ok bs w →
      Completes i s c (eff bs w) ∧ getPc w c = getPc s c + BitVec.ofNat 64 len) ∧
    (al = true → va.toNat % n ≠ 0 →
      Traps i s c (past s u c len) { code := 0x03, addr := va })

/-- R165, R166, R173, R190: a load that a core makes physically, within one line that the core
holds, that no store it has buffered or sent overlaps and that is not poisoned, reads the bytes of
memory and changes nothing but what its sample record notes. -/
def Sys2Proof.Claims.PlainLoad : Prop :=
  ∀ (s : State) (c : CoreNo) (va : Word) (n : Nat), PhysLine s c va n →
    c.val ∈ (lrec s (va.toNat / 64)).present → poisonOf s (va.toNat / 64) = none →
    (∀ e ∈ (coreOf s c).sb, ∀ p ∈ e.parts,
      p.pa + p.bytes.length ≤ va.toNat ∨ va.toNat + n ≤ p.pa) →
    (∀ b ∈ (coreOf s c).cb, b.line ≠ va.toNat / 64) → postedCoh s c (fun _ => true) = false →
    ∃ bs w, loadData c va n s = .ok bs w ∧ bs.length = n ∧
      (∀ i < n, bs.getD i 0 = curByte s (va.toNat + i)) ∧
      w = modCore s c (fun k => { k with acc := (coreOf w c).acc })

/-- R70, R72, R74: each store completes when it can be placed in its buffer, and changes nothing that
the buffering does not. An address that breaks a required alignment takes ALIGN with no other effect
(R51). -/
def Sys2Proof.Claims.StoreResults : Prop :=
  ∀ (s u : State) (i : Instr) (c : CoreNo) (len : Nat) (va : Word) (bs : List Byte)
    (al nt rel : Bool), Stores s i c len va bs al nt rel → Runs s c len 0 u →
    (∀ w : State, (al = true → va.toNat % bs.length = 0) →
      storeData c va bs nt rel (past s u c len) = .ok () w →
      Completes i s c w ∧ getPc w c = getPc s c + BitVec.ofNat 64 len) ∧
    (al = true → va.toNat % bs.length ≠ 0 →
      Traps i s c (past s u c len) { code := 0x03, addr := va, wr := true })

/-- R97, R109, R173, R175: a physical store within one line of local DRAM that overlaps no line of the
combining buffer enters a store buffer of fewer than 96 entries behind the older stores and changes no
memory; a load of the same bytes then returns the stored bytes, without their being performed. -/
def Sys2Proof.Claims.PlainStore : Prop :=
  ∀ (s : State) (c : CoreNo) (va : Word) (bs : List Byte) (rel : Bool),
    PhysLine s c va bs.length → (∀ b ∈ (coreOf s c).cb, b.line ≠ va.toNat / 64) →
    (coreOf s c).sb.length < 96 →
    ∃ w, storeData c va bs false rel s = .ok () w ∧ SameBytes s w ∧
      w = modCore s c (fun k => { k with
        acc := (coreOf w c).acc, fence := false,
        sb := k.sb ++ [{ pa := va.toNat, bytes := bs, mt := .cached, va := va, tag := none,
                         fence := k.fence, rel := rel }] }) ∧
      (∃ x, loadData c va bs.length w = .ok bs x ∧ SameBytes s x)

/-- R84, R97, R167, R170, R190: the oldest entry of a store buffer, on one line of local DRAM that its
core owns, is performed: exactly its bytes change, and they read as it holds them; a store that waits for
its place takes it. An STL, and a store behind
an SSYNC, wait while one that was sent through a coherent reach is not performed. -/
def Sys2Proof.Claims.StorePerformed : Prop :=
  ∀ (s : State) (c : CoreNo) (e : SbEntry) (rest : List SbEntry), (coreOf s c).sb = e :: rest →
    e.mt = .cached → e.rest = none → 0 < e.bytes.length → e.pa % 64 + e.bytes.length ≤ 64 →
    e.pa + e.bytes.length ≤ visTop s → (lrec s (e.pa / 64)).owner = some c.val →
    ((e.rel = true ∨ e.fence = true) → postedCoh s c (fun _ => true) = false) →
    ∃ w, performHead c s = .ok () w ∧ (coreOf w c).sb = rest ++ (coreOf s c).late.take 1 ∧
      (∀ i < e.bytes.length, curByte w (e.pa + i) = e.bytes.getD i 0) ∧
      (∀ a : Nat, a < e.pa ∨ e.pa + e.bytes.length ≤ a → curByte w a = curByte s a) ∧
      (∀ r n, rd w r n = rd s r n) ∧ (∀ n, (coreOf w n).g = (coreOf s n).g)

/-- R72: an STNT that no buffered store overlaps, within a line that the empty combining buffer then
holds alone, puts its 8 bytes there; no store is performed and no memory changes. -/
def Sys2Proof.Claims.PlainCombine : Prop :=
  ∀ (s : State) (c : CoreNo) (va : Word) (bs : List Byte), bs.length = 8 → PhysLine s c va 8 →
    (coreOf s c).cb = [] → (coreOf s c).sb = [] →
    ∃ w b, storeData c va bs true false s = .ok () w ∧ SameBytes s w ∧
      w = modCore s c (fun k => { k with acc := (coreOf w c).acc, cb := [b] }) ∧
      b.line = va.toNat / 64 ∧
      (∀ i < 64, b.mask.getLsbD i = decide (va.toNat % 64 ≤ i ∧ i < va.toNat % 64 + 8)) ∧
      (∀ i < 8, b.data.extractLsb' (8 * (va.toNat % 64 + i)) 8 = bs.getD i 0)

/-- R53, R54, R69: CALL and CALLR. When the push can be translated and placed they complete: sp is
lowered by 8, the return address is stored there and pushed on the return stack, and the pc is the
target. At DEPTH 32 with OVF = 1 they take HRS_OVERFLOW and only the free value that EADDR takes is
used up (assumption 3). -/
def Sys2Proof.Claims.Calls : Prop :=
  ∀ (s u : State) (c : CoreNo) (i : Instr) (len : Nat) (ra target sp : Word),
    ((∃ disp, i = .call c disp ∧ len = jLen disp ∧ target = getPc s c + jOff disp) ∨
     (∃ a, i = .callr c a ∧ len = 4 ∧ target = getG s c a)) →
    Runs s c len 0 u → ra = getPc s c + BitVec.ofNat 64 len → sp = getG u c spReg - 8 →
    ∀ (ps : List Piece) (w : State),
      transl c sp.toNat 8 (plOf u c) (fbit u F.pstate_TE c) .store (past s u c len) = .ok ps w →
      (32 ≤ hrsDepth w c → fbit w F.hrsctl_OVF c = true →
        ∃ v, Traps i s c { w with free := w.free + 1 } { code := 0x0C, addr := v }) ∧
      (¬(32 ≤ hrsDepth w c ∧ fbit w F.hrsctl_OVF c = true) → target.toNat % 4 = 0 →
        ∀ x, bufferPieces c (plOf u c) false false (natLe ra.toNat 8) ps
            (noteAcc w c sp ps true) = .ok () x →
          Completes i s c (setPc (hrsPush (setG x c spReg sp) c ra) c target))

/-- R53, R54: RET. The value loaded from [sp] is compared with the newest entry: on a match it is
popped, sp rises by 8 and the pc is the value; on a mismatch HRS_MISMATCH is taken with nothing
changed. With SKIP = 1 the RET is unchecked and pops nothing, and SKIP is cleared; at DEPTH 0 it is
unchecked with UNF = 0 and takes HRS_UNDERFLOW with UNF = 1. -/
def Sys2Proof.Claims.Returns : Prop :=
  ∀ (s u w : State) (c : CoreNo) (bs : List Byte) (v : Word), Runs s c 4 0 u →
    loadData c (getG s c spReg) 8 (past s u c 4) = .ok bs w → v = BitVec.ofNat 64 (leNat bs) →
    (v.toNat % 4 = 0 →
      (fbit w F.hrsctl_SKIP c = true → Completes (.ret c) s c
        (setPc (setG (fput w F.hrsctl_SKIP c 0) c spReg (getG s c spReg + 8)) c v)) ∧
      (fbit w F.hrsctl_SKIP c = false → hrsDepth w c = 0 → fbit w F.hrsctl_UNF c = false →
        Completes (.ret c) s c (setPc (setG w c spReg (getG s c spReg + 8)) c v)) ∧
      (fbit w F.hrsctl_SKIP c = false → hrsDepth w c ≠ 0 → hrsAt w c (hrsDepth w c - 1) = v →
        Completes (.ret c) s c (setPc (setG (fput w F.hrsctl_DEPTH c (hrsDepth w c - 1)) c spReg
          (getG s c spReg + 8)) c v))) ∧
    (fbit w F.hrsctl_SKIP c = false → hrsDepth w c = 0 → fbit w F.hrsctl_UNF c = true →
      ∃ x, Traps (.ret c) s c { w with free := w.free + 1 } { code := 0x0D, addr := x }) ∧
    (fbit w F.hrsctl_SKIP c = false → hrsDepth w c ≠ 0 → hrsAt w c (hrsDepth w c - 1) ≠ v →
      Traps (.ret c) s c w { code := 0x0B, addr := v })

/-- R54: what a push does to the return stack: below DEPTH 32 the new entry is the newest; at 32
entry 0 is lost, the others move down, and DEPTH stays 32. -/
def Sys2Proof.Claims.ReturnStackPush : Prop :=
  ∀ (s : State) (c : CoreNo) (v : Word), hrsDepth s c ≤ 32 →
    (hrsDepth s c < 32 → hrsDepth (hrsPush s c v) c = hrsDepth s c + 1 ∧
      hrsAt (hrsPush s c v) c (hrsDepth s c) = v ∧
      ∀ i : Nat, i < hrsDepth s c → hrsAt (hrsPush s c v) c i = hrsAt s c i) ∧
    (hrsDepth s c = 32 → hrsDepth (hrsPush s c v) c = 32 ∧ hrsAt (hrsPush s c v) c 31 = v ∧
      ∀ i : Nat, i < 31 → hrsAt (hrsPush s c v) c i = hrsAt s c (i + 1))

/-! Vector and floating-point instructions. -/

namespace Sys2Proof.Claims

/-- Lane `j` of width `w` of a vector. -/
def lane (v : Vec) (w j : Nat) : BitVec w := v.extractLsb' (w * j) w

/-- A vector integer command: its core, lane size, destination and operands, and what it does to each
pair of lanes (R74). The bitwise ones have the lane-size field 0b00. -/
inductive VecRow : Instr → CoreNo → Lane → VReg → VReg → VReg →
    ((w : Nat) → BitVec w → BitVec w → BitVec w) → Prop
  | vadd (c z d a b) : VecRow (.vadd c z d a b) c z d a b (fun _ x y => x + y)
  | vsub (c z d a b) : VecRow (.vsub c z d a b) c z d a b (fun _ x y => x - y)
  | vmul (c z d a b) : VecRow (.vmul c z d a b) c z d a b (fun _ x y => x * y)
  | vand (c d a b) : VecRow (.vand c .b d a b) c .b d a b (fun _ x y => x &&& y)
  | vor (c d a b) : VecRow (.vor c .b d a b) c .b d a b (fun _ x y => x ||| y)
  | vxor (c d a b) : VecRow (.vxor c .b d a b) c .b d a b (fun _ x y => x ^^^ y)
  | vshl (c z d a b) : VecRow (.vshl c z d a b) c z d a b (fun _ x y => x <<< y.toNat)
  | vshr (c z d a b) : VecRow (.vshr c z d a b) c z d a b (fun _ x y => x >>> y.toNat)
  | vsar (c z d a b) : VecRow (.vsar c z d a b) c z d a b (fun _ x y => x.sshiftRight y.toNat)
  | vmin (c z d a b) : VecRow (.vmin c z d a b) c z d a b
      (fun _ x y => if x.toInt < y.toInt then x else y)
  | vmax (c z d a b) : VecRow (.vmax c z d a b) c z d a b
      (fun _ x y => if x.toInt < y.toInt then y else x)
  | vminu (c z d a b) : VecRow (.vminu c z d a b) c z d a b
      (fun _ x y => if x.toNat < y.toNat then x else y)
  | vmaxu (c z d a b) : VecRow (.vmaxu c z d a b) c z d a b
      (fun _ x y => if x.toNat < y.toNat then y else x)

/-- A floating-point operation on the lanes `x` and `y` of width `w`: its result and the flags that
it and its flushed operands raise. -/
def fpPair (s : State) (c : CoreNo) (w : Nat) (f : FFmt → FCtl → Nat → Nat → Nat × Nat)
    (x y : BitVec w) : Nat × Nat :=
  let r := f (fmtOf w) (fpCtl s c) x.toNat y.toNat
  (r.1, r.2 ||| flushIn (fmtOf w) (fpCtl s c) x.toNat ||| flushIn (fmtOf w) (fpCtl s c) y.toNat)

/-- A floating-point operation on one lane. -/
def fpOne (s : State) (c : CoreNo) (w : Nat) (f : FFmt → FCtl → Nat → Nat × Nat)
    (x : BitVec w) : Nat × Nat :=
  let r := f (fmtOf w) (fpCtl s c) x.toNat
  (r.1, r.2 ||| flushIn (fmtOf w) (fpCtl s c) x.toNat)

/-- A floating-point command that writes lanes: its core, whether it is scalar, its lane size, its
destination, and lane `j`'s result and flags, read in `s` (R34, R35, R74). -/
inductive FpRow (s : State) :
    Instr → CoreNo → Bool → Lane → VReg → (Nat → Nat × Nat) → Prop
  | fadd (c sc z d a b) (h : z ≠ .b) : FpRow s (.fadd c sc z d a b) c sc z d (fun j =>
      fpPair s c z.bits faddF (lane (getV s c a) z.bits j) (lane (getV s c b) z.bits j))
  | fsub (c sc z d a b) (h : z ≠ .b) : FpRow s (.fsub c sc z d a b) c sc z d (fun j =>
      fpPair s c z.bits fsubF (lane (getV s c a) z.bits j) (lane (getV s c b) z.bits j))
  | fmul (c sc z d a b) (h : z ≠ .b) : FpRow s (.fmul c sc z d a b) c sc z d (fun j =>
      fpPair s c z.bits fmulF (lane (getV s c a) z.bits j) (lane (getV s c b) z.bits j))
  | fdiv (c sc z d a b) (h : z ≠ .b) : FpRow s (.fdiv c sc z d a b) c sc z d (fun j =>
      fpPair s c z.bits fdivF (lane (getV s c a) z.bits j) (lane (getV s c b) z.bits j))
  | fmin (c sc z d a b) (h : z ≠ .b) : FpRow s (.fmin c sc z d a b) c sc z d (fun j =>
      fpPair s c z.bits (fun f k x y => fminmaxF f k false x y)
        (lane (getV s c a) z.bits j) (lane (getV s c b) z.bits j))
  | fmax (c sc z d a b) (h : z ≠ .b) : FpRow s (.fmax c sc z d a b) c sc z d (fun j =>
      fpPair s c z.bits (fun f k x y => fminmaxF f k true x y)
        (lane (getV s c a) z.bits j) (lane (getV s c b) z.bits j))
  | fsqrt (c sc z d a) (h : z ≠ .b) : FpRow s (.fsqrt c sc z d a) c sc z d (fun j =>
      fpOne s c z.bits fsqrtF (lane (getV s c a) z.bits j))
  | fma (c sc z d a b) (h : z ≠ .b) : FpRow s (.fma c sc z d a b) c sc z d (fun j =>
      let x := (lane (getV s c a) z.bits j).toNat
      let y := (lane (getV s c b) z.bits j).toNat
      let u := (lane (getV s c d) z.bits j).toNat
      let r := fmaF (fmtOf z.bits) (fpCtl s c) x y u
      (r.1, r.2 ||| flushIn (fmtOf z.bits) (fpCtl s c) x |||
        flushIn (fmtOf z.bits) (fpCtl s c) y ||| flushIn (fmtOf z.bits) (fpCtl s c) u))
  | cvtFpSigned (c z d a) (h : z ≠ .b) : FpRow s (.cvtFpSigned c z d a) c false z d (fun j =>
      fpOne s c z.bits (fun f k x => toIntF f k z.bits (-(2 : Int) ^ (z.bits - 1))
        ((2 : Int) ^ (z.bits - 1) - 1) x) (lane (getV s c a) z.bits j))
  | cvtFpUnsigned (c z d a) (h : z ≠ .b) : FpRow s (.cvtFpUnsigned c z d a) c false z d (fun j =>
      fpOne s c z.bits (fun f k x => toIntF f k z.bits 0 ((2 : Int) ^ z.bits - 1) x)
        (lane (getV s c a) z.bits j))
  | cvtSignedFp (c z d a) (h : z ≠ .b) : FpRow s (.cvtSignedFp c z d a) c false z d (fun j =>
      fromIntF (fmtOf z.bits) (fpCtl s c) z.bits (lane (getV s c a) z.bits j).toNat)

/-- The flags of `n` lanes together. -/
def lanesFlags (f : Nat → Nat × Nat) : Nat → Nat
  | 0 => 0
  | n + 1 => lanesFlags f n ||| (f n).2

end Sys2Proof.Claims

/-- R74: each vector integer command completes; every lane of vD is its operation on the matching
lanes of vA and vB, and nothing else changes. -/
def Sys2Proof.Claims.VectorResults : Prop :=
  ∀ (s u : State) (i : Instr) (c : CoreNo) (z : Lane) (d a b : VReg)
    (f : (w : Nat) → BitVec w → BitVec w → BitVec w), VecRow i c z d a b f → Runs s c 4 0 u →
    ∃ t v, exec i s = .next t ∧ Retired (setV (past s u c 4) c d v) t c ∧ getV t c d = v ∧
      (∀ j < 256 / z.bits, lane v z.bits j =
        f z.bits (lane (getV u c a) z.bits j) (lane (getV u c b) z.bits j)) ∧
      (∀ r : VReg, r ≠ d → getV t c r = getV u c r) ∧ SameBytes u t

/-- R34, R35: a floating-point command with no enabled flag among those it raises completes: it
writes its lanes (the scalar form lane 0, with zero above) and ORs its flags into FLG. With an enabled
one it writes no result and takes FP_EXC, and FLG holds its flags joined to the old. -/
def Obligations.FloatResults : Prop :=
  ∀ (s u : State) (i : Instr) (c : CoreNo) (sc : Bool) (z : Lane) (d : VReg)
    (f : Nat → Nat × Nat) (n fl : Nat), FpRow u i c sc z d f → Runs s c 4 0 u →
    n = (if sc = true then 1 else 256 / z.bits) → fl = lanesFlags f n →
    (fl &&& fget u F.fpcs_TEN c = 0 → ∃ v,
      Completes i s c
        (setV (fput (past s u c 4) F.fpcs_FLG c (fget u F.fpcs_FLG c ||| fl)) c d v) ∧
      (∀ j < n, lane v z.bits j = BitVec.ofNat z.bits (f j).1) ∧
      (∀ b, n * z.bits ≤ b → v.getLsbD b = false)) ∧
    (fl &&& fget u F.fpcs_TEN c ≠ 0 →
      Traps i s c (fput (past s u c 4) F.fpcs_FLG c (fget u F.fpcs_FLG c ||| fl)) { code := 0x18 })

/-- R32, R35, R74: FCMP completes with the flags of the compare in its condition register, or takes
FP_EXC and leaves it; conversions between floating-point sizes write the lanes that both sizes have,
and the other lanes of a wider source's result are free values (assumption 12). -/
def Sys2Proof.Claims.FloatCompareConvert : Prop :=
  (∀ (s u : State) (c : CoreNo) (z : Lane) (d a b : VReg) (r : Nat × Nat), z ≠ .b → d.val < 8 →
    Runs s c 4 0 u →
    r = fpPair u c z.bits fcmpF (lane (getV u c a) z.bits 0) (lane (getV u c b) z.bits 0) →
    (r.2 &&& fget u F.fpcs_TEN c = 0 → Completes (.fcmp c z d a b) s c
      (setC (fput (past s u c 4) F.fpcs_FLG c (fget u F.fpcs_FLG c ||| r.2)) c
        (Fin.ofNat 8 d.val) r.1)) ∧
    (r.2 &&& fget u F.fpcs_TEN c ≠ 0 → Traps (.fcmp c z d a b) s c
      (fput (past s u c 4) F.fpcs_FLG c (fget u F.fpcs_FLG c ||| r.2)) { code := 0x18 })) ∧
  (∀ (s u : State) (c : CoreNo) (z src : Lane) (d a : VReg) (n fl : Nat) (f : Nat → Nat × Nat),
    z ≠ .b → src ≠ .b → Runs s c 4 0 u → n = Min.min (256 / z.bits) (256 / src.bits) →
    f = (fun j => fpOne u c src.bits (fun g k x => cvtF g (fmtOf z.bits) k x)
      (lane (getV u c a) src.bits j)) → fl = lanesFlags f n →
    (fl &&& fget u F.fpcs_TEN c = 0 → ∃ t v k, exec (.cvtFpFp c z src d a) s = .next t ∧
      Retired (setV { fput (past s u c 4) F.fpcs_FLG c (fget u F.fpcs_FLG c ||| fl) with
        free := k } c d v) t c ∧
      (∀ j < n, lane v z.bits j = BitVec.ofNat z.bits (f j).1)) ∧
    (fl &&& fget u F.fpcs_TEN c ≠ 0 → Traps (.cvtFpFp c z src d a) s c
      (fput (past s u c 4) F.fpcs_FLG c (fget u F.fpcs_FLG c ||| fl)) { code := 0x18 }))

/-- R32, R34, R74 on values: a compare with a NaN is unordered; an integer conversion of a NaN gives 0
and raises invalid, and one of an infinity saturates; adding +0 to a finite number that is not zero,
or multiplying it by 1, gives that number and raises no flag. -/
def Sys2Proof.Claims.FloatValues : Prop :=
  ∀ (z : Lane) (k : FCtl) (f : FFmt) (x y : Nat), z ≠ .b → f = fmtOf z.bits → x < 2 ^ z.bits →
    (((unpackF f k x).isNan = true ∨ (unpackF f k y).isNan = true) → (fcmpF f k x y).1 = 8) ∧
    (∀ w lo hi, (unpackF f k x).isNan = true → toIntF f k w lo hi x = (0, flagInvalid)) ∧
    (∀ w lo hi, unpackF f k x = .inf false →
      toIntF f k w lo hi x = ((BitVec.ofInt w hi).toNat, flagInvalid)) ∧
    (∀ w lo hi, unpackF f k x = .inf true →
      toIntF f k w lo hi x = ((BitVec.ofInt w lo).toNat, flagInvalid)) ∧
    (k.fz = false → x % 2 ^ (z.bits - 1) ≠ 0 → bitsOf x (f.eb + f.mb - 1) f.mb ≠ 2 ^ f.eb - 1 →
      faddF f k x 0 = (x, 0) ∧ fmulF f k x (packF f false (2 ^ (f.eb - 1) - 1) 0) = (x, 0))

/-- R74: VEXT and VINS on a lane that exists, VBCAST; a lane number beyond the last makes the result
a free value (assumption 12). -/
def Sys2Proof.Claims.LaneMoves : Prop :=
  ∀ (s u : State) (c : CoreNo) (z : Lane) (n : Fin 32), Runs s c 4 0 u →
    (∀ (d : GReg) (a : VReg),
      (n.val < 256 / z.bits → Completes (.vext c z d a n) s c
        (setG (past s u c 4) c d ((lane (getV u c a) z.bits n.val).setWidth 64))) ∧
      (256 / z.bits ≤ n.val → ∃ v, Completes (.vext c z d a n) s c
        (setG { past s u c 4 with free := u.free + 1 } c d v))) ∧
    (∀ (d : VReg) (a : GReg),
      (n.val < 256 / z.bits → ∃ v, Completes (.vins c z d a n) s c (setV (past s u c 4) c d v) ∧
        ∀ j < 256 / z.bits, lane v z.bits j =
          if j = n.val then (getG u c a).setWidth z.bits else lane (getV u c d) z.bits j) ∧
      (256 / z.bits ≤ n.val → ∃ v, Completes (.vins c z d a n) s c
        (setV { past s u c 4 with free := u.free + 1 } c d v))) ∧
    (∀ (d : VReg) (a : GReg), ∃ v, Completes (.vbcast c z d a) s c (setV (past s u c 4) c d v) ∧
      ∀ j < 256 / z.bits, lane v z.bits j = (getG u c a).setWidth z.bits)

/-! Block instructions, atomics, barriers and maintenance. -/

namespace Sys2Proof.Claims

/-- A block instruction, whether g2 advances, and what it writes when it reaches its end (R75, R76). -/
inductive BlockRow (s : State) : Instr → CoreNo → Bool → (State → State) → Prop
  | bcpy (c) : BlockRow s (.bcpy c) c true (endCopy c (getPc s c))
  | bset (c) : BlockRow s (.bset c) c false (fun t => t)
  | bcmp (c) : BlockRow s (.bcmp c) c true (fun t => setC t c 0 1)
  | bscn (c) : BlockRow s (.bscn c) c false (fun t => setC t c 0 0)

/-- The state in which a block instruction works on an element: BIP is 1 (R78, R79), and acceptance of an
interrupt waits for the element (R116). -/
def inBlock (u : State) (c : CoreNo) : State := noteMust (fput u F.pstate_BIP c 1) c

/-- An atomic instruction: its core, destination, the register with its address, its release bit and
its operation, read in `s` (R81). -/
inductive AtomRow (s : State) : Instr → CoreNo → GReg → GReg → Bool → AtomOp → Prop
  | aadd (c d a b acq rel) : AtomRow s (.aadd c d a b acq rel) c d a rel (.add (getG s c b))
  | aswp (c d a b acq rel) : AtomRow s (.aswp c d a b acq rel) c d a rel (.swap (getG s c b))
  | acas (c d a b acq rel) :
      AtomRow s (.acas c d a b acq rel) c d a rel (.cas (getG s c d) (getG s c b))

/-- The home of line `l` of local DRAM can serve core `c` at once: memory is initialised, no request
to the line waits, no answer is left, no partner holds it, no other core's hold window runs, and its
channel is in service with no channel degraded and no bad bit in DRAM. -/
structure HomeReady (s : State) (c : CoreNo) (l : Nat) : Prop where
  visible : 64 * l + 64 ≤ visTop s
  isOpen : lineOpen s l = true
  quiet : ∀ q ∈ s.homeQ, q.line ≠ l
  done : s.homeDone = []
  sharers : (lrec s l).partners = []
  powner : (lrec s l).powner = none
  held : (lrec s l).hold = true → (lrec s l).owner = some c.val
  served : onChan s l s.deadCh = false
  whole : s.degraded = []
  stripes : s.twin = []
  clean : s.bad = []

/-- The request of a cache operation of core `c` at the home of line `l`. -/
def cacheReq (c : CoreNo) (l : Nat) (req : HReq) : HomeReq :=
  { who := .req (.core c), line := l, ra := 64 * l, req := req, snooped := [], wants := false }

/-- A cache operation: its core, address register, level, kind of access, and request (R37, R85). -/
inductive CacheRow : Instr → CoreNo → GReg → Nat → AKind → HReq → Prop
  | cinv (c a) : CacheRow (.cinv c a) c a 1 .cinv .cinv
  | ccln (c a) : CacheRow (.ccln c a) c a 0 .load .ccln
  | cfls (c a) : CacheRow (.cfls c a) c a 0 .load .cfls

end Sys2Proof.Claims

/-- R75, R76: a block instruction with g3 = 0 completes at once and accesses no memory: g1 and g2
stay, BIP is cleared, BCMP sets c0.Z alone and BSCN clears c0. -/
def Sys2Proof.Claims.BlockEmpty : Prop :=
  ∀ (s u : State) (i : Instr) (c : CoreNo) (both : Bool) (atEnd : State → State),
    BlockRow s i c both atEnd → Runs s c 4 0 u → getG u c 3 = 0 →
    ∃ t, exec i s = .next t ∧
      Retired (atEnd (fput (setG (past s u c 4) c 3 0) F.pstate_BIP c 0)) t c ∧
      getG t c 1 = getG u c 1 ∧ getG t c 2 = getG u c 2 ∧ fbit t F.pstate_BIP c = false ∧
      SameBytes u t

/-- R75, R76, R80: a block instruction whose bytes all lie in the line of g1 completes in one element
when its accesses do: g1 (and g2 of BCPY and BCMP) end past the bytes or at the byte found, g3 and
BIP are 0, and BCMP and BSCN write c0. A BCMP reads the bytes of g2 in its next line only when those
before them are equal. -/
def Sys2Proof.Claims.BlockElement : Prop :=
  ∀ (s u : State) (c : CoreNo) (a b : Word) (n : Nat), Runs s c 4 0 u → getG u c 1 = a →
    getG u c 2 = b → (getG u c 3).toNat = n → 0 < n → a.toNat % 64 + n ≤ 64 →
    (∀ w : State, storeElem c a ((List.range n).map (fun j =>
        b.extractLsb' (8 * ((a.toNat + j) % 8)) 8)) (inBlock (past s u c 4) c) = .ok () w →
      Completes (.bset c) s c (blockDone (elemDone (advance w c false n) c) c)) ∧
    (∀ (bs : List Byte) (x w : State), undefCopy (past s u c 4) c (getPc s c) = false →
      loadData c b n (inBlock (noteCopy c (getPc s c) (past s u c 4)) c) = .ok bs x →
      storeElem c a bs x = .ok () w →
      Completes (.bcpy c) s c (endCopy c (getPc s c)
        (blockDone (elemDone (advance w c true n) c) c))) ∧
    (∀ (m : Nat) (xs ys zs : List Byte) (x y w : State), m = Min.min n (64 - b.toNat % 64) →
      xs.length = n → ys.length = m → zs.length = n - m →
      loadData c a n (inBlock (past s u c 4) c) = .ok xs x → loadData c b m x = .ok ys y →
      (∀ j < m, xs.take j = ys.take j → xs.getD j 0 ≠ ys.getD j 0 →
        Completes (.bcmp c) s c (blockDone (setC (advance y c true j) c 0
          (if (xs.getD j 0).toNat < (ys.getD j 0).toNat then 6 else 0)) c)) ∧
      (m = n → xs = ys →
        Completes (.bcmp c) s c (setC (blockDone (elemDone (advance y c true n) c) c) c 0 1)) ∧
      (m < n → xs.take m = ys → loadData c (b + BitVec.ofNat 64 m) (n - m) y = .ok zs w →
        (xs.drop m = zs →
          Completes (.bcmp c) s c (setC (blockDone (elemDone (advance w c true n) c) c) c 0 1)) ∧
        (∀ j < n - m, (xs.drop m).take j = zs.take j → xs.getD (m + j) 0 ≠ zs.getD j 0 →
          Completes (.bcmp c) s c (blockDone (setC (advance w c true (m + j)) c 0
            (if (xs.getD (m + j) 0).toNat < (zs.getD j 0).toNat then 6 else 0)) c)))) ∧
    (∀ (xs : List Byte) (w : State), xs.length = n →
      loadData c a n (inBlock (past s u c 4) c) = .ok xs w →
      (b.setWidth 8 ∉ xs → Completes (.bscn c) s c
        (setC (blockDone (elemDone (advance w c false n) c) c) c 0 0)) ∧
      (∀ j < n, b.setWidth 8 ∉ xs.take j → xs.getD j 0 = b.setWidth 8 →
        Completes (.bscn c) s c (blockDone (setC (advance w c false j) c 0 1) c)))

/-- R78, R79: a fault on the first element of a BSCN is taken with BIP = 1 and g1 to g3 unchanged; an
interrupt that is eligible after an element makes it wait there, with g1 and g3 past that element. -/
def Sys2Proof.Claims.BlockStops : Prop :=
  ∀ (s u w : State) (c : CoreNo) (a : Word) (n : Nat), Runs s c 4 0 u → getG u c 1 = a →
    (getG u c 3).toNat = n → 0 < n →
    (∀ e : Exc, loadData c a (Min.min n (64 - a.toNat % 64)) (inBlock (past s u c 4) c) =
        .error (.exc e) w →
      Traps (.bscn c) s c w e) ∧
    (∀ (xs : List Byte) (v : Nat) (x : State), 64 - a.toNat % 64 < n →
      xs.length = 64 - a.toNat % 64 → (getG u c 2).setWidth 8 ∉ xs →
      loadData c a (64 - a.toNat % 64) (inBlock (past s u c 4) c) = .ok xs w →
      eligible c (elemDone (advance w c false (64 - a.toNat % 64)) c) = .ok (some v) x →
      exec (.bscn c) s = .next (modCore (setPc x c (getPc s c)) c
        (fun k => { k with wait := some (.bscn c) })))

/-- R51, R81: an atomic completes when it is performed: gD is the value that it returns. An address
that is not a multiple of 8 takes ALIGN with no other effect. -/
def Sys2Proof.Claims.AtomicResults : Prop :=
  ∀ (s u : State) (i : Instr) (c : CoreNo) (d a : GReg) (rel : Bool) (op : AtomOp),
    AtomRow s i c d a rel op → Runs s c 4 0 u →
    (∀ (v : Word) (w : State), atomicAt c (getG s c a) op rel (past s u c 4) = .ok v w →
      Completes i s c (setG w c d v)) ∧
    ((getG s c a).toNat % 8 ≠ 0 →
      Traps i s c (past s u c 4) { code := 0x03, addr := getG s c a, wr := true })

/-- R81, R82: an atomic at a home of local DRAM that can serve it at once returns the 8 bytes that
memory held, exactly those change, to the sum, the operand, or on a match the operand, and no local
cache keeps the line. -/
def Sys2Proof.Claims.AtomicAtHome : Prop :=
  ∀ (s : State) (c : CoreNo) (va old x new : Word) (op : AtomOp) (rel : Bool),
    PhysLine s c va 8 → va.toNat % 8 = 0 → (coreOf s c).sb = [] → (coreOf s c).cb = [] →
    HomeReady s c (va.toNat / 64) → poisonOf s (va.toNat / 64) = none →
    postedCoh s c (fun _ => true) = false →
    (∀ i < 8, old.extractLsb' (8 * i) 8 = curByte s (va.toNat + i)) →
    ((op = .add x ∧ new = old + x) ∨ (op = .swap x ∧ new = x) ∨
      (∃ e, op = .cas e x ∧ new = if old = e then x else old)) →
    ∃ w, atomicAt c va op rel s = .ok old w ∧
      (∀ i < 8, curByte w (va.toNat + i) = new.extractLsb' (8 * i) 8) ∧
      (∀ b : Nat, b < va.toNat ∨ va.toNat + 8 ≤ b → curByte w b = curByte s b) ∧
      (lrec w (va.toNat / 64)).present = [] ∧ (lrec w (va.toNat / 64)).owner = none

/-- R84: LSYNC, ISYNC and SPECBAR only advance the pc, since this model runs a core's instructions and
loads in order (DESIGN CHOICE, assumption 13). SSYNC makes the next store wait for the older ones, those
sent through a coherent reach included. -/
def Sys2Proof.Claims.OrderBarriers : Prop :=
  ∀ (s u : State) (c : CoreNo), Runs s c 4 0 u →
    Completes (.lsync c) s c (past s u c 4) ∧ Completes (.isync c) s c (past s u c 4) ∧
    Completes (.specbar c) s c (past s u c 4) ∧
    Completes (.ssync c) s c
      (modCore (past s u c 4) c (fun k => { k with fence := (k.fence || !k.sb.isEmpty ||
          postedCoh (past s u c 4) c (fun t => t.msg.op.toNat == opWrLine)) }))

namespace Sys2Proof.Claims

/-- The exception that reports a latched fabric store error (R271). -/
def latchExc (e : FabErr) : Exc :=
  { code := if e.timeout then 0x10 else 0x0F, addr := e.va, info := e.pa, wr := e.wr,
    retry := e.retry, latched := true }

end Sys2Proof.Claims

/-- R84, R271: SYNC, FSYNC and DRAIN complete once the buffers they act on have drained and no store
they wait for is outstanding; SYNC and FSYNC then take a latched fabric store error instead, and its
delivery clears it. -/
def Sys2Proof.Claims.DrainBarriers : Prop :=
  ∀ (s u : State) (c : CoreNo), Runs s c 4 0 u →
    (∀ x w : State, drainSb c (past s u c 4) = .ok () x →
      leaveFor c (fun _ => true) x = .ok () w →
      maintOut w c = false → storeOut w c true = false →
      ((coreOf w c).latch = none → Completes (.sync c) s c w) ∧
      (∀ e, (coreOf w c).latch = some e → Traps (.sync c) s c w (latchExc e))) ∧
    (∀ x w : State, drainFor c (fun e => e.parts.any (fun x => toFabric s x.pa)) (past s u c 4) = .ok () x →
      leaveFor c (fun b => b.issued && toFabric s (64 * b.line)) x = .ok () w →
      storeOut w c false = false →
      ((coreOf w c).latch = none → Completes (.fsync c) s c w) ∧
      (∀ e, (coreOf w c).latch = some e → Traps (.fsync c) s c w (latchExc e))) ∧
    (∀ (w : State) (i : Instr) (e : FabErr),
      (coreOf (takeExc w c i (getPc s c) (latchExc e)) c).wait = none →
      (coreOf (takeExc w c i (getPc s c) (latchExc e)) c).latch = none) ∧
    (∀ w : State, leaveFor c (fun _ => true) (past s u c 4) = .ok () w → storeOut w c true = false →
      Completes (.drain c) s c w)

/-- R72, R84: what has drained is empty: the store buffer after `drainSb`, the combining buffer after
every line has left it. -/
def Sys2Proof.Claims.DrainedBuffers : Prop :=
  ∀ (s w : State) (c : CoreNo),
    (drainSb c s = .ok () w → (coreOf w c).sb = []) ∧
    (leaveFor c (fun _ => true) s = .ok () w → (coreOf w c).cb = [])

/-- R23, R85: CINV, CCLN and CFLS translate their address as a data access and complete: on local
memory with the request at its home, on a non-existent address with nothing but the log record. ICINV
completes where its page is mapped, and changes nothing else. -/
def Sys2Proof.Claims.CacheOps : Prop :=
  (∀ (s u : State) (i : Instr) (c : CoreNo) (a : GReg) (lvl : Nat) (k : AKind) (req : HReq)
    (p : Piece) (w x : State), CacheRow i c a lvl k req → Runs s c 4 lvl u →
    transl1 c (getG s c a).toNat 1 (plOf s c) (fbit s F.pstate_TE c) k (past s u c 4) = .ok p w →
    drainFor c (sbHits [⟨p.va, 64 * (p.pa / 64), 64, p.mt, none⟩]) w = .ok () x →
    (region x p.pa = .dram ∨ region x p.pa = .spd →
      Completes i s c (arrive x (cacheReq c (p.pa / 64) req))) ∧
    (region x p.pa = .absent → Completes i s c (logAccess x kCore c p.pa 0))) ∧
  (∀ (s u : State) (c : CoreNo) (a : GReg) (p : Piece) (w : State), Runs s c 4 0 u →
    transl1 c (getG s c a).toNat 1 (plOf s c) (fbit s F.pstate_TE c) .map (past s u c 4)
      = .ok p w → Completes (.icinv c a) s c w)

/-- R85: what a cache operation does at a home that can serve it at once. CINV discards modified
copies, so that DRAM's value is read; CCLN writes the current value to DRAM and keeps the copies; CFLS
writes it and invalidates them. -/
def Sys2Proof.Claims.CacheEffects : Prop :=
  ∀ (s : State) (c : CoreNo) (l : Nat), HomeReady s c l →
    (∀ t, t = arrive s (cacheReq c l .cinv) → curLine t l = memLine s l ∧
      (lrec t l).present = [] ∧ ∀ a : Nat, a / 64 ≠ l → curByte t a = curByte s a) ∧
    (∀ t, t = arrive s (cacheReq c l .ccln) → memLine t l = curLine s l ∧ SameBytes s t ∧
      (lrec t l).present = (lrec s l).present ∧ (lrec t l).dirty = false) ∧
    (∀ t, t = arrive s (cacheReq c l .cfls) → memLine t l = curLine s l ∧ SameBytes s t ∧
      (lrec t l).present = [])

/-- R86, R87, R159, R160: TLBINV acts on this core once the accesses made through the entries it
removes are performed; TLBINVB and TLBINVA on every core, and on every engine (R313). -/
def Sys2Proof.Claims.TlbInvalidations : Prop :=
  (∀ (s u : State) (c : CoreNo) (a b : GReg) (w : State), Runs s c 4 1 u →
    invOn (invMatch (fget s F.vmid_VMID c) (fget s F.asid_ASID c) (getG s c a).toNat
      ((getG s c b).toNat % 4)) c (past s u c 4) = .ok () w →
    Completes (.tlbinv c a b) s c w) ∧
  (∀ (s u : State) (c : CoreNo) (a b : GReg) (w : State) (p : TlbTag → Bool),
    (∀ i, (i = .tlbinvb c a b ∧ Runs s c 4 1 u ∧
        p = invMatch (fget s F.vmid_VMID c) (fget s F.asid_ASID c) (getG s c a).toNat
          ((getG s c b).toNat % 4)) ∨
      (i = .tlbinva c a b ∧ Runs s c 4 2 u ∧
        p = fun t => (getG s c b).getLsbD 0 || decide (t.vmid = (getG s c a).toNat % 65536)) →
      invEach p (coreKeys s) (past s u c 4) = .ok () w → engineOut w p = false →
      Completes i s c (dropEngines w p) ∧
      ∀ g, Tab.get [] (dropEngines w p).etlb g =
        (Tab.get [] w.etlb g).filter (fun x => !(p x.tag)))) ∧
  (∀ (s w : State) (k : CoreNo) (p : TlbTag → Bool), invOn p k s = .ok () w →
    (coreOf w k).tlb = (coreOf s k).tlb.filter (fun e => !(p e.tag)) ∧
    (coreOf w k).itlb = (coreOf s k).itlb.filter (fun e => !(p e.tag)) ∧
    (coreOf w k).dtlb = (coreOf s k).dtlb.filter (fun e => !(p e.tag)) ∧ accessOut w k = false ∧
    (∀ e ∈ (coreOf w k).sb, ∀ x ∈ e.parts, x.tag.any p = false) ∧ (∀ b ∈ (coreOf w k).cb, b.tags.any p = false))

/-- R87, R158: TLBLOCK writes 0 where a locked entry covers the address already, 1 where 32 others
are locked, and otherwise walks and locks the entry; where the eight ways of its set are locked it writes
1 (DESIGN CHOICE, assumption 108). TLBUNLOCK makes the entry ordinary and writes 0,
or writes 1 where none is locked. -/
def Sys2Proof.Claims.TlbLocks : Prop :=
  ∀ (s u : State) (c : CoreNo) (d a : GReg) (va : Nat), Runs s c 4 2 u →
    va = (getG s c a).toNat → va = (getG u c a).toNat →
    (canonical va = true → (coreOf s c).tlb.any (lockedHit s c va) = true →
      Completes (.tlblock c d a) s c (setG (past s u c 4) c d 0)) ∧
    (canonical va = true → (coreOf s c).tlb.any (lockedHit s c va) = false →
      32 ≤ ((coreOf s c).tlb.filter (fun e => e.locked)).length →
      Completes (.tlblock c d a) s c (setG (past s u c 4) c d 1)) ∧
    (∀ (e : TlbEnt) (w : State), canonical va = true →
      (coreOf s c).tlb.any (lockedHit s c va) = false →
      ((coreOf s c).tlb.filter (fun e => e.locked)).length < 32 →
      walk c va (plOf s c) .load true none 4 (past s u c 4) = .ok e w →
      (8 ≤ ((coreOf w c).tlb.filter (fun x => x.locked && tlbSet x == tlbSet e)).length →
        Completes (.tlblock c d a) s c (setG w c d 1)) ∧
      (((coreOf w c).tlb.filter (fun x => x.locked && tlbSet x == tlbSet e)).length < 8 →
        ∃ v l, l = fillL2 v { e with locked := true } ((coreOf w c).tlb.filter (fun x => x.tag ≠ e.tag)) ∧
          { e with locked := true } ∈ l ∧ Completes (.tlblock c d a) s c
            (setG (modCore { w with free := w.free + 1 } c (fun k => { k with tlb := l })) c d 0))) ∧
    ((coreOf u c).tlb.any (lockedHit u c va) = true →
      Completes (.tlbunlock c d a) s c (setG (modCore (past s u c 4) c (fun k => { k with
        tlb := k.tlb.map (fun e => if lockedHit u c va e then { e with locked := false } else e) }))
        c d 0)) ∧
    ((coreOf u c).tlb.any (lockedHit u c va) = false →
      Completes (.tlbunlock c d a) s c (setG (past s u c 4) c d 1))

/-! Ports, system registers, exceptions, waits and the events of a core. -/

namespace Sys2Proof.Claims

/-- A write of a system register: its core, source register and the register's number (R40, R91). -/
inductive MtsRow : Instr → CoreNo → GReg → Nat → Prop
  | mts (c d n) : MtsRow (.mts c d n) c d n.toNat
  | mtsPstate (c d) : MtsRow (.mtsPstate c d) c d 0x000
  | mtsHrsctl (c d) : MtsRow (.mtsHrsctl c d) c d 0x018
  | drop (c d) : MtsRow (.drop c d) c d 0x018
  | mtsPpbase (c d) : MtsRow (.mtsPpbase c d) c d 0x01D
  | mtsVdtb (c d) : MtsRow (.mtsVdtb c d) c d 0x004
  | mtsPkr (c d) : MtsRow (.mtsPkr c d) c d 0x014
  | mtsTbCmp (c d) : MtsRow (.mtsTbCmp c d) c d 0x020
  | mtsPsbbase (c d) : MtsRow (.mtsPsbbase c d) c d 0x031

/-- A call to a higher level or a breakpoint: its core, lowest level, cause, and whether the saved pc
is the next instruction's (R37, R92). -/
inductive CallRow : Instr → CoreNo → Nat → Nat → Bool → Prop
  | scall (c) : CallRow (.scall c) c 0 0x14 true
  | hcall (c) : CallRow (.hcall c) c 1 0x15 true
  | mcall (c) : CallRow (.mcall c) c 2 0x16 true
  | brk (c) : CallRow (.brk c) c 0 0x17 false

/-- The frame address of an entry at level `l` through a descriptor with the given selector and F bit,
from a core at level `p` (R125): below the current sp or the selected stack, a multiple of 64. -/
def frameAt (s : State) (c : CoreNo) (h : Desc) (l p : Nat) : Nat :=
  ((if l = p ∧ h.f = false then (getG s c spReg).toNat else (rd s .stk (4 * c + h.sel)).toNat)
    + 2 ^ 64 - 64) % 2 ^ 64 / 64 * 64

/-- The exception `e` with the pc at `pc` enters the handler of `h` at level `l`: the descriptor is
found usable, no escalation is called for, and the frame can be pushed at `p` and has a place in the
store buffer, which leaves `x` (R97, R125, R126). -/
structure Enters (s : State) (c : CoreNo) (pc : Word) (e : Exc) (h : Desc) (l : Nat) (p : Piece)
    (x : State) : Prop where
  sync : e.code < 0x40
  level : plOf s c ≤ l ∧ l ≤ 3
  mask : mlOf s c < h.el ∧ h.eml < 16
  found : ∃ a s1 s2, lookupDesc c e.code (setPc s c pc) = .ok (some (h, l), a) s1 ∧
    pushCheck c (frameAt s c h l (plOf s c)) h.sel l s1 = .ok (0, p) s2 ∧
    ∃ s3, sbRoom c 1 97 s2 = .ok () s3 ∧ x = issueFor c (fun _ => true) s3

/-- Core `c` executes an instruction of `len` bytes that any level may: as `Runs`, but for the boundary
before it, which a WAIT or WAITT itself asks about (R96). -/
structure Begins (s : State) (c : CoreNo) (len : Nat) (u : State) : Prop where
  active : (coreOf s c).active = true
  free : (coreOf s c).wait = none
  still : fenced s c = false
  fetch : fetchCheck c len (fresh s c) = .ok () u

end Sys2Proof.Claims

/-- R37: an instruction below its lowest level takes PRIV_INSTR and has no other effect. -/
def Sys2Proof.Claims.PrivilegeTraps : Prop :=
  ∀ (s u : State) (c : CoreNo) (a b d : GReg) (i : Instr) (lvl : Nat), Runs s c 4 0 u →
    plOf s c < lvl →
    ((lvl = 1 ∧ (i = .cinv c a ∨ i = .tlbinv c a b ∨ i = .tlbinvb c a b ∨ i = .hcall c ∨
        i = .xret c)) ∨
     (lvl = 2 ∧ (i = .tlbinva c a b ∨ i = .tlblock c d a ∨ i = .tlbunlock c d a ∨ i = .mcall c))) →
    Traps i s c u { code := 0x02 }

/-- R128, R432: a core that is held, asleep, stopped or halted executes nothing; one whose older
instruction waits queues the new one behind it. Shown for one command of each operand shape. -/
def Sys2Proof.Claims.IdleCores : Prop :=
  ∀ (s : State) (c : CoreNo) (i : Instr),
    (∃ d a b m n, i = .add c d a b ∨ i = .ldD c d m ∨ i = .stD c d m ∨ i = .bcpy c ∨ i = .sync c ∨
      i = .mfs c d n ∨ i = .scall c ∨ i = .xret c ∨ i = .wait c ∨ i = .aadd c d a b false false ∨
      i = .ret c) →
    ((coreOf s c).active = false → exec i s = .next s) ∧
    ((coreOf s c).active = true → (coreOf s c).wait ≠ none →
      exec i s = .next (setCore s c { coreOf s c with later := (coreOf s c).later ++ [i] }))

/-- R57, R59, R88, R89: a PIN or POUT whose checks pass completes: gD receives the register's value,
or the register receives gD, at port (gA + offset) mod 2^32. One that the permission check refuses
takes PORT_PERM; a permitted port that is not a multiple of the width takes ALIGN. -/
def Sys2Proof.Claims.PortAccess : Prop :=
  ∀ (s u x : State) (c : CoreNo) (d a : GReg) (w : Bool) (o : POff) (p : Nat),
    Runs s c (pLen o) 0 u → p = portNo s c a o →
    (portChecks c p w false (past s u c (pLen o)) = .ok () x →
      Completes (.pin c d a w o) s c
        (setG (portRead x (some c) p w).2 c d (BitVec.ofNat 64 (portRead x (some c) p w).1))) ∧
    (portChecks c p w true (past s u c (pLen o)) = .ok () x →
      getPc (portWrite x (some c) p w (getG s c d)) c = getPc s c + BitVec.ofNat 64 (pLen o) →
      Completes (.pout c d a w o) s c (portWrite x (some c) p w (getG s c d))) ∧
    (∀ dir : Bool, portOk c (plOf u c) p w dir (past s u c (pLen o)) = .ok false x →
      Traps (if dir then .pout c d a w o else .pin c d a w o) s c x
        { code := 0x0A, addr := BitVec.ofNat 64 p, wr := dir }) ∧
    (∀ dir : Bool, portOk c (plOf u c) p w dir (past s u c (pLen o)) = .ok true x →
      p % (if w then 8 else 4) ≠ 0 →
      Traps (if dir then .pout c d a w o else .pin c d a w o) s c x
        { code := 0x03, addr := BitVec.ofNat 64 p, wr := dir })

/-- R60, R61: who may access a port. PL3 may access every one, PL2 all but those marked PL3 only, and
a lower level only with EN, below 0x0100_0000, with the bitmap's bit, and with U at PL0. -/
def Sys2Proof.Claims.PortPermission : Prop :=
  ∀ (s : State) (c : CoreNo) (p : Nat) (dir : Bool),
    (∀ wide, portOk c 3 p wide dir s = .ok true s) ∧
    portOk c 2 p false dir s = .ok (!(pl3Port c p)) s ∧
    (∀ pl : Nat, pl < 2 →
      (fbit s F.ppbase_EN c = false ∨ 0x1000000 ≤ p ∨ pl3Port c p = true ∨
        (pl = 0 ∧ fbit s F.ppbase_U c = false) → portOk c pl p false dir s = .ok false s) ∧
      (fbit s F.ppbase_EN c = true → p < 0x1000000 → pl3Port c p = false → fuseAt p = none →
        (pl = 0 → fbit s F.ppbase_U c = true) → ∀ b t, bitmapBits c (p / 4096) s = .ok b t →
        portOk c pl p false dir s = .ok (b.testBit (if dir then 1 else 0)) t))

/-- R25, R90: a PIN or POUT to a block outside the core that gets no response takes PORT_TIMEOUT with
the port number; a PIN changes nothing else, and a POUT has taken effect or not, by a free value
(assumption 3). A core-local or unassigned port raises none. -/
def Sys2Proof.Claims.PortTimeouts : Prop :=
  (∀ (s : State) (c : CoreNo) (d a : GReg) (w : Bool) (o : POff),
    mayTimeOut s c (portNo s c a o) w = false →
    exec (.portTimeout c false d a w o) s = exec (.pin c d a w o) s ∧
    exec (.portTimeout c true d a w o) s = exec (.pout c d a w o) s) ∧
  ∀ (s u x : State) (c : CoreNo) (d a : GReg) (w isOut : Bool) (o : POff) (p : Nat),
    Runs s c (pLen o) 0 u → p = portNo s c a o → 0x1000 ≤ p →
    (portAssigned s (some c) p = true ∨ (w = true ∧ portAssigned s (some c) (p + 4) = true)) →
    portChecks c p w isOut (past s u c (pLen o)) = .ok () x →
    ∃ y, Traps (.portTimeout c isOut d a w o) s c y
        { code := 0x19, addr := BitVec.ofNat 64 p, wr := isOut } ∧
      (y = { x with free := x.free + 1 } ∨
       (isOut = true ∧ y = portWrite { x with free := x.free + 1 } (some c) p w (getG s c d)))

/-- R9, R11: what a write and a read of a whole register do to each field, by its Access code: a
reserved encoding leaves an RW field, writing 1 clears or sets a W1C or W1S bit, RO, WO and reserved
fields keep what they hold, and WO and reserved fields read as zero. -/
def Sys2Proof.Claims.AccessCodes : Prop :=
  ∀ (r : Reg) (f : Fld) (old new o n : Nat), f ∈ r.fields → old < 2 ^ 64 → new < 2 ^ 64 →
    o = bitsOf old f.hi f.lo → n = bitsOf new f.hi f.lo →
    bitsOf (fieldWrite r old new fullMask) f.hi f.lo =
      (match f.acc with
       | .rw => if reservedEnc r f.lo n = true then o else n
       | .w1c => o - (o &&& n)
       | .w1s => o ||| n
       | _ => o) ∧
    bitsOf (fieldRead r old) f.hi f.lo =
      (match f.acc with
       | .wo | .rsvd => 0
       | _ => o)

/-- R9, R58: REGISTER_WRITE reaches the register at its port: a 64-bit write of a 64-bit register with
no effect beyond its fields, shown for CMT_PROG of a channel that does not run, and nothing at an
unassigned port. -/
def Sys2Proof.Claims.RegisterWrites : Prop :=
  (∀ (s : State) (c : CoreNo) (port : BitVec 32) (w : Bool) (v : Word),
    regAt s (some c) port.toNat = none → regAt s (some c) (port.toNat + 4) = none →
    exec (.registerWrite c port w v) s = .next s) ∧
  (∀ (s : State) (c : CoreNo) (port : BitVec 32) (v : Word) (n : Nat),
    regAt s (some c) port.toNat = some (.cmtProg, n, 0) → chanSt s n ≠ csRun → chanSt s n ≠ csWait →
    exec (.registerWrite c port true v) s = .next (wr s .cmtProg n
      (BitVec.ofNat 64 (fieldWrite .cmtProg (rd s .cmtProg n).toNat v.toNat fullMask))))

/-- R39, R40, R91, R414: MFS at a sufficient level completes with the register's value in gD; an
unassigned number takes ILLEGAL_INSTR, a level too low PRIV_INSTR. -/
def Sys2Proof.Claims.SystemReads : Prop :=
  ∀ (s u : State) (c : CoreNo) (d : GReg) (n : BitVec 12), Runs s c 4 0 u →
    (sysRegOf n.toNat = none → Traps (.mfs c d n) s c (past s u c 4) { code := 0x01 }) ∧
    (∀ r, sysRegOf n.toNat = some r →
      (r.rl ≤ plOf u c → (plOf u c = 0 → pl0Reads u c r = true) →
        Completes (.mfs c d n) s c (setG (upToDate (past s u c 4) c r) c d
          (sysRead (upToDate (past s u c 4) c r) c r))) ∧
      (plOf u c < r.rl ∨ (plOf u c = 0 ∧ pl0Reads u c r = false) →
        Traps (.mfs c d n) s c (past s u c 4) { code := 0x02 }))

/-- R10, R39, R40, R55, R62, R91, R94, R421: an MTS at a sufficient level completes when its write does; an
ordinary register receives gD by its Access codes, a counter keeps the written value at the MTS's own
retirement, PMSELn selects what gD says, an MTS to PPBASE also empties the bitmap cache, and HRSENT writes
the entry that SEL names. An unassigned number takes ILLEGAL_INSTR, a level too low, or HRSCTL at PL0 with
UW = 0, PRIV_INSTR. -/
def Sys2Proof.Claims.SystemWrites : Prop :=
  ∀ (s u : State) (i : Instr) (c : CoreNo) (d : GReg) (n : Nat), MtsRow i c d n → Runs s c 4 0 u →
    (sysRegOf n = none → Traps i s c (past s u c 4) { code := 0x01 }) ∧
    (∀ r, sysRegOf n = some r →
      (plOf u c < r.wl ∨ (r.reg = .hrsctl ∧ plOf u c = 0 ∧ fbit u F.hrsctl_UW c = false) →
        Traps i s c (past s u c 4) { code := 0x02 }) ∧
      (r.wl ≤ plOf u c → ¬(r.reg = .hrsctl ∧ plOf u c = 0 ∧ fbit u F.hrsctl_UW c = false) →
        (∀ w, sysWrite c r (getG s c d) (past s u c 4) = .ok () w → Completes i s c w) ∧
        (r.reg = .pmc → ∃ t, exec i s = .next t ∧ rd t .pmc (sysIdx r c) =
          rd (regWrite (upToDate (past s u c 4) c r) .pmc (sysIdx r c) (getG s c d)) .pmc (sysIdx r c)) ∧
        (r.reg ∉ [.pstate, .hrsctl, .hrsent, .ppbase, .psbbase, .pmc] →
          Completes i s c (regWrite (upToDate (past s u c 4) c r) r.reg (sysIdx r c) (getG s c d))) ∧
        (r.reg = .pmsel → ∃ t, exec i s = .next t ∧
          ∀ f ∈ [F.pmsel_EVENT, F.pmsel_PLF, F.pmsel_EN, F.pmsel_SMP],
            fget t f (sysIdx r c) = fget (regWrite (past s u c 4) .pmsel (sysIdx r c) (getG s c d)) f
              (sysIdx r c)) ∧
        (r.reg = .ppbase → Completes i s c (modCore (regWrite (past s u c 4) .ppbase c (getG s c d))
          c (fun k => { k with bitmap := [] }))) ∧
        (r.reg = .hrsent → Completes i s c
          (setHrsAt (past s u c 4) c (fget u F.hrsctl_SEL c) (getG s c d)))))

/-- R38: an MTS to PSTATE keeps PL, writes TE at PL2 and PL3 only, caps ML by the level and writes
BIP; at PL0 it takes PRIV_INSTR. An MFS of PSTATE completes at every level. -/
def Obligations.WritePstate : Prop :=
  ∀ (s u : State) (c : CoreNo) (d : GReg) (v : Word), Runs s c 4 0 u → v = getG s c d →
    (plOf u c = 0 → Traps (.mtsPstate c d) s c (past s u c 4) { code := 0x02 }) ∧
    (1 ≤ plOf u c → ∃ t, exec (.mtsPstate c d) s = .next t ∧ plOf t c = plOf u c ∧
      mlOf t c = Min.min (v.extractLsb' 4 4).toNat
        (if plOf u c = 1 then 11 else if plOf u c = 2 then 13 else 15) ∧
      fbit t F.pstate_BIP c = v.getLsbD 8 ∧
      fbit t F.pstate_TE c = (if plOf u c = 1 then fbit u F.pstate_TE c else v.getLsbD 9)) ∧
    Completes (.mfs c d 0) s c (setG (past s u c 4) c d (sysRead u c ⟨.pstate, 0, 0, 1⟩))

/-- R55: an MTS to HRSCTL above PL0 that drops entries lowers DEPTH by the number dropped and shifts
the others down; a DEPTH above 32 is ignored. At PL0 with UW = 1 it writes only DEPTH, and only a
value no higher than the current one. -/
def Sys2Proof.Claims.WriteHrsctl : Prop :=
  ∀ (s : State) (c : CoreNo) (v depth drop : Nat), depth = bitsOf v 13 8 → drop = bitsOf v 29 24 →
    hrsDepth s c ≤ 32 →
    (1 ≤ plOf s c → drop ≠ 0 → drop ≤ 32 →
      hrsDepth (writeHrsctl s c v) c = hrsDepth s c - drop ∧
      ∀ i : Nat, i < hrsDepth s c - drop →
        hrsAt (writeHrsctl s c v) c i = hrsAt s c (i + drop)) ∧
    (1 ≤ plOf s c → (drop = 0 ∨ 32 < drop) →
      hrsDepth (writeHrsctl s c v) c = (if depth ≤ 32 then depth else hrsDepth s c) ∧
      ∀ i : Nat, hrsAt (writeHrsctl s c v) c i = hrsAt s c i) ∧
    (plOf s c = 0 → writeHrsctl s c v =
      if depth ≤ hrsDepth s c then fput s F.hrsctl_DEPTH c depth else s)

/-- R123, R125, R130: a synchronous exception that enters its handler. EPC, ECAUSE and EADDR receive
its values, PSTATE the level and mask of the entry with BIP 0 and, at PL3, TE 0; sp is the frame's
address, the pc the handler, and the frame enters the store buffer with the old PSTATE and sp. -/
def Sys2Proof.Claims.ExceptionEntry : Prop :=
  ∀ (s x : State) (c : CoreNo) (i : Instr) (pc epc : Word) (e : Exc) (h : Desc) (l f : Nat)
    (p : Piece), Enters s c pc e h l p x → epc = e.epc.getD pc → f = frameAt s c h l (plOf s c) →
    ∃ t, takeExc s c i pc e = t ∧ getPc t c = h.handler ∧ plOf t c = l ∧ mlOf t c = h.eml ∧
      fbit t F.pstate_BIP c = false ∧ (l = 3 → fbit t F.pstate_TE c = false) ∧
      rd t .epc c = epc ∧ rd t .eaddr c = e.addr ∧
      fget t F.ecause_CODE c = e.code % 256 ∧ (rd t .ecause c).getLsbD 29 = e.wr ∧
      (rd t .ecause c).getLsbD 31 = e.retry ∧ getG t c spReg = BitVec.ofNat 64 f ∧
      (∃ en : SbEntry, (coreOf t c).sb = (coreOf x c).sb ++ [en] ∧ en.pa = p.pa ∧
        en.bytes.length = 64 ∧ en.bytes.take 8 = natLe epc.toNat 8 ∧
        (en.bytes.drop 8).take 8 = natLe (rd s .pstate c).toNat 8 ∧
        (en.bytes.drop 16).take 8 = natLe (getG s c spReg).toNat 8) ∧
      (coreOf t c).later = [] ∧ (coreOf t c).hrs = (coreOf s c).hrs

/-- R92: SCALL, HCALL and MCALL take their exception with EPC at the next instruction and EADDR 0, and
BREAK with EPC at itself; where the entry goes through, the handler runs next. -/
def Sys2Proof.Claims.SystemCalls : Prop :=
  ∀ (s u : State) (i : Instr) (c : CoreNo) (lvl code : Nat) (nx : Bool) (e : Exc),
    CallRow i c lvl code nx → Runs s c 4 lvl u →
    e = { code := code, epc := if nx = true then some (getPc s c + 4) else none } →
    Traps i s c (past s u c 4) e ∧
    (∀ (h : Desc) (l : Nat) (p : Piece) (x : State),
      Enters (past s u c 4) c (getPc s c) e h l p x →
      ∃ t, exec i s = .next t ∧ getPc t c = h.handler ∧ plOf t c = l ∧
        rd t .epc c = (if nx = true then getPc s c + 4 else getPc s c) ∧ rd t .eaddr c = 0)

/-- R93, R131: XRET. A frame whose saved level is above the current one takes PRIV_INSTR; otherwise
the pc, sp and PL come from the frame, ML is the lower of the saved one and the level's ceiling, BIP
is restored, TE at PL2 and PL3 only, and the return stack is unchanged. -/
def Obligations.ExceptionReturn : Prop :=
  ∀ (s u w : State) (c : CoreNo) (bs : List Byte) (ps pl : Nat), Runs s c 4 1 u →
    loadData c (getG s c spReg) 64 (past s u c 4) = .ok bs w → ps = leNat ((bs.drop 8).take 8) →
    pl = plOf s c →
    (pl < ps % 4 → Traps (.xret c) s c w { code := 0x02 }) ∧
    (ps % 4 ≤ pl → leNat (bs.take 8) % 4 = 0 → ∃ t, exec (.xret c) s = .next t ∧
      getPc t c = BitVec.ofNat 64 (leNat (bs.take 8)) ∧
      getG t c spReg = BitVec.ofNat 64 (leNat ((bs.drop 16).take 8)) ∧ plOf t c = ps % 4 ∧
      mlOf t c = Min.min (ps / 16 % 16) (if pl = 1 then 11 else if pl = 2 then 13 else 15) ∧
      fbit t F.pstate_BIP c = ps.testBit 8 ∧
      fbit t F.pstate_TE c = (if pl = 1 then fbit w F.pstate_TE c else ps.testBit 9) ∧
      (coreOf t c).hrs = (coreOf w c).hrs ∧ (coreOf t c).sb = (coreOf w c).sb)

/-- R94, R96, R190: WAIT and WAITT place the core in C1, or with its C6EN bit in C6 once its buffers have
drained, unless an eligible interrupt or a passed deadline ends them at once; a deadline that is reached
ends a WAITT with gD = 0, unless an interrupt is accepted then. WRPKR writes gA[31:0] to PKR and changes
no other register. -/
def Sys2Proof.Claims.Waits : Prop :=
  (∀ (s u w : State) (c : CoreNo) (v : Option Nat), Begins s c 4 u →
    eligible c (past s u c 4) = .ok v w →
    (v.isSome = true → Completes (.wait c) s c w ∧
      ∀ d a : GReg, Completes (.waitt c d a) s c (setG w c d 1)) ∧
    (v = none → Completes (.wait c) s c (sleep c none w) ∧
      ∀ d a : GReg,
        ((tbOf w + 2 ^ 64 - (getG w c a).toNat) % 2 ^ 64 < 2 ^ 63 →
          Completes (.waitt c d a) s c (setG w c d 0)) ∧
        (¬(tbOf w + 2 ^ 64 - (getG w c a).toNat) % 2 ^ 64 < 2 ^ 63 →
          Completes (.waitt c d a) s c (sleep c (some (getG w c a, d)) w)))) ∧
  (∀ (s x : State) (c : CoreNo) (k : Option (Word × GReg)),
    ((fget s F.coreClctl_C6EN (c.val / 8)).testBit (c.val % 8) = false →
      sleep c k s = modCore (lapse s c) c (fun j =>
        { j with run := .c1, waitt := k, c6due := false })) ∧
    ((fget s F.coreClctl_C6EN (c.val / 8)).testBit (c.val % 8) = true →
      enterC6 c (modCore (lapse s c) c (fun j =>
        { j with run := .c1, waitt := k, c6due := true })) = .ok () x → sleep c k s = x ∧
      (coreOf x c).run = .c6 ∧ (coreOf x c).waitt = k ∧ (coreOf x c).sb = [] ∧ (coreOf x c).cb = [] ∧
      (coreOf x c).tlb = [] ∧ (coreOf x c).g = (coreOf s c).g)) ∧
  (∀ (s x : State) (c : CoreNo) (a : Word) (d : GReg), (coreOf s c).run = .c1 →
    (coreOf s c).waitt = some (a, d) → (tbOf s + 2 ^ 64 - a.toNat) % 2 ^ 64 < 2 ^ 63 →
    (acceptInt c s = .ok false x → exec (.waittDeadline c) s =
      .next (setG (modCore x c (fun k => { k with run := .run, waitt := none, c6due := false }))
        c d 0)) ∧
    (acceptInt c s = .ok true x → exec (.waittDeadline c) s = .next x)) ∧
  (∀ (s u : State) (c : CoreNo) (a : GReg), Runs s c 4 0 u →
    Completes (.wrpkr c a) s c
      (fput (past s u c 4) F.pkr_KR c ((getG u c a).extractLsb' 0 32).toNat))

/-- R116, R118, R124, R135: INTERRUPT does nothing while the core cannot accept one or none is eligible;
an eligible one is delivered at the boundary, where a waiting instruction is given up, a sleeping core
wakes, and a WAITT that it ends writes gD := 1. One that is accepted at the boundary before an
instruction is taken in its place, shown for one command of each operand shape. -/
def Sys2Proof.Claims.Interrupts : Prop :=
  (∀ (s x : State) (c : CoreNo) (i : Instr), (coreOf s c).active = true → (coreOf s c).wait = none →
    fenced s c = false → acceptInt c s = .ok true x →
    (∃ d a b m n, i = .add c d a b ∨ i = .ldD c d m ∨ i = .stD c d m ∨ i = .bcpy c ∨ i = .sync c ∨
      i = .mfs c d n ∨ i = .scall c ∨ i = .xret c ∨ i = .aadd c d a b false false ∨ i = .ret c) →
    exec i s = .next x) ∧
  ∀ (s : State) (c : CoreNo),
    (((coreOf s c).active = false ∧ (coreOf s c).run ≠ .c1) ∨ undiscardable s c = true →
      exec (.interrupt c) s = .next s) ∧
    (((coreOf s c).active = true ∨ (coreOf s c).run = .c1) → undiscardable s c = false →
      (pendingVecs s c = [] → exec (.interrupt c) s = .next s) ∧
      (∀ t, pendingVecs s c ≠ [] → eligible c s = .ok none t → exec (.interrupt c) s = .next t) ∧
      (∀ (v : Nat) (s1 x w : State), pendingVecs s c ≠ [] → eligible c s = .ok (some v) s1 →
        x = modCore (match (coreOf s1 c).waitt with
            | some (_, d) => setG s1 c d 1
            | none => s1) c (fun k => { k with run := if k.run = .c1 then .run else k.run,
                                               waitt := none, c6due := false,
                                               wait := none, later := [] }) →
        deliver c v (getPc x c) { code := v } x = .ok () w →
        exec (.interrupt c) s = .next
          (modCore (dropSwaps (count w c (plOf x c) evInt 1) c) c (fun k => k.idle))))

/-- R101, R122, R134–R136, R397, R411–R417: CORE_IPI sets an edge vector pending at its target core, or at
every other core, and does nothing for a vector below 0x50. CORE_TIMER brings TB to TB_CMP, and vector
0x40 is pending. COUNTER_OVERFLOW sets OVF of a counter that events the model does not see are counted by;
one that counts no cycles and takes no sample is then 0. CORE_MDTB is written by its Access codes, and a
flush of the predictors empties them and changes no register but CORE_PREDCTL. -/
def Sys2Proof.Claims.CoreEvents : Prop :=
  (∀ (s : State) (c : CoreNo) (v : BitVec 32) (vec : Nat), vec = (v.extractLsb' 0 8).toNat →
    (vec < 0x50 → exec (.coreIpi c v) s = .next s) ∧
    (0x50 ≤ vec → v.getLsbD 23 = false → ∃ t, exec (.coreIpi c v) s = .next t ∧
      pendBit t (v.extractLsb' 16 7).toNat vec = true ∧
      ∀ k q : Nat, q < 256 → 0x50 ≤ q →
        ¬(k = (v.extractLsb' 16 7).toNat ∧ q = vec) → pendBit t k q = pendBit s k q) ∧
    (0x50 ≤ vec → v.getLsbD 23 = true → ∃ t, exec (.coreIpi c v) s = .next t ∧
      pendBit t c vec = pendBit s c vec ∧
      ∀ k : Nat, k < 128 → k ≠ c.val → pendBit t k vec = true)) ∧
  (∀ (s : State) (c : CoreNo),
    (timerCond s c = true → exec (.coreTimer c) s = .next s) ∧
    (timerCond s c = false → tbOf s < fget s F.tbCmp_CMP c → ∃ t,
      exec (.coreTimer c) s = .next t ∧ tbOf t = fget s F.tbCmp_CMP c ∧ pendBit t c 0x40 = true)) ∧
  (∀ (s : State) (c : CoreNo) (n : Fin 8),
    (overflows s c n = false → exec (.counterOverflow c n) s = .next s) ∧
    (overflows s c n = true → (coreOf s c).skip = none → ∃ t,
      exec (.counterOverflow c n) s = .next t ∧ fbit t F.pmsel_OVF (8 * c + n) = true ∧
      (fget s F.pmsel_EVENT (8 * c + n) ∉ cycleEvents → fbit s F.pmsel_SMP (8 * c + n) = false →
        fget t F.pmc_COUNT (8 * c + n) = 0))) ∧
  (∀ (s : State) (c : CoreNo) (v : Word), exec (.coreMdtbWrite c v) s =
    .next (wr s .coreMdtb c
      (BitVec.ofNat 64 (fieldWrite .coreMdtb (rd s .coreMdtb c).toNat v.toNat fullMask)))) ∧
  (∀ (s : State) (c : CoreNo), ∃ t, exec (.predFlush c) s = .next t ∧
    t = { s with regs := t.regs, cores := t.cores } ∧
    coreOf t c = { coreOf s c with pred := [] } ∧ (∀ n : Nat, n ≠ c.val → coreOf t n = coreOf s n) ∧
    ∀ r n, r ≠ .corePredctl → rd t r n = rd s r n)

namespace Sys2Proof.Claims

/-- The ring of core `c` lies physically in visible local DRAM: its header and its records. -/
def RingAt (s : State) (c : CoreNo) (base : Nat) : Prop :=
  fbit s F.pstate_TE c = false ∧ base = fget s F.psbbase_BASE c * 4096 ∧
    base + 64 * (ringSize s c + 1) ≤ visTop s

end Sys2Proof.Claims

/-- R419–R422: SAMPLE_RECORD of a sample that has been taken, into an enabled ring in visible local DRAM
with room below its threshold: three stores follow the core's older ones, the record at slot WIDX, then
WIDX + 1 and LOST into the header, and no sample is armed any more. A ring that is disabled or stopped
drops the record, and with no sample due nothing changes. -/
def Sys2Proof.Claims.Samples : Prop :=
  ∀ (s : State) (c : CoreNo),
    ((coreOf s c).sample = none → exec (.sampleRecord c) s = .next s) ∧
    (∀ n ev r, (coreOf s c).sample = some ⟨n, ev, some r⟩ →
      (fbit s F.psbbase_EN c = false ∨ fbit s F.psbbase_STOP c = true →
        exec (.sampleRecord c) s = .next (modCore s c (fun k => { k with sample := none }))) ∧
      (∀ base w : Nat, fbit s F.psbbase_EN c = true → fbit s F.psbbase_STOP c = false →
        RingAt s c base → w = (coreOf s c).ring.widx →
        (w + 2 ^ 64 - (coreOf s c).ring.ridx) % 2 ^ 64 ≠ ringSize s c →
        (w + 1 + 2 ^ 64 - (coreOf s c).ring.ridx) % 2 ^ 64 < ringThr s c →
        ∃ t e1 e2 e3, exec (.sampleRecord c) s = .next t ∧
          (coreOf t c).sb ++ (coreOf t c).late =
            (coreOf s c).sb ++ (coreOf s c).late ++ [e1, e2, e3] ∧
          e1.pa = base + 64 + w % ringSize s c * 64 ∧ e1.bytes.length = 64 ∧
          e1.bytes.take 24 = natLe r.pc.toNat 8 ++ natLe r.dva.toNat 8 ++ natLe r.tb 8 ∧
          e2.pa = base ∧ e2.bytes = natLe (w + 1) 8 ∧
          e3.pa = base + 16 ∧ e3.bytes = natLe (coreOf s c).ring.lost 8 ∧
          (coreOf t c).sample = none ∧ (coreOf t c).ring.widx = (w + 1) % 2 ^ 64 ∧
          (∀ q i, rd t q i = rd s q i) ∧ SameBytes s t))

/-- R341–R344: ECLIPSE_MOVE fences a core that runs and sets its cluster's spare MOVING; the third failed
check of one instruction does the same, and an earlier one is counted and logged and the instruction
replays. Once its buffers have drained, the core resumes on the spare, its TLBs, predictors and bitmap
copies empty. -/
def Sys2Proof.Claims.EclipseMoves : Prop :=
  (∀ (s : State) (c : CoreNo), (coreOf s c).active = true → Tab.find s.moves c.val = none →
    fget s F.fltClspare_SST (c.val / 8) = 0 →
    (∃ t, exec (.eclipseMove c) s = .next t ∧ fget t F.fltClspare_SST (c.val / 8) = 1 ∧
      (Tab.find t.moves c.val).isSome = true ∧ (coreOf t c).g = (coreOf s c).g ∧
      getPc t c = getPc s c) ∧
    (2 ≤ (coreOf s c).fails → ∃ t, exec (.coreReplay c) s = .next t ∧
      exec (.eclipseMove c) s = .next t)) ∧
  (∀ (s : State) (c : CoreNo), (coreOf s c).active = true → fenced s c = false →
    (coreOf s c).fails < 2 → ∃ t, exec (.coreReplay c) s = .next t ∧
      (coreOf t c).fails = (coreOf s c).fails + 1 ∧ (coreOf t c).g = (coreOf s c).g ∧
      getPc t c = getPc s c ∧ Tab.find t.moves c.val = none ∧
      ((coreOf t c).eclDue = ((coreOf s c).eclDue || decide (15 ≤ (recentReplays s c).length)))) ∧
  (∀ (s : State) (c : CoreNo) (t0 : Nat), Tab.find s.moves c.val = some (t0, 0) →
    (coreOf s c).sb = [] → (coreOf s c).cb = [] → ∃ t, exec (.eclipseResume c) s = .next t ∧
      Tab.find t.moves c.val = none ∧ fget t F.fltClspare_SST (c.val / 8) = 2 ∧
      fget t F.fltClspare_RETIRED (c.val / 8) = c.val % 8 ∧
      ((coreOf t c).tlb = [] ∧ (coreOf t c).bitmap = [] ∧ (coreOf t c).pred = []) ∧
      (coreOf t c).g = (coreOf s c).g ∧ getPc t c = getPc s c)

/-! Homes, fabric messages and partners. -/

namespace Sys2Proof.Claims

/-- A request row that obtains no copy: the request it makes of the home (R197). -/
inductive PlainRow : Instr → Requester → Nat → HReq → Prop
  | wrLine (r addr mask d) : PlainRow (.wrLine r addr mask d) r addr.toNat (.wrLine mask d false)
  | cinv (r addr) : PlainRow (.homeCinv r addr) r addr.toNat .cinv
  | ccln (r addr) : PlainRow (.homeCcln r addr) r addr.toNat .ccln
  | cfls (r addr) : PlainRow (.homeCfls r addr) r addr.toNat .cfls

/-- A snoop message and its kind (R201, R225). -/
inductive SnoopRow (m : Msg) : Instr → SnoopKind → Prop
  | rclS : SnoopRow m (.rclS m) .rclS
  | rclI : SnoopRow m (.rclI m) .rclI
  | binv : SnoopRow m (.binv m) .binv
  | snpCur : SnoopRow m (.snpCur m) .snpCur
  | snpCln : SnoopRow m (.snpCln m) .snpCln

/-- The state with one more message waiting to leave. -/
def sent (s : State) (m : Msg) : State := { s with outbox := s.outbox ++ [m] }

/-- A response of this node to message `m` (R225, R226, R247): it repeats its tag, stream, sequence
number and flow. -/
def reply (s : State) (m : Msg) (op stat : Nat) (pois : Bool) (data : List (BitVec 128)) : Msg :=
  { newMsg s m.src.toNat m.cls.toNat op true with
    tag := m.tag, stream := m.stream, sseq := m.sseq, flow := m.flow, stat := BitVec.ofNat 4 stat,
    pois := pois, data := data }

end Sys2Proof.Claims

/-- R194, R197 (rows 1 to 10): a core's RD_S, RD_X and UPG at a home of local DRAM that can serve it
at once. RD_S gives the core a copy, alone (E, with the hold window running) if no one else had one;
RD_X and UPG give it the only copy, for writing. No byte of memory reads differently. (An owner is
the only one with a copy, R193.) -/
def Sys2Proof.Claims.CopyRequests : Prop :=
  ∀ (s : State) (c : CoreNo) (addr : LineAddr) (spec : Bool), HomeReady s c addr.toNat →
    ((lrec s addr.toNat).present ≠ [] ∨ 
      (setMates s addr.toNat LineRec.inSf).length < sfWays s addr.toNat) →
    (∀ o, (lrec s addr.toNat).owner = some o → (lrec s addr.toNat).present = [o]) →
    (∃ t, exec (.rdS (.core c) addr spec) s = .next t ∧ SameBytes s t ∧
      c.val ∈ (lrec t addr.toNat).present ∧
      ((lrec s addr.toNat).present = [] → (lrec t addr.toNat).owner = some c.val ∧
        (lrec t addr.toNat).hold = true)) ∧
    (∀ i, i = .rdX (.core c) addr ∨ i = .upg (.core c) addr →
      ∃ t, exec i s = .next t ∧ SameBytes s t ∧ (lrec t addr.toNat).present = [c.val] ∧
        (lrec t addr.toNat).owner = some c.val)

/-- R197 (rows 11 and 12): a core's WB writes its line's data at the home and gives the line up; its
EVC of a line that it holds unmodified gives it up with no byte changed. No request waits meanwhile. -/
def Sys2Proof.Claims.Evictions : Prop :=
  ∀ (s : State) (c : CoreNo) (addr : LineAddr) (d : Line), HomeReady s c addr.toNat →
    s.homeQ = [] → c.val ∈ (lrec s addr.toNat).present →
    ((lrec s addr.toNat).owner = some c.val → ∃ t, exec (.wb (.core c) addr d) s = .next t ∧
      curLine t addr.toNat = d ∧ c.val ∉ (lrec t addr.toNat).present ∧
      ∀ a : Nat, a / 64 ≠ addr.toNat → curByte t a = curByte s a) ∧
    ((lrec s addr.toNat).data = none → ∃ t, exec (.evc (.core c) addr) s = .next t ∧
      SameBytes s t ∧ c.val ∉ (lrec t addr.toNat).present)

/-- R197 (rows 13 to 18): requests of a core that obtain no copy, at a home of local DRAM that can serve
them at once. RD_CUR changes nothing but the check cache; WR_LINE writes the bytes of its mask and ATOM its
8 bytes, and no cache keeps the line; CINV leaves DRAM's value, CCLN and CFLS write the current one to DRAM.
-/
def Sys2Proof.Claims.UncachedRequests : Prop :=
  (∀ (s : State) (c : CoreNo) (addr : LineAddr), HomeReady s c addr.toNat →
    ∃ k, exec (.rdCur (.core c) addr) s = .next { s with ccache := k }) ∧
  (∀ (s : State) (i : Instr) (c : CoreNo) (l : Nat) (req : HReq), PlainRow i (.core c) l req →
    HomeReady s c l → ∃ t, exec i s = .next t ∧
      (∀ a : Nat, a / 64 ≠ l → curByte t a = curByte s a) ∧
      (∀ mask d, req = .wrLine mask d false → (lrec t l).present = [] ∧
        ∀ k < 64, curByte t (64 * l + k) =
          if mask.getLsbD k = true then d.extractLsb' (8 * k) 8 else curByte s (64 * l + k)) ∧
      (req = .cinv → curLine t l = memLine s l ∧ (lrec t l).present = []) ∧
      (req = .ccln → memLine t l = curLine s l ∧ SameBytes s t ∧
        (lrec t l).present = (lrec s l).present) ∧
      (req = .cfls → memLine t l = curLine s l ∧ SameBytes s t ∧ (lrec t l).present = [])) ∧
  (∀ (s : State) (c : CoreNo) (addr x old : Word), HomeReady s c (addr.toNat / 64) →
    addr.toNat % 8 = 0 → poisonOf s (addr.toNat / 64) = none →
    (∀ i < 8, old.extractLsb' (8 * i) 8 = curByte s (addr.toNat + i)) →
    ∃ t, exec (.atom (.core c) addr (.add x)) s = .next t ∧
      (∀ i < 8, curByte t (addr.toNat + i) = (old + x).extractLsb' (8 * i) 8) ∧
      (lrec t (addr.toNat / 64)).present = [] ∧
      ∀ b : Nat, b < addr.toNat ∨ addr.toNat + 8 ≤ b → curByte t b = curByte s b)

/-- R273, R278: a partner's request. With no matching window it is refused with STAT 1 and one record
joins the miss queue; where the entry lacks a right it needs, it is refused with STAT 2, and no byte
of memory changes. -/
def Sys2Proof.Claims.PartnerRequests : Prop :=
  ∀ (s : State) (n : NodeId) (tag : BitVec 14) (stream : BitVec 8) (sseq : BitVec 16)
    (cls : BitVec 2) (addr : LineAddr) (m : Msg),
    m = rowMsg s n tag stream sseq cls opRdX (64 * addr.toNat) [] →
    (findWindow s n.toNat m.addr.toNat = none →
      ∃ t, exec (.rdX (.node n tag stream sseq cls) addr) s = .next t ∧ SameBytes s t ∧
        t.outbox = s.outbox ++ [reply s m opNak 1 false []] ∧
        (s.missQ = [] → t.missQ.length = 1)) ∧
    (∀ i, findWindow s n.toNat m.addr.toNat = some i →
      fbit s F.winA_C i = false ∨ fbit s F.winA_R i = false ∨ fbit s F.winA_W i = false →
      exec (.rdX (.node n tag stream sseq cls) addr) s =
        .next (sent s (reply s m opNak 2 false [])))

/-- R225, R270, R271, R464: responses to this node's requests, while none of them waits for a tag. One
that answers no transaction changes nothing, but a RETRY_BUSY for a message without one makes it go again
after 1 µs. DATA or NAK to a load, or its timeout, ends the transaction and puts the outcome into the
check buffer of the core; CMP to a store ends it; RETRY_BUSY keeps it, to be sent again. -/
def Sys2Proof.Claims.Responses : Prop :=
  ∀ (s : State) (m : Msg) (t : Tx) (c : Nat), (∀ x ∈ s.txs, x.tag ≠ noTag) →
    (txFor s m = none → exec (.data m) s = .next s ∧ (m.stat ≠ 4 → exec (.nak m) s = .next s) ∧
      (m.stat = 4 → ∃ w, exec (.nak m) s = .next w ∧ w = { s with fab := w.fab } ∧
        ∀ x ∈ s.fab.posted, x.msg.dst = m.src → x.msg.stream = m.stream → x.msg.sseq = m.sseq →
          { x with again := some (tbOf s + 1000) } ∈ w.fab.posted)) ∧
    (txFor s m = some t → t.who = .load c → t.msg.op.toNat = opRdCur → t.fills = false →
      exec (.data m) s = .next (putGot
        { s with txs := s.txs.erase t, proxyQ := (s.proxyQ.filter (fun e => e ≠ (t.pa / 64, c))) }
        c (t.pa / 64)
        (if m.pois = true then .poison else .value (granulesLine m.data).toNat))) ∧
    (txFor s m = some t → t.who = .row c → t.msg.op.toNat = opWrLine →
      exec (.cmpResponse m) s = .next
        { s with txs := s.txs.erase t,
                 proxyQ := (s.proxyQ.filter (fun e => e ≠ (t.pa / 64, c + 384))) }) ∧
    (txFor s m = some t → t.who = .load c → t.msg.op.toNat = opRdCur →
      (m.stat ≠ 4 → ∃ w, exec (.nak m) s = .next w ∧ w.txs = s.txs.erase t ∧
        Tab.find (coreOf w c).got (t.pa / 64) = some (.nak (decide (m.stat = 1)))) ∧
      (m.stat = 4 → ∃ w, exec (.nak m) s = .next w ∧ { t with busy := true } ∈ w.txs ∧
        (coreOf w c).got = (coreOf s c).got)) ∧
    (∀ tag : BitVec 14, s.txs.find? (fun x => x.tag == tag.toNat) = some t → t.who = .load c →
      t.msg.op.toNat = opRdCur → ∃ w, exec (.fabricTimeout tag) s = .next w ∧
        w.txs = s.txs.erase t ∧ Tab.find (coreOf w c).got (t.pa / 64) = some .timeout) ∧
    (∀ tag : BitVec 14, s.txs.find? (fun x => x.tag == tag.toNat && x.busy) = some t →
      exec (.retryBusyResend tag) s = .next (sent { s with txs := s.txs.map (fun x =>
        if x = t then { t with busy := false } else x) } t.msg))

/-- R193, R201, R202: a snoop of a line that this node does not hold is answered NO_COPY; one of a line in
its hold window waits, unless it is an RCL_I that an operation of this node causes; else it is answered with
the modified data if there is any, RCL_I and BINV drop the line, RCL_S leaves it shared, and SNP_CUR keeps
it. -/
def Sys2Proof.Claims.Snoops : Prop :=
  ∀ (s : State) (i : Instr) (m : Msg) (k : SnoopKind) (l : Nat), SnoopRow m i k →
    (fabLine s m.src.toNat m.addr.toNat = none →
      exec i s = .next (sent s (reply s m opSnpr 3 false []))) ∧
    (fabLine s m.src.toNat m.addr.toNat = some l → (lrec s l).hold = true →
      ownWants s k l = false → ∃ t, exec i s = .next t ∧ t.fab.deferred = s.fab.deferred ++ [m] ∧
        t.outbox = s.outbox ∧
        t.lines = s.lines) ∧
    (fabLine s m.src.toNat m.addr.toNat = some l →
      (lrec s l).hold = false ∨ ownWants s k l = true → ∃ t r, exec i s = .next t ∧
        t.outbox = s.outbox ++ [r] ∧ r.op = BitVec.ofNat 6 opSnpr ∧
        r.tag = m.tag ∧ r.stat = 0 ∧
        r.data = ((modified s l).map (fun x => lineGranules x.1)).getD [] ∧
        (k = .rclI ∨ k = .binv → (lrec t l).right = .none ∧ (lrec t l).present = []) ∧
        (k = .rclS → (lrec t l).right = .shared ∧ (lrec t l).owner = none ∧
          (lrec t l).present = (lrec s l).present) ∧
        (k = .snpCur → t.lines = s.lines) ∧ (k = .snpCln → (lrec t l).dirty = false))

/-- R201, R202, R203: at the home. A snoop answer that no snoop waits for changes nothing; one to an
RCL_I of a sharer removes the partner. A snoop is sent again with a new sequence number; a partner
without an answer for 100 µs is logged; a hold window ends once the owner's waiting access has been
performed. -/
def Sys2Proof.Claims.SnoopAnswers : Prop :=
  ∀ (s : State) (m : Msg) (x : Snoop) (addr : LineAddr) (n : NodeId),
    (s.snoops.find? (fun y => y.tag == m.tag.toNat && y.node == m.src.toNat &&
      y.sseqs.contains m.sseq.toNat) = none → exec (.snpr m) s = .next s) ∧
    (s.snoops.find? (fun y => y.tag == m.tag.toNat && y.node == m.src.toNat &&
      y.sseqs.contains m.sseq.toNat) = some x → x.kind = .rclI → (lrec s x.line).powner = none →
      m.data = [] → s.homeQ = [] → ∃ t, exec (.snpr m) s = .next t ∧ t.snoops = s.snoops.erase x ∧
        (lrec t x.line).partners = (lrec s x.line).partners.filter (fun p => p.node ≠ m.src.toNat)) ∧
    (s.snoops.find? (fun y => y.line == addr.toNat && y.node == n.toNat) = some x →
      ∃ t r, exec (.snoopResend addr n) s = .next t ∧ t.outbox = s.outbox ++ [r] ∧
        r.op = BitVec.ofNat 6 x.kind.op ∧ r.stream = 0xF0#8 ∧
        { x with sseqs := x.sseqs ++ [r.sseq.toNat] } ∈ t.snoops) ∧
    ((s.snoops.any (fun y => y.line == addr.toNat && y.node == n.toNat) = false →
        exec (.snoopResend addr n) s = .next s ∧ exec (.partnerSlow addr n) s = .next s) ∧
      (s.snoops.any (fun y => y.line == addr.toNat && y.node == n.toNat) = true →
        s.logHeld = [] → ∃ t r, exec (.partnerSlow addr n) s = .next t ∧ t.logHeld = [r] ∧
          r.code = 0x21 ∧ r.cls = clsCorrected ∧ r.node = n.toNat ∧ r.addr = 64 * addr.toNat)) ∧
    ((lrec s addr.toNat).hold = false → exec (.holdWindowEnd addr) s = .next s) ∧
    ((lrec s addr.toNat).hold = true → s.fab.deferred = [] → s.homeQ = [] →
      (∀ o, (lrec s addr.toNat).owner = some o → (coreOf s (o % 128)).sb = []) →
      ∃ t, exec (.holdWindowEnd addr) s = .next t ∧ SameBytes s t ∧
        ((∀ o, (lrec s addr.toNat).owner = some o → (coreOf s o).wait = none) →
          (lrec t addr.toNat).hold = false) ∧
        (∀ o, (lrec s addr.toNat).owner = some o → o < 128 → (coreOf s o).wait ≠ none →
          (coreOf s o).active = true → Tab.find s.moves o = none →
          (lrec t addr.toNat).hold = true ∧ (lrec t addr.toNat).due = true))

/-- R236, R243–R245: a node that has been silent with a request outstanding becomes SUSPECT and is sent
a PROBE; after NPROBE without an answer it is DEAD. A PROBE_R makes a SUSPECT node ALIVE; a PROBE is
answered wherever the switch forwards; an expired ordering pair is forgotten. -/
def Sys2Proof.Claims.Liveness : Prop :=
  ∀ (s : State) (n : NodeId) (m : Msg) (stream : BitVec 8),
    (fget s F.nodeEnt_LIVE n.toNat ≠ 1 → exec (.suspect n) s = .next s) ∧
    (fget s F.nodeEnt_LIVE n.toNat = 1 → waitsFor s n.toNat = true →
      exec (.suspect n) s = .next (sendProbe (fput s F.nodeEnt_LIVE n.toNat 2) n.toNat) ∧
      probesTo (sendProbe (fput s F.nodeEnt_LIVE n.toNat 2) n.toNat) n.toNat =
        probesTo s n.toNat + 1) ∧
    (fget s F.nodeEnt_LIVE n.toNat ≠ 2 → exec (.probeInterval n) s = .next s) ∧
    (fget s F.nodeEnt_LIVE n.toNat = 2 → probesTo s n.toNat < fget s F.nodeLctl_NPROBE 0 →
      exec (.probeInterval n) s = .next (sendProbe s n.toNat)) ∧
    (fget s F.nodeEnt_LIVE n.toNat = 2 → fget s F.nodeLctl_NPROBE 0 ≤ probesTo s n.toNat →
      s.reclaims.any (fun r => r.node == n.toNat) = true → ∃ t,
        exec (.probeInterval n) s = .next t ∧ fget t F.nodeEnt_LIVE n.toNat = 3) ∧
    (∃ t, exec (.probeR m) s = .next t ∧ probesTo t m.src.toNat = 0 ∧
      (fget s F.nodeEnt_LIVE m.src.toNat = 2 → fget t F.nodeEnt_LIVE m.src.toNat = 1)) ∧
    ((switchOn s = false ∨ selfId s = 0xFFFF → exec (.probe m) s = .next s) ∧
      (switchOn s = true → selfId s ≠ 0xFFFF → ∃ r, exec (.probe m) s = .next (sent s r) ∧
        r.op = BitVec.ofNat 6 opProbeR ∧ r.cls = 3 ∧ r.dst = m.src ∧ r.tag = m.tag)) ∧
    (∃ t, exec (.orderingStateExpiry n stream) s = .next t ∧
      Tab.find t.fab.order (n.toNat, stream.toNat) = none ∧ t.lines = s.lines ∧ t.regs = s.regs)

/-- R207, R208, R210, R243: the end of a reclaim reports DONE, clears BUSY, and the next one begins; a
node that came back with a new epoch is ALIVE with it. -/
def Sys2Proof.Claims.ReclaimEnds : Prop :=
  ∀ (s : State) (r : Reclaim), s.reclaims = [r] → r.todo = [] → r.cmds = [] →
    s.svc.main = [] → s.svc.flash = [] → ∃ t, exec .reclaimComplete s = .next t ∧ t.reclaims = [] ∧
      fbit t F.fltRclStat_DONE 0 = true ∧ fbit t F.fltRclStat_BUSY 0 = false ∧
      (∀ e, r.epoch = some e → e < 256 → fget t F.nodeEnt_LIVE r.node = 1 ∧
        fget t F.nodeEnt_PEPOCH r.node = e)

/-! Links, lanes and the switch. -/

namespace Sys2Proof.Claims

/-- Only the listed registers have changed, and nothing that is no register. -/
def OnlyRegs (s t : State) (l : List (Reg × Nat)) : Prop :=
  t = { s with regs := t.regs } ∧ ∀ (r : Reg) (n : Nat), (r, n) ∉ l → rd t r n = rd s r n

/-- A CTRL flit with a word, with a NAK or without (R222, R233). -/
def ctrlFlit (k : Link) (c : Ctrl) (nak : Bool) : BitVec 2048 :=
  flitBits { typ := 2, nak := nak, ackv := nak || decide (0 < k.toAck), ack := k.ackOf, lseq := 0,
             crp := 0, crn := 0 } { Flit.idle with payload := [ctrlBits c] }

/-- An IDLE flit with an acknowledgement, or with a NAK (R222, R228, R229). -/
def ackFlit (k : Link) (nak : Bool) : BitVec 2048 :=
  flitBits { typ := 0, nak := nak, ackv := true, ack := k.ackOf, lseq := 0, crp := 0, crn := 0 }
    Flit.idle

/-- The bits `f` on port `p` are a DATA flit that the link accepts, without link fields that act
(R220, R228). -/
structure Accepted (s : State) (p : PortNo) (e : Fec) (f : BitVec 2048) : Prop where
  up : portUp s p = true
  on : switchOn s = true
  fec : (decodeFec s p e).1 = true
  crc : lcrcOk (fecBits s p e f.toNat) = true
  data : (linkFieldsOf (fecBits s p e f.toNat)).typ = 1
  next : (linkFieldsOf (fecBits s p e f.toNat)).lseq = (link s p).rxNext
  noAck : (linkFieldsOf (fecBits s p e f.toNat)).ackv = false
  noNak : (linkFieldsOf (fecBits s p e f.toNat)).nak = false
  noCredit : (linkFieldsOf (fecBits s p e f.toNat)).crn = 0
  idle : (link s p).queue = []

/-- Port `q` can send flit `f` at once: it is UP with nothing queued, room in its replay buffer and a
credit (R227, R228). -/
structure CanSend (s : State) (q : Nat) (f : Flit) : Prop where
  up : portUp s q = true
  on : switchOn s = true
  idle : (link s q).queue = []
  room : (link s q).replay.length < 128
  credit : Tab.get 0 (link s q).credits f.pool ≠ 0

/-- A port is DOWN with a reason (R217). -/
def isDown (t : State) (p why : Nat) : Prop :=
  fget t F.fabPstat_ST p = 1 ∧ fget t F.fabPstat_REASON p = why

/-- The spare of lane group `g` carries position `j`, which has failed (R232, R233). -/
def carries (t : State) (g j : Nat) : Prop :=
  fget t F.fabGstat_SST g = 2 ∧ fget t F.fabGstat_SPOS g = j ∧
    bit (fget t F.fabGstat_FAIL g) j = true

end Sys2Proof.Claims

/-- R211, R220, R222, R223, R227–R230, R237–R239: a port that is not UP takes nothing from its link. A
transit flit is accepted and leaves on the port of the node table with one more hop; one in a codeword that
does not decode is counted and NAKed. Acknowledgements free, NAKs and timeouts resend, and the eighth
resend in succession takes the port DOWN. CTRL words are repeated until they are acknowledged (DESIGN
CHOICE, assumption 113: when). A waiting message is packed and sent. -/
def Obligations.LinkFlits : Prop :=
  ∀ (s : State) (p : PortNo) (e : Fec) (f : BitVec 2048) (v : Nat), v = fecBits s p e f.toNat →
    (portUp s p = false → s.fab.inbox = [] → ∀ (k : Ctrl) (n : BitVec 8),
      exec (.dataFlit p e f) s = .next s ∧ exec (.idleFlit p e f) s = .next s ∧
      exec (.ctrlFlit p ⟨e, f, k⟩) s = .next s ∧ exec (.linkNak p n) s = .next s ∧
      exec (.replayTimeout p) s = .next s) ∧
    (∀ (q : Nat) (a : Bool) (g : Flit), Accepted s p e f → s.fab.inbox = [] →
      (flitOf v).isTsync = false → selfId s ≠ 0xFFFF → (flitOf v).dst ≠ 0xFFFF → (flitOf v).dst ≠ selfId s →
      (flitOf v).hops < 15 → (flitOf v).cls ≠ 0 →
      tableRoute s (flitOf v).dst (some p.val) = some (q, a) →
      g = { flitOf v with
        hops := (flitOf v).hops + 1, alt := (flitOf v).alt || a } → CanSend s q g →
      ∃ t, exec (.dataFlit p e f) s = .next t ∧
        (link t p).rxNext = ((link s p).rxNext + 1) % 256 ∧
        (link t q).wire = (link s q).wire ++ [dataBits (link s q) (link s q).lseq g]) ∧
    (portUp s p = true → switchOn s = true → s.fab.inbox = [] → (decodeFec s p e).1 = false →
      ∀ i, i = .dataFlit p e f ∨ i = .idleFlit p e f →
        ∃ t, exec i s = .next t ∧ (link t p).discard = true ∧
          (link t p).wire = (link s p).wire ++ [ackFlit (link s p) true] ∧
          fget t F.fabPerr_UNCOR p =
            min (fget s F.fabPerr_UNCOR p + (e.errs.filter (fun x => (decodeWord x).isNone)).length) 65535) ∧
    (portUp s p = true → (decodeFec s p e).1 = true → lcrcOk v = true →
      (linkFieldsOf v).nak = false → (link s p).queue = [] →
      ∃ t, exec (.idleFlit p e f) s = .next t ∧ t.regs = (decodeFec s p e).2.regs ∧
        (link t p).replay = (if (linkFieldsOf v).ackv = true then
          (afterLseq (linkFieldsOf v).ack (link s p).replay).getD (link s p).replay
          else (link s p).replay) ∧
        Tab.get 0 (link t p).credits (linkFieldsOf v).crp =
          Tab.get 0 (link s p).credits (linkFieldsOf v).crp + (linkFieldsOf v).crn) ∧
    (∀ (n : BitVec 8) (r : List (Nat × Flit × Option Nat)), portUp s p = true → (link s p).queue = [] →
      afterLseq n.toNat (link s p).replay = some r → r ≠ [] →
      ∃ t, exec (.linkNak p n) s = .next t ∧ (link t p).replay = r ∧
        (link t p).wire = (link s p).wire ++
          r.map (fun x => dataBits (link s p) x.1 (stampT1 s x.2.1))) ∧
    (portUp s p = true → (link s p).replay ≠ [] →
      ((link s p).resends < 8 → ∃ t, exec (.replayTimeout p) s = .next t ∧
        (link t p).replay = (link s p).replay ∧ (link t p).resends = (link s p).resends + 1 ∧
        (link t p).wire = (link s p).wire ++
          (link s p).replay.map (fun x => dataBits (link s p) x.1 (stampT1 s x.2.1)) ∧
        fget t F.fabPerr_REPLAY p = min (fget s F.fabPerr_REPLAY p + 1) 65535) ∧
      (8 ≤ (link s p).resends → ∃ t, exec (.replayTimeout p) s = .next t ∧ isDown t p 4)) ∧
    ((link s p).toAck = 0 → (link s p).ctrls = [] → exec (.ackTimer p) s = .next s) ∧
    (portUp s p = true → ∃ t, exec (.ackTimer p) s = .next t ∧ (link t p).toAck = 0 ∧
      (link t p).wire = (link s p).wire ++
        (if 0 < (link s p).toAck then [ackFlit (link s p) false] else []) ++
        (link s p).ctrls.map (fun c => ctrlFlit { link s p with toAck := 0 } c false) ∧
      t.regs = s.regs) ∧
    (s.outbox = [] → exec .flitFillTimeout s = .next s) ∧
    (∀ (m : Msg) (q : Nat) (a : Bool) (g : Flit), s.outbox = [m] → direct s m = false →
      selfId s ≠ 0xFFFF → m.dst.toNat ≠ selfId s → m.cls ≠ 0 → m.data.length ≤ 14 →
      tableRoute s m.dst.toNat none = some (q, a) →
      g = { cls := m.cls.toNat, vc := m.vc, alt := a, dst := m.dst.toNat, src := m.src.toNat,
            sepoch := m.sepoch.toNat, hops := 0, flow := m.flow.toNat, payload := msgGranules m } →
      CanSend s q g → ∃ t, exec .flitFillTimeout s = .next t ∧ t.outbox = [] ∧
        (link t q).wire = (link s q).wire ++ [dataBits (link s q) (link s q).lseq g])

/-- R217–R219, R227, R235, R246, R254, R400, R456: a DOWN port starts to train again; each phase leads to
the next; wiring that does not agree takes the port DOWN, and the last phase brings it UP with the peer's
credits, while the peer holds those of this port's receive pools. A phase over its limit, a lost signal or
reference clock takes a port DOWN; a PORT reset retrains it; a running port measures its delay. -/
def Obligations.LinkTraining : Prop :=
  ∀ (s : State) (p : PortNo) (info : TrainInfo) (d : BitVec 32),
    (fget s F.fabPstat_ST p ≠ 1 → exec (.trainingRetry p) s = .next s) ∧
    (fget s F.fabPstat_ST p = 1 → portExists s p = true → s.dev.ps1 = false →
      s.dev.off = false → ∃ t, exec (.trainingRetry p) s = .next t ∧
        fget t F.fabPstat_ST p = 2 ∧ (link t p).phase = 1) ∧
    (fget s F.fabPstat_ST p ≠ 2 → exec (.trainingPhaseDone p info) s = .next s ∧
      exec (.trainingLimit p) s = .next s) ∧
    (fget s F.fabPstat_ST p = 2 → ∃ t, exec (.trainingPhaseDone p info) s = .next t ∧
      ((link s p).phase < 3 ∨ (link s p).phase = 4 ∨ (link s p).phase = 5 →
        (link t p).phase = (link s p).phase + 1 ∧ t.regs = s.regs) ∧
      ((link s p).phase = 3 → info.wired = false → isDown t p 3) ∧
      ((link s p).phase = 3 → info.wired = true → fget t F.fabPstat_PEER p = info.peer.toNat ∧
        fget t F.fabPstat_PPORT p = info.pport.val ∧ fbit t F.fabPstat_REV p = info.rev ∧
        (link t p).phase = if fbit s F.fabGcfg_NRZ (p.val / 16) then 6 else 4) ∧
      (6 ≤ (link s p).phase → fget t F.fabPstat_ST p = 3 ∧
        fget t F.fabPstat_AW p = widthCode s p ∧ fbit t F.fabPstat_RATE p = (link s p).nrz ∧
        (link t p).lseq = 0 ∧ (link t p).rxNext = 0 ∧ (link t p).replay = [] ∧
        ∀ i < 16, Tab.get 0 (link t p).credits i = info.credits.getD i 0 ∧
          Tab.get 0 (link t p).given i = (rxPools s p).getD i 0)) ∧
    (fget s F.fabPstat_ST p = 2 → ∃ t, exec (.trainingLimit p) s = .next t ∧
      (((link s p).phase = 4 ∨ (link s p).phase = 5) ∧ 1 ≤ (link s p).fails →
        (link t p).phase = 6 ∧ (link t p).nrz = true ∧ t.regs = s.regs) ∧
      (¬(((link s p).phase = 4 ∨ (link s p).phase = 5) ∧ 1 ≤ (link s p).fails) →
        isDown t p 2)) ∧
    (portUp s p = false → fget s F.fabPstat_ST p ≠ 2 → exec (.noSignal p) s = .next s) ∧
    (portUp s p = true ∨ fget s F.fabPstat_ST p = 2 →
      ∃ t, exec (.noSignal p) s = .next t ∧ isDown t p 1) ∧
    (∀ g : Fin 32, ∃ t, exec (.grefclkLoss g) s = .next t ∧ ∀ b < 16,
      portUp s (16 * g.val + b) = true ∨ fget s F.fabPstat_ST (16 * g.val + b) = 2 →
      isDown t (16 * g.val + b) 1) ∧
    (portExists s p = false → exec (.portReset p) s = .next s) ∧
    (portExists s p = true → s.dev.ps1 = false → s.dev.off = false →
      ∃ t, exec (.portReset p) s = .next t ∧ fget t F.fabPstat_ST p = 2 ∧
        fget t F.fabPstat_REASON p = 7 ∧ rd t .fabPerr p = 0 ∧ rd t .tbPdly p = 0) ∧
    (portUp s p = false → exec (.portDelayMeasure p d) s = .next s) ∧
    (portUp s p = true → ∃ t, exec (.portDelayMeasure p d) s = .next t ∧
      (∀ (r : Reg) (n : Nat), (r, n) ≠ (.tbPdly, p.val) → rd t r n = rd s r n) ∧
      fget t F.tbPdly_DLY p = d.toNat / 2 ∧ fbit t F.tbPdly_V p = true ∧
      (link t p).wire = (link s p).wire ++ [ctrlFlit (link s p) .delay false] ∧
      (link t p).ctrls = addNew (link s p).ctrls .delay)

/-- R213, R231–R234: the STANDBY spare of a group shadows a suspect position and takes it over, at once
where the lane is lost; with the spare used up, a port that loses a lane goes on with half its width,
and an x1 port goes DOWN. A swap or reform asks for one link retry. The transmitter follows the peer's
CTRL words; a word that comes back is acknowledged (DESIGN CHOICE, assumption 113). -/
def Obligations.LaneSparing : Prop :=
  ∀ (s : State) (g : Fin 32) (j : Fin 16),
    (fget s F.fabGstat_SST g ≠ 0 ∨ portAt s g j = none →
      exec (.laneSuspect g j) s = .next s) ∧
    (∀ p, fget s F.fabGstat_SST g = 0 → portAt s g j = some p →
      ∃ t, exec (.laneSuspect g j) s = .next t ∧ fget t F.fabGstat_SST g = 1 ∧
        fget t F.fabGstat_SHIDX g = j.val ∧
        (∀ (r : Reg) (n : Nat), (r, n) ≠ (.fabGstat, g.val) → rd t r n = rd s r n) ∧
        (portUp s p = true → (link t p).ctrls = addNew (link s p).ctrls (.shadow j) ∧
          (link t p).wire = (link s p).wire ++ [ctrlFlit (link s p) (.shadow j) false])) ∧
    (s.svc.main = [] → s.svc.flash = [] →
      (fget s F.fabGstat_SST g ≠ 1 → exec (.laneSpared g) s = .next s) ∧
      (fget s F.fabGstat_SST g = 1 → ∃ t, exec (.laneSpared g) s = .next t ∧
        carries t g (fget s F.fabGstat_SHIDX g))) ∧
    (∃ t, exec (.laneLost g 16) s = .next t ∧ fget t F.fabGstat_SST g = 3) ∧
    (portAt s g j = none ∨ (fget s F.fabGstat_SST g = 2 ∧ fget s F.fabGstat_SPOS g = j.val) →
      exec (.laneLost g j.castSucc) s = .next s) ∧
    (∀ p, portAt s g j = some p →
      (fget s F.fabGstat_SST g < 2 → ∃ t, exec (.laneLost g j.castSucc) s = .next t ∧
        carries t g j ∧ (portUp s p = true → (link t p).discard = true ∧
          (link t p).wire = (link s p).wire ++ [ctrlFlit (link s p) (.swap j) true])) ∧
      (fget s F.fabGstat_SST g = 3 ∨
          (fget s F.fabGstat_SST g = 2 ∧ fget s F.fabGstat_SPOS g ≠ j.val) →
        ∃ t, exec (.laneLost g j.castSucc) s = .next t ∧
          bit (fget t F.fabGstat_FAIL g) j = true ∧
          (portUp s p = true → p % 16 + (link s p).lo ≤ j.val →
            j.val < p % 16 + (link s p).lo + widthOf (fget s F.fabPstat_AW p) →
            (fget s F.fabPstat_AW p = 1 → isDown t p 5) ∧
            (2 ≤ fget s F.fabPstat_AW p →
              healthyRun (markFail s g j) p (link s p).lo (2 ^ (fget s F.fabPstat_AW p - 2)) = true →
              fget t F.fabPstat_AW p = fget s F.fabPstat_AW p - 1 ∧ fget t F.fabPstat_ST p = 4 ∧
                (link t p).lo = (link s p).lo)))) ∧
    (fget s F.fabGstat_SST g ≠ 0 → exec (.standbyRotate g) s = .next s) ∧
    (∀ d, fget s F.fabGstat_SST g = 0 → 1 ≤ d → d ≤ 16 →
      (∀ e p, 1 ≤ e → e < d → portAt s g ((fget s F.fabGstat_SHIDX g + e) % 16) = some p →
        fget s F.fabPstat_ST p ≠ 3) →
      (∃ p, portAt s g ((fget s F.fabGstat_SHIDX g + d) % 16) = some p ∧
        fget s F.fabPstat_ST p = 3) →
      ∃ t, exec (.standbyRotate g) s = .next t ∧ OnlyRegs s t [(.fabGstat, g)] ∧
        fget t F.fabGstat_SHIDX g = (fget s F.fabGstat_SHIDX g + d) % 16) ∧
    (∀ (p : PortNo) (e : Fec) (f : BitVec 2048) (k : Ctrl) (w : Fin 6), p.val / 16 = g.val →
      (∀ u, portUp s p = true → decodeFec s p e = (true, u) → lcrcOk (fecBits s p e f.toNat) = true →
        (linkFieldsOf (fecBits s p e f.toNat)).ackv = false →
        (linkFieldsOf (fecBits s p e f.toNat)).nak = false →
        (linkFieldsOf (fecBits s p e f.toNat)).crn = 0 → (link s p).queue = [] →
        (k ∈ (link s p).ctrls → exec (.ctrlFlit p ⟨e, f, k⟩) s =
          .next (setLink u p { link u p with ctrls := (link s p).ctrls.erase k })) ∧
        (k ∉ (link s p).ctrls → ∃ t, exec (.ctrlFlit p ⟨e, f, k⟩) s = .next t ∧
          t.regs = (ctrlEffect u p k).regs ∧ (link t p).lo = (link (ctrlEffect u p k) p).lo ∧
          (portUp (ctrlEffect u p k) p = true →
            (link t p).wire = (link s p).wire ++ [ctrlFlit (link s p) k false]))) ∧
      (k = .delay ∨ (∃ x, k = .equalise x) ∨ (k = .shadow j ∧ fget s F.fabGstat_SST g ≠ 0) ∨
        (k = .reform j w ∧ (w.val = 0 ∨ fget s F.fabPstat_AW p ≤ w.val)) → ctrlEffect s p k = s) ∧
      (k = .shadow j → fget s F.fabGstat_SST g = 0 → OnlyRegs s (ctrlEffect s p k) [(.fabGstat, g)] ∧
        fget (ctrlEffect s p k) F.fabGstat_SST g = 1 ∧
        fget (ctrlEffect s p k) F.fabGstat_SHIDX g = j.val) ∧
      (k = .taken j ∨ k = .swap j → OnlyRegs s (ctrlEffect s p k) [(.fabGstat, g)] ∧
        carries (ctrlEffect s p k) g j) ∧
      (k = .reform j w → 1 ≤ w.val → w.val < fget s F.fabPstat_AW p →
        fget (ctrlEffect s p k) F.fabPstat_ST p = 4 ∧
        fget (ctrlEffect s p k) F.fabPstat_AW p = w.val ∧
        (link (ctrlEffect s p k) p).lo = j.val - p.val % 16))

/-- R252, R253, R263: a flow's bucket releases its oldest flit once it holds a token; a copy that has
waited too long on a member is dropped; the end of a bank copy leaves the shadow bank equal to the
active one. -/
def Obligations.TideAndBanks : Prop :=
  ∀ (s : State) (f : Fin 4096) (p : PortNo),
    ((bucketNow s f).queue = [] ∨ fget s F.tideFlowb_RATE f = 0 →
      exec (.tokenBucketRelease f) s = .next s) ∧
    (∀ (b : Bucket) (q : QFlit) (qs : List QFlit), Tab.find s.fab.buckets f.val = some b →
      b.queue = q :: qs → b.tb ≤ tbOf s → fget s F.tideFlowb_RATE f ≠ 0 →
      fget s F.tideFlowb_BURST f ≠ 0 → tbOf s + oneFlit < 2 ^ 64 →
      ∃ t b', exec (.tokenBucketRelease f) s = .next t ∧
        Tab.find t.fab.buckets f.val = some b' ∧ b'.queue = qs) ∧
    ((link s p).queue.find? (fun q => q.tide && q.flit.flow == f.val) = none →
      exec (.tideCopyTimeout f p) s = .next s) ∧
    (∀ q, (link s p).queue.find? (fun q => q.tide && q.flit.flow == f.val) = some q →
      ∃ t, exec (.tideCopyTimeout f p) s = .next t ∧ (link t p).queue = (link s p).queue.erase q ∧
        t.regs = s.regs) ∧
    (fbit s F.nodeRbstat_COPY 0 = false → exec .bankCopyDone s = .next s) ∧
    (fbit s F.nodeRbstat_COPY 0 = true → s.svc.main = [] → s.svc.flash = [] →
      ∃ t, exec .bankCopyDone s = .next t ∧ fbit t F.nodeRbstat_COPY 0 = false ∧
        fbit t F.nodeRbstat_HELD 0 = false ∧
        ∀ n : Nat, activeRoute t n = activeRoute s n ∧
          (Tab.get 0 t.fab.shadow n).toNat = activeRoute s n)

/-! Windows, vports and mailboxes. -/

namespace Sys2Proof.Claims

/-- The home of line `l` of local DRAM can serve the device at once. -/
def DevReady (s : State) (l : Nat) : Prop := HomeReady s 0 l ∧ (lrec s l).hold = false ∧
  poisonOf s l = none

/-- Entry `i` of the window buffer is the staged one. -/
def staged (s t : State) (i : Nat) : Prop := rd t .winA i = rd s .winStg0 0 ∧
  rd t .winB i = rd s .winStg1 0

/-- Every window entry that is not in the list is as it was. -/
def otherWindows (s t : State) (l : List Nat) : Prop :=
  ∀ i : Nat, i ∉ l → rd t .winA i = rd s .winA i ∧ rd t .winB i = rd s .winB i

/-- A vport command ends at once with a status, with nothing else changed but VP_CMD (R280). -/
def endsWith (i : Instr) (s : State) (code : Nat) : Prop :=
  ∃ t, exec i s = .next t ∧ fget t F.vpCmd_STATUS 0 = code ∧ t.vps = s.vps ∧
    ∀ (r : Reg) (n : Nat), r ≠ .vpCmd → rd t r n = rd s r n

/-- The five vport commands, with their codes (R280). -/
inductive VpRow (v : Fin 4096) : Instr → Prop
  | create : VpRow v (.vpCreate v)
  | destroy : VpRow v (.vpDestroy v)
  | freeze : VpRow v (.vpFreeze v)
  | restore : VpRow v (.vpRestore v)
  | thaw : VpRow v (.vpThaw v)

end Sys2Proof.Claims

/-- R274–R278: while BUSY a window command is ignored. LOAD and INSERT place the staged entry, at
INDEX or at the lowest free one, where its fields, its vport and the quota allow it, and else state
why not; INVALIDATE removes one entry, and OP 4 all of a vport's. A read of the miss queue takes its
oldest record. -/
def Obligations.Windows : Prop :=
  ∀ (s : State) (i : Fin 32768) (v : Fin 4096) (p : Nat), p = fget s F.winStg0_VPORT 0 →
    (fbit s F.winCmd_BUSY 0 = true → ∀ c, c = .winLoad i ∨ c = .winInsert ∨
      c = .winInvalidate i ∨ c = .winInvalidateVport v → exec c s = .next s) ∧
    (fbit s F.winCmd_BUSY 0 = false →
      (stagedOk s = false → ∀ c, c = .winLoad i ∨ c = .winInsert →
        ∃ t, exec c s = .next t ∧ fget t F.winCmd_STATUS 0 = 1 ∧ otherWindows s t []) ∧
      (stagedOk s = true → vpLive s p = false → ∀ c, c = .winLoad i ∨ c = .winInsert →
        ∃ t, exec c s = .next t ∧ fget t F.winCmd_STATUS 0 = 3 ∧ otherWindows s t []) ∧
      (stagedOk s = true → vpLive s p = true →
        ((winOf s p (some i.val)).length < quotaOf s p → ∃ t, exec (.winLoad i) s = .next t ∧
          fget t F.winCmd_STATUS 0 = 0 ∧ staged s t i ∧ otherWindows s t [i.val]) ∧
        (quotaOf s p ≤ (winOf s p (some i.val)).length → ∃ t, exec (.winLoad i) s = .next t ∧
          fget t F.winCmd_STATUS 0 = 3 ∧ otherWindows s t []) ∧
        ((winOf s p none).length < quotaOf s p → fbit s F.winA_V i = false →
          (∀ j < i.val, fbit s F.winA_V j = true) → ∃ t, exec .winInsert s = .next t ∧
            fget t F.winCmd_STATUS 0 = 0 ∧ fget t F.winCmd_INDEX 0 = i.val ∧ staged s t i ∧
            otherWindows s t [i.val]) ∧
        (quotaOf s p ≤ (winOf s p none).length →
          (∀ j ∈ winOf s p none, fbit s F.winA_L j = true) → ∃ t, exec .winInsert s = .next t ∧
            fget t F.winCmd_STATUS 0 = 2 ∧ otherWindows s t [])) ∧
      (∃ t, exec (.winInvalidate i) s = .next t ∧ fget t F.winCmd_STATUS 0 = 0 ∧
        rd t .winA i = 0 ∧ rd t .winB i = 0 ∧ otherWindows s t [i.val]) ∧
      (∃ t, exec (.winInvalidateVport v) s = .next t ∧ fget t F.winCmd_STATUS 0 = 0 ∧
        (∀ j : Nat, fbit t F.winA_V j = true → fget t F.winA_VPORT j ≠ v.val) ∧
        otherWindows s t (winOf s v none))) ∧
    (s.missQ = [] → ∃ t, exec .winMqRead s = .next t ∧ t.out.word = 0 ∧ t.missQ = []) ∧
    (∀ r q, s.missQ = r :: q → ∃ t, exec .winMqRead s = .next t ∧
      t.out.word = BitVec.ofNat 64 r ∧ t.missQ = q)

/-- R279–R281, R286: a vport command is ignored while another runs, and refused for vport 0 or in the
wrong state. CREATE makes the vport that its block describes; DESTROY frees it; FREEZE writes its blob
and leaves it FROZEN; RESTORE takes a good blob and THAW none, and the vport is ACTIVE again. -/
def Obligations.VportCommands : Prop :=
  ∀ (s : State) (v : Fin 4096) (st a : Nat), st = fget s F.vpStat_STATE v →
    a = fget s F.vpArg_ADDR 0 * 64 →
    (fbit s F.vpCmd_BUSY 0 = true → ∀ i, VpRow v i → exec i s = .next s) ∧
    (fbit s F.vpCmd_BUSY 0 = false →
      (v = 0 → ∀ i, VpRow v i → endsWith i s 1) ∧
      (v ≠ 0 → ∀ i, (i = .vpDestroy v ∧ st ≠ 1 ∧ st ≠ 2) ∨
        (i = .vpFreeze v ∧ (st ≠ 1 ∨ fbit s F.vpStat_REM v = true)) ∨
        ((i = .vpRestore v ∨ i = .vpThaw v) ∧ st ≠ 2) → endsWith i s 1) ∧
      (v ≠ 0 →
        ((st ≠ 0 → endsWith (.vpCreate v) s 1) ∧
        (st = 0 → visTop s < a + 64 → endsWith (.vpCreate v) s 2) ∧
        (st = 0 → DevReady s (a / 64) → ∀ d, d = curLine s (a / 64) →
          (paramOk s (lineBytes d) = false → ∃ t, exec (.vpCreate v) s = .next t ∧
            fget t F.vpCmd_STATUS 0 = 2 ∧ t.vps = s.vps) ∧
          (paramOk s (lineBytes d) = true → poolBusy s v (paramOf (lineBytes d)) = true →
            ∃ t, exec (.vpCreate v) s = .next t ∧ fget t F.vpCmd_STATUS 0 = 3 ∧ t.vps = s.vps) ∧
          (paramOk s (lineBytes d) = true → poolBusy s v (paramOf (lineBytes d)) = false →
            ∃ t, exec (.vpCreate v) s = .next t ∧ fget t F.vpCmd_STATUS 0 = 0 ∧
              fbit t F.vpCmd_BUSY 0 = false ∧
              Tab.find t.vps v.val = some (paramOf (lineBytes d)) ∧
              (∀ i < (paramOf (lineBytes d)).moncnt,
                fbit t F.monSel_EN ((paramOf (lineBytes d)).monbase + i) = false) ∧
              fget t F.vpStat_STATE v = (if (d.getLsbD 26) = true then 2 else 1))) ∧
        (∀ q, (st = 1 ∨ st = 2) → Tab.find s.vps v.val = some q →
          (chansOf q).any (chanBusy s) = false → (∀ x ∈ s.homeQ, x.vport ≠ v.val) →
            ∃ t, exec (.vpDestroy v) s = .next t ∧
            fget t F.vpCmd_STATUS 0 = 0 ∧ fget t F.vpStat_STATE v = 0 ∧
            Tab.find t.vps v.val = none ∧
            (∀ i < q.moncnt, fbit t F.monSel_EN (q.monbase + i) = false) ∧
            ∀ j : Nat, fbit t F.winA_V j = true → fget t F.winA_VPORT j ≠ v.val) ∧
        (st = 1 → fbit s F.vpStat_REM v = false → visTop s < a + blobLen s v →
          endsWith (.vpFreeze v) s 2) ∧
        (∀ q, st = 1 → fbit s F.vpStat_REM v = false → Tab.find s.vps v.val = some q →
          vpQuiet s v q = true → vpHeldLines s v = [] → a + blobLen s v ≤ visTop s →
          (∀ l, a ≤ 64 * l → 64 * l < a + blobLen s v → DevReady s l) →
          ∃ t, exec (.vpFreeze v) s = .next t ∧ fget t F.vpCmd_STATUS 0 = 0 ∧
            fget t F.vpStat_STATE v = 2 ∧
            (∀ k < blobLen s v, curByte t (a + k) = (vpBlob t v q).getD k 0) ∧
            (∀ n : Nat, chan t n = chan s n) ∧ tbOf t = tbOf s ∧
            (∀ (r : Reg) (n : Nat), r ≠ .vpCmd → r ≠ .monCnt → (r, n) ≠ (.vpStat, v.val) →
              rd t r n = rd s r n) ∧
            (∀ m : Nat, unseenMon.contains (fget s F.monSel_EVENT m) = false →
              rd t .monCnt m = rd s .monCnt m) ∧
            ∀ b : Nat, b < a ∨ a + blobLen s v ≤ b → curByte t b = curByte s b) ∧
        (∀ q bs, st = 2 → Tab.find s.vps v.val = some q →
          bs = (upto (64 * ((blobLen s v + 63) / 64))).map (fun k => curByte s (a + k)) →
          blobOk bs q.ccnt q.moncnt = true → leAt bs 8 2 = q.ccnt → leAt bs 10 1 = q.moncnt →
          a + 64 * ((blobLen s v + 63) / 64) ≤ visTop s →
          (∀ l, a ≤ 64 * l → 64 * l < a + blobLen s v → DevReady s l) →
          ∃ t, exec (.vpRestore v) s = .next t ∧ fget t F.vpCmd_STATUS 0 = 0 ∧
            fget t F.vpStat_STATE v = 1 ∧ fget t F.vpMdb_M2T_P v = leAt bs 16 1 ∧
            fget t F.vpMdb_M2T_C v = leAt bs 17 1 ∧ fget t F.vpMdb_T2M_P v = leAt bs 18 1 ∧
            fget t F.vpMdb_T2M_C v = leAt bs 19 1) ∧
        (st = 2 → ∃ t, exec (.vpThaw v) s = .next t ∧ fget t F.vpCmd_STATUS 0 = 0 ∧
          fget t F.vpStat_STATE v = 1 ∧
          ∀ (r : Reg) (n : Nat), r ≠ .vpCmd → (r, n) ≠ (.vpStat, v.val) → rd t r n = rd s r n))))

/-- R283, R284: a written index is taken where it keeps at most 16 slots in use, and else is left and
logged; the manager of a REMOTE vport produces nothing. A MSG from the paired node is placed in the
next slot of the tenant; any other is dropped and logged. -/
def Obligations.Mailboxes : Prop :=
  (∀ (s : State) (v : Fin 4096) (x : BitVec 32), ∃ t, exec (.vpMdbWrite v x) s = .next t ∧
    (idxDiff (fget s F.vpMdb_T2M_P v) (x.extractLsb' 8 8).toNat ≤ 16 →
      fget t F.vpMdb_T2M_C v = (x.extractLsb' 8 8).toNat) ∧
    (16 < idxDiff (fget s F.vpMdb_T2M_P v) (x.extractLsb' 8 8).toNat →
      (x.extractLsb' 8 8).toNat ≠ fget s F.vpMdb_T2M_C v →
      fget t F.vpMdb_T2M_C v = fget s F.vpMdb_T2M_C v ∧
        (s.logHeld = [] → ∃ r ∈ t.logHeld, r.code = 0x62 ∧ r.unit = v.val)) ∧
    (fbit s F.vpStat_REM v = false →
      idxDiff (x.extractLsb' 0 8).toNat (fget s F.vpMdb_M2T_C v) ≤ 16 →
      fget t F.vpMdb_M2T_P v = (x.extractLsb' 0 8).toNat) ∧
    (fbit s F.vpStat_REM v = true → fget t F.vpMdb_M2T_P v = fget s F.vpMdb_M2T_P v) ∧
    fget t F.vpMdb_M2T_C v = fget s F.vpMdb_M2T_C v ∧
    fget t F.vpMdb_T2M_P v = fget s F.vpMdb_T2M_P v ∧ SameBytes s t) ∧
  (∀ (s : State) (c : CoreNo) (k : Fin 16) (x : BitVec 32),
    (tenantVport s (fget s F.vmid_VMID c) k = none → exec (.vtDbWrite c k x) s = .next s) ∧
    (∀ v, tenantVport s (fget s F.vmid_VMID c) k = some v →
      ∃ t, exec (.vtDbWrite c k x) s = .next t ∧
        (idxDiff (fget s F.vpMdb_M2T_P v) (x.extractLsb' 8 8).toNat ≤ 16 →
          fget t F.vpMdb_M2T_C v = (x.extractLsb' 8 8).toNat) ∧
        (idxDiff (x.extractLsb' 0 8).toNat (fget s F.vpMdb_T2M_C v) ≤ 16 →
          fget t F.vpMdb_T2M_P v = (x.extractLsb' 0 8).toNat) ∧
        fget t F.vpMdb_M2T_P v = fget s F.vpMdb_M2T_P v ∧
        (s.degraded = [] → s.twin = [] → s.bad = [] → SameBytes s t))) ∧
  (∀ (s : State) (m : Msg) (v : Nat), v = m.addr.toNat % 4096 →
    (pairedWith s v m.src.toNat = false → ∃ t, exec (.msg m) s = .next t ∧ SameBytes s t ∧
      fget t F.vpMdb_M2T_P v = fget s F.vpMdb_M2T_P v ∧
      (s.logHeld = [] → ∃ r, t.logHeld = [r] ∧ r.code = 0x62 ∧ r.unit = v ∧ r.d0 = 1)) ∧
    (∀ p a, Tab.find s.vps v = some p → pairedWith s v m.src.toNat = true →
      a = p.mbox + 64 * (fget s F.vpMdb_M2T_P v % 16) → a % 64 = 0 →
      (p.freeze = true ∨ dirtyBit p a = none) →
      (∀ x ∈ s.fab.deferred, x.op = m.op → x.addr.toNat % 4096 ≠ v) → DevReady s (a / 64) →
        ∃ t, exec (.msg m) s = .next t ∧
        fget t F.vpMdb_M2T_P v = (fget s F.vpMdb_M2T_P v + 1) % 256 ∧
        curLine t (a / 64) = granulesLine m.data ∧
        ∀ b : Nat, b / 64 ≠ a / 64 → curByte t b = curByte s b))

/-! Comet engines. -/

namespace Sys2Proof.Claims

/-- No home has work waiting, no partner or hold window concerns any line, and DRAM is initialised,
whole, with no bad bit and without poison. -/
structure Calm (s : State) : Prop where
  queue : s.homeQ = []
  done : s.homeDone = []
  lines : ∀ l : Nat, (lrec s l).partners = [] ∧ (lrec s l).powner = none ∧ (lrec s l).hold = false
  init : fbit s F.memqMode_INIT 0 = true
  slices : s.migrating = none
  whole : s.degraded = []
  stripes : s.twin = []
  bits : s.bad = []
  served : s.deadCh = []
  clean : ∀ l : Nat, 64 * l < visTop s → poisonOf s l = none

/-- A privileged channel of no vport in state `st`, at an instruction of four words in local DRAM that
it has not begun, though it may have fetched it, with nothing outstanding and no HOLD (R311, R318, R319). -/
structure ChanAt (s : State) (n : ChanNo) (st w0 a b c : Nat) : Prop where
  priv : n.val < 64
  own : chanVport s n = 0
  free : mustHold s n = false
  state : chanSt s n = st
  on : s.dev.halted = false
  fresh : (chan s n).prog = false ∧ (chan s n).retrying = false ∧ (chan s n).got = [] ∧
    (chan s n).done = [] ∧ (chan s n).bad = none ∧ (chan s n).pair = none
  fetched : (chan s n).cur = none ∨ (chan s n).cur = some (w0, a, b, c)
  calm : Calm s
  aligned : (chan s n).pc % 32 = 0
  place : (chan s n).pc + 32 ≤ visTop s
  words : ∀ k < 32, curByte s ((chan s n).pc + k) =
    (natLe w0 8 ++ natLe a 8 ++ natLe b 8 ++ natLe c 8).getD k 0
  small : w0 < 2 ^ 64 ∧ a < 2 ^ 64 ∧ b < 2 ^ 64 ∧ c < 2 ^ 64

/-- Channel `n` is in state `st` at the instruction after its last one (R319). -/
def atNext (s t : State) (n : ChanNo) (st : Nat) : Prop :=
  chanSt t n = st ∧ (chan t n).pc = (chan s n).pc + 32 ∧ (chan t n).prog = false

/-- Two ranges of addresses have no byte in common. -/
def apart (a n b m : Nat) : Prop := n = 0 ∨ m = 0 ∨ a + n ≤ b ∨ b + m ≤ a

/-- A vector of channel `n` that can be raised is pending (R324). -/
def raised (s t : State) (n : ChanNo) : Prop := 0x50 ≤ fget s F.cmtInt_VECTOR n →
  pendBit t (fget s F.cmtInt_TARGET n) (fget s F.cmtInt_VECTOR n) = true

/-- The rows of the six instructions, with their operation codes (R318). -/
inductive CometRow (n : ChanNo) : Instr → Nat → Prop
  | move : CometRow n (.cmtMove n) 1
  | gather : CometRow n (.cmtGather n) 2
  | loop : CometRow n (.cmtLoop n) 3
  | wait : CometRow n (.cmtWait n) 4
  | signal : CometRow n (.cmtSignal n) 5
  | endProg : CometRow n (.cmtEndProg n) 15

/-- The control rows, which need EN = 1 (R326). -/
inductive CtlRow (n : ChanNo) : Instr → Prop
  | drop : CtlRow n (.cmtDrop n)
  | hold (h) : CtlRow n (.cmtHold n h)
  | go : CtlRow n (.cmtGo n)
  | ring : CtlRow n (.cmtRing n)
  | resume : CtlRow n (.cmtResume n)
  | skip : CtlRow n (.cmtSkip n)

end Sys2Proof.Claims

/-- R323, R326, R329–R331: EN brings a channel from OFF to IDLE; with EN = 0 every other field is
ignored. GO starts an IDLE channel at CMT_PROG, or leaves it HELD; RING counts a doorbell or logs its
loss; HOLD = 0 lets a HELD channel go on; RESUME and SKIP move a HALTED one; EN = 0 drops it. -/
def Obligations.CometControl : Prop :=
  ∀ (s : State) (n : ChanNo),
    (fbit s F.cmtCtl_EN n = true → exec (.cmtEn n) s = .next s) ∧
    (fbit s F.cmtCtl_EN n = false → (∀ i, CtlRow n i → exec i s = .next s) ∧
      ∃ t, exec (.cmtEn n) s = .next t ∧ OnlyRegs s t [(.cmtCtl, n.val), (.cmtStat, n.val)] ∧
        fbit t F.cmtCtl_EN n = true ∧ chanSt t n = csIdle ∧ fget t F.cmtStat_DBCNT n = 0) ∧
    (fbit s F.cmtCtl_EN n = true →
      (∃ t, exec (.cmtDrop n) s = .next t ∧ chanSt t n = csOff ∧ fbit t F.cmtCtl_EN n = false ∧
        (∀ x ∈ t.txs, x.who ≠ .comet n.val) ∧ SameBytes s t) ∧
      (∀ h, ∃ t, exec (.cmtHold n h) s = .next t ∧
        OnlyRegs s t [(.cmtCtl, n.val), (.cmtStat, n.val)] ∧ fbit t F.cmtCtl_HOLD n = h ∧
        chanSt t n = (if h = false ∧ chanSt s n = csHeld then
          (if (chan s n).wait.isSome = true then csWait else csRun) else chanSt s n)) ∧
      (chanSt s n ≠ csIdle → exec (.cmtGo n) s = .next s) ∧
      (chanSt s n = csIdle → ∃ t, exec (.cmtGo n) s = .next t ∧
        (chan t n).pc = fget s F.cmtProg_ADDR n * 32 ∧ (chan t n).l0 = 0 ∧ (chan t n).l1 = 0 ∧
        chanSt t n = (if fbit s F.cmtCtl_HOLD n = true then csHeld else csRun)) ∧
      (fget s F.cmtStat_DBCNT n < 0xFF → ∃ t, exec (.cmtRing n) s = .next t ∧
        OnlyRegs s t [(.cmtStat, n.val)] ∧
        fget t F.cmtStat_DBCNT n = fget s F.cmtStat_DBCNT n + 1 ∧ chanSt t n = chanSt s n) ∧
      (fget s F.cmtStat_DBCNT n = 0xFF → s.logHeld = [] → ∃ t r, exec (.cmtRing n) s = .next t ∧
        t.logHeld = [r] ∧ r.code = 0x61 ∧ r.unit = n.val ∧ r.d1 = 3 ∧
        fget t F.cmtStat_DBCNT n = 0xFF) ∧
      (chanSt s n ≠ csHalted → exec (.cmtResume n) s = .next s ∧
        exec (.cmtSkip n) s = .next s) ∧
      (chanSt s n = csHalted → (chan s n).pc + 32 < 2 ^ 64 →
        (∃ t, exec (.cmtResume n) s = .next t ∧ (chan t n).pc = (chan s n).pc ∧
          chanSt t n = (if (chan s n).wait.isSome = true then csWait else csRun)) ∧
        (∃ t, exec (.cmtSkip n) s = .next t ∧ atNext s t n csRun)))

/-- R320, R321, R324: the data that a privileged channel moves within local DRAM. MOVE copies C bytes
from A to B, with either side fixed at one unit where its flag says so; GATHER copies each listed
range to consecutive addresses from B on, and SCATTER back; SIGNAL writes or adds 8 bytes and raises
its vector. No other byte changes, and the next instruction is current. -/
def Sys2Proof.Claims.CometData : Prop :=
  (∀ (s : State) (n : ChanNo) (f a b c src dst u size : Nat), f < 64 →
    ChanAt s n csRun (1 + 256 * f) a b c → c < 2 ^ 32 → u = 2 ^ bitsOf f 5 4 →
    src = withBase s n 0 a (bit f 2) → dst = withBase s n 1 b (bit f 3) →
    size = (if bit f 1 = true then min u c else c) →
    (bit f 0 = true ∨ bit f 1 = true → c % u = 0) → (bit f 0 = true → src % u = 0) →
    (bit f 1 = true → dst % u = 0) → src + c + u ≤ visTop s → dst + c + u ≤ visTop s →
    (apart src (if bit f 0 = true then u else c) dst size ∨
      (bit f 0 = false ∧ bit f 1 = false ∧ dst ≤ src)) →
    ∃ t, exec (.cmtMove n) s = .next t ∧ atNext s t n csRun ∧
      (∀ k < size, curByte t (dst + k) = curByte s (src +
        (if bit f 0 = true then k % u else if bit f 1 = true then c - u + k else k))) ∧
      ∀ x : Nat, x < dst ∨ dst + size ≤ x → curByte t x = curByte s x) ∧
  (∀ (s : State) (n : ChanNo) (f a b list base : Nat) (ps : List (Nat × Nat)) (sc : Bool)
    (off from_ to_ len : Nat → Nat), f = b2n sc + 4 * bitsOf f 3 2 → f < 16 →
    ChanAt s n csRun (2 + 256 * f) a b ps.length → ps ≠ [] → ps.length < 2 ^ 32 →
    list = withBase s n 0 a (bit f 2) → base = withBase s n 1 b (bit f 3) → list % 16 = 0 →
    list + 16 * ps.length ≤ visTop s →
    (∀ i < ps.length, ∀ k < 16, curByte s (list + 16 * i + k) =
      (natLe (ps.getD i (0, 0)).1 8 ++ natLe (ps.getD i (0, 0)).2 4 ++ natLe 0 4).getD k 0) →
    (∀ i, len i = (ps.getD i (0, 0)).2) → (∀ i, len i < 2 ^ 32) →
    (∀ i, off i = ((ps.take i).map (fun p => p.2)).sum) →
    (∀ i, from_ i = if sc = true then base + off i else (ps.getD i (0, 0)).1) →
    (∀ i, to_ i = if sc = true then (ps.getD i (0, 0)).1 else base + off i) →
    (∀ i < ps.length, from_ i + len i ≤ visTop s ∧ to_ i + len i ≤ visTop s ∧
      apart (to_ i) (len i) list (16 * ps.length) ∧
      (∀ j < ps.length, apart (to_ i) (len i) (from_ j) (len j) ∧
        (i ≠ j → apart (to_ i) (len i) (to_ j) (len j)))) →
    ∃ t, exec (.cmtGather n) s = .next t ∧ atNext s t n csRun ∧
      (∀ i < ps.length, ∀ k < len i, curByte t (to_ i + k) = curByte s (from_ i + k)) ∧
      ∀ x : Nat, (∀ i < ps.length, x < to_ i ∨ to_ i + len i ≤ x) → curByte t x = curByte s x) ∧
  (∀ (s : State) (n : ChanNo) (f a b : Nat) (old : Word), f < 8 → bitsOf f 1 0 ≠ 3 →
    ChanAt s n csRun (5 + 256 * f) a b 0 → (bitsOf f 1 0 = 0 → a = 0 ∧ b = 0) → a % 8 = 0 →
    a + 8 ≤ visTop s → (∀ k < 8, old.extractLsb' (8 * k) 8 = curByte s (a + k)) →
    ∃ t, exec (.cmtSignal n) s = .next t ∧ atNext s t n csRun ∧
      (bitsOf f 1 0 = 1 → ∀ k < 8, curByte t (a + k) = (BitVec.ofNat 64 b).extractLsb' (8 * k) 8) ∧
      (bitsOf f 1 0 = 2 → ∀ k < 8,
        curByte t (a + k) = (old + BitVec.ofNat 64 b).extractLsb' (8 * k) 8) ∧
      (bitsOf f 1 0 = 0 → SameBytes s t) ∧ (bit f 2 = true → raised s t n) ∧
      ∀ x : Nat, x < a ∨ a + 8 ≤ x → curByte t x = curByte s x)

/-- R318, R322–R324, R327–R331: LOOP jumps back while its count lasts, adding to X0 and X1; WAIT goes on
or leaves the channel in WAIT until its doorbell, time or value; END leaves it IDLE with DONE. A bad
encoding halts a privileged channel; an address that an ordinary channel cannot fetch from stops it.
HOLD_POINT, QUIET and the retry of a window miss act on the channel's state. -/
def Sys2Proof.Claims.CometFlow : Prop :=
  (∀ (s : State) (n : ChanNo) (f a b c back l : Nat), f < 2 → back < 2 ^ 16 → back ≠ 0 → a ≠ 0 →
    a < 2 ^ 32 → ChanAt s n csRun (3 + 256 * f + 2 ^ 32 * back) a b c →
    l = (if f = 1 then (chan s n).l1 else (chan s n).l0) →
    ∃ t, exec (.cmtLoop n) s = .next t ∧ SameBytes s t ∧ chanSt t n = csRun ∧
      (if f = 1 then (chan t n).l1 else (chan t n).l0) = (if l = 0 then a else l) - 1 ∧
      ((if l = 0 then a else l) = 1 → (chan t n).pc = (chan s n).pc + 32 ∧
        fget t F.cmtX_X (2 * n.val) = fget s F.cmtX_X (2 * n.val) ∧
        fget t F.cmtX_X (2 * n.val + 1) = fget s F.cmtX_X (2 * n.val + 1)) ∧
      ((if l = 0 then a else l) ≠ 1 →
        (chan t n).pc = ((chan s n).pc + 2 ^ 64 - 32 * back) % 2 ^ 64 ∧
        fget t F.cmtX_X (2 * n.val) = (fget s F.cmtX_X (2 * n.val) + b) % 2 ^ 64 ∧
        fget t F.cmtX_X (2 * n.val + 1) = (fget s F.cmtX_X (2 * n.val + 1) + c) % 2 ^ 64)) ∧
  (∀ (s : State) (n : ChanNo),
    (ChanAt s n csRun 4 0 0 0 → ∃ t, exec (.cmtWait n) s = .next t ∧
      (fget s F.cmtStat_DBCNT n = 0 → chanSt t n = csWait ∧ (chan t n).wait = some .doorbell) ∧
      (fget s F.cmtStat_DBCNT n ≠ 0 → atNext s t n csRun ∧
        fget t F.cmtStat_DBCNT n = fget s F.cmtStat_DBCNT n - 1)) ∧
    (∀ a, ChanAt s n csRun (4 + 256) a 0 0 → a ≠ 0 → a ≤ 2 ^ 40 →
      ∃ t, exec (.cmtWait n) s = .next t ∧ chanSt t n = csWait ∧
        (chan t n).wait = some (.until (tbOf s + a))) ∧
    (∀ a b c v, a % 8 = 0 → a + 8 ≤ visTop s →
      v = leNat ((upto 8).map (fun k => curByte s (a + k))) →
      (ChanAt s n csRun (4 + 512) a b c → ∃ t, exec (.cmtWait n) s = .next t ∧
        (v &&& c = b → atNext s t n csRun) ∧
        (v &&& c ≠ b → chanSt t n = csWait ∧ (chan t n).wait = some .value)) ∧
      (ChanAt s n csWait (4 + 512) a b c → (chan s n).wait = some .value →
        ∃ t, exec (.cmtWaitEnd n) s = .next t ∧ (v &&& c = b → atNext s t n csRun) ∧
          (v &&& c ≠ b → chanSt t n = csWait))) ∧
    (chanSt s n = csWait → (chan s n).retrying = false → s.dev.halted = false →
      mustHold s n = false → (chan s n).pc + 32 < 2 ^ 64 →
      (∀ d, (chan s n).wait = some (.until d) → d < 2 ^ 64 →
        ∃ t, exec (.cmtWaitEnd n) s = .next t ∧ atNext s t n csRun ∧ tbOf t = max (tbOf s) d) ∧
      ((chan s n).wait = some .doorbell → fget s F.cmtStat_DBCNT n ≠ 0 →
        ∃ t, exec (.cmtWaitEnd n) s = .next t ∧ atNext s t n csRun ∧
          fget t F.cmtStat_DBCNT n = fget s F.cmtStat_DBCNT n - 1)) ∧
    (∀ f, f < 2 → ChanAt s n csRun (15 + 256 * f) 0 0 0 → ∃ t, exec (.cmtEndProg n) s = .next t ∧
      chanSt t n = csIdle ∧ fbit t F.cmtStat_DONE n = true ∧ (f = 1 → raised s t n) ∧
      SameBytes s t) ∧
    (∀ i op w0 a b c, CometRow n i op → w0 % 16 = op → bitsOf w0 31 16 ≠ 0 →
      ChanAt s n csRun w0 a b c → ∃ t, exec i s = .next t ∧ chanSt t n = csHalted ∧
        fget t F.cmtStat_FKIND n = ceEncoding ∧ fget t F.cmtFaddr_ADDR n = (chan s n).pc ∧
        raised s t n ∧ SameBytes s t) ∧
    (∀ i op, CometRow n i op → 64 ≤ n.val → chanSt s n = csRun → (chan s n).retrying = false →
      (chan s n).cur = none → (chan s n).bad = none → s.dev.halted = false → mustHold s n = false →
      canonical (chan s n).pc = false →
      ∃ t, exec i s = .next t ∧ chanSt t n = csStopped ∧ fget t F.cmtStat_FKIND n = ceProgram ∧
        SameBytes s t) ∧
    ((chan s n).retrying = false → exec (.windowMissRetry n) s = .next s) ∧
    ((chan s n).retrying = true → (chan s n).got = [] → ∃ t,
      exec (.windowMissRetry n) s = .next t ∧ (chan t n).retrying = false) ∧
    (fbit s F.cmtCtl_HOLD n = false → exec (.holdPoint n) s = .next s) ∧
    (fbit s F.cmtCtl_HOLD n = true → chanSt s n = csWait ∨
      (chanSt s n = csRun ∧ atHoldPoint s n = true) → ∃ t, exec (.holdPoint n) s = .next t ∧
        OnlyRegs s t [(.cmtStat, n.val)] ∧ chanSt t n = csHeld) ∧
    (∃ t, exec (.quiet n) s = .next t ∧ OnlyRegs s t [(.cmtStat, n.val)] ∧
      fbit t F.cmtStat_QUIET n = !(chanBusy s n)))

/-! Time. -/

namespace Sys2Proof.Claims

/-- Commands that do nothing but present an edge of a pin to the captures: their source and whether
the edge rises (R407). -/
inductive EdgeRow : Instr → Nat → Bool → Prop
  | timeIn (n : Fin 4) (rise) : EdgeRow (.timeIn n rise) (n.val + 1) rise
  | ppsIn : EdgeRow (.ppsIn false) 5 false

/-- The capture queue of channel `k` (R407). -/
def caps (s : State) (k : Nat) : List (Nat × Bool) := Tab.get [] s.time.caps k

/-- What a read of a capture queue shows (R408). -/
def headWord : List (Nat × Bool) → Nat
  | [] => 2 ^ 63
  | (ts, lost) :: _ => ts % 2 ^ 62 + (if lost = true then 2 ^ 62 else 0)

/-- The captures that a read at channel `k` may find now: its first one of a tick takes effect before the
captures of that tick (R408). -/
def seen (s : State) (k : Nat) : List (Nat × Bool) :=
  if Tab.find s.time.popped k = some (tbOf s) then caps s k
  else (caps s k).filter (fun x => decide (x.1 ≠ tbOf s))

/-- What stays in the queue of channel `k` when `seen` has lost its head. -/
def unseen (s : State) (k : Nat) : List (Nat × Bool) :=
  if seen s k = [] then caps s k else (seen s k).drop 1 ++ (caps s k).drop (seen s k).length

/-- No capture of channel `k` has been dropped in this tick. -/
def noneDropped (s : State) (k : Nat) : Prop :=
  ∀ d, Tab.find s.time.dropped k = some d → d.1 ≠ tbOf s

/-- No running generator that drives pin `j` has an event by time `e` (R409). -/
def pinFree (s : State) (j e : Nat) : Prop :=
  fbit s F.toutCfg_EN j = true → fget s F.toutCfg_PEG j < 16 →
    fbit s F.pegCfg_EN (fget s F.toutCfg_PEG j) = true → 0 < pegPeriod s (fget s F.toutCfg_PEG j) →
    e < pegDue s (fget s F.toutCfg_PEG j) (tbOf s)

/-- Only registers of `l` and the generators' next event times change. -/
def OnlyRegsAndDues (s t : State) (l : List (Reg × Nat)) : Prop :=
  OnlyRegs { s with time := t.time } t l ∧ t.time = { s.time with peg := t.time.peg }

/-- Generator `n`, if it runs, has its next event at the first time of its schedule above TB (R404). -/
def NextAbove (t : State) (n : Nat) : Prop :=
  fbit t F.pegCfg_EN n = true → 0 < pegPeriod t n → Tab.find t.time.peg n = some (pegNext t n (tbOf t))

end Sys2Proof.Claims

/-- R403–R405, R409, R410: a generator's event comes at the first time of its schedule above TB; a
written schedule fires nothing, and a PHASE that is not below the period is left; STAGGER spreads
generators of one period evenly. A pulse of a pin, and of PPS_OUT, ends at its time; PPS_OUT rises at
each whole second. -/
def Obligations.Generators : Prop :=
  ∀ (s : State) (k : Fin 16) (v : Word) (x : BitVec 16) (j : Fin 4),
    (fbit s F.pegCfg_EN k = false ∨ pegPeriod s k = 0 → exec (.pegEvent k) s = .next s) ∧
    (fbit s F.pegCfg_EN k = true → 0 < pegPeriod s k → pegDue s k (tbOf s) < 2 ^ 64 →
      ∃ t, exec (.pegEvent k) s = .next t ∧ tbOf t = max (tbOf s) (pegDue s k (tbOf s)) ∧
        Tab.find t.time.peg k.val = some (pegNext s k (tbOf t))) ∧
    (0 < pegPeriod s k → ∀ n, n = pegNext s k (tbOf s) → tbOf s < n ∧
      fget s F.pegCfg_PHASE k ≤ n ∧ (n - fget s F.pegCfg_PHASE k) % pegPeriod s k = 0 ∧
      (fget s F.pegCfg_PHASE k ≤ tbOf s → n ≤ tbOf s + pegPeriod s k)) ∧
    (∃ t, exec (.pegCfgWrite none v) s = .next t ∧ OnlyRegsAndDues s t [(.pegBase, 0)] ∧
      (∀ n < 16, NextAbove t n) ∧
      fget t F.pegBase_PERIOD 0 = (if 1000 ≤ bitsOf v.toNat 31 0 then bitsOf v.toNat 31 0
        else fget s F.pegBase_PERIOD 0)) ∧
    (∃ t, exec (.pegCfgWrite (some k) v) s = .next t ∧ OnlyRegsAndDues s t [(.pegCfg, k.val)] ∧
      NextAbove t k ∧ (∀ n, n ≠ k.val → Tab.find t.time.peg n = Tab.find s.time.peg n) ∧
      fbit t F.pegCfg_EN k = v.getLsbD 63 ∧
      fget t F.pegCfg_MULT k = (if bitsOf v.toNat 55 48 = 0 then fget s F.pegCfg_MULT k
        else bitsOf v.toNat 55 48) ∧
      fget t F.pegCfg_PHASE k = (if bitsOf v.toNat 39 0 < pegPeriod t k then bitsOf v.toNat 39 0
        else fget s F.pegCfg_PHASE k)) ∧
    (∀ ks : List Nat, ks = (upto 16).filter (fun n => x.getLsbD n) → ks ≠ [] →
      ∃ t, exec (.stagger x) s = .next t ∧
        ((∀ a ∈ ks, ∀ b ∈ ks, fget s F.pegCfg_MULT a = fget s F.pegCfg_MULT b) →
          fget t F.pegCtl_SERR 0 = 0 ∧ (∀ n ∈ ks, NextAbove t n) ∧
            ∀ i < ks.length, fget t F.pegCfg_PHASE (ks.getD i 0) =
            i * pegPeriod s (ks.getD i 0) / ks.length) ∧
        (¬(∀ a ∈ ks, ∀ b ∈ ks, fget s F.pegCfg_MULT a = fget s F.pegCfg_MULT b) →
          fget t F.pegCtl_SERR 0 = 1 ∧ OnlyRegs s t [(.pegCtl, 0)])) ∧
    (∀ lvl e, Tab.find s.time.tout j.val = some (lvl, some e) → e < 2 ^ 64 → pinFree s j e →
      ∃ t, exec (.timeOutPulseEnd j) s = .next t ∧
        Tab.find t.time.tout j.val = some (false, none) ∧ tbOf t = max (tbOf s) e) ∧
    ((∀ lvl e, Tab.find s.time.tout j.val ≠ some (lvl, some e)) →
      exec (.timeOutPulseEnd j) s = .next s) ∧
    ((s.time.sec + 1) * 1000000000 < 2 ^ 64 → ∃ t, exec .ppsOutRise s = .next t ∧
      tbOf t = max (tbOf s) ((s.time.sec + 1) * 1000000000) ∧ t.time.sec = tbOf t / 1000000000 ∧
      (fbit s F.tbSync_PPSO 0 = true → t.time.pps = some (tbOf t + 100000000)) ∧
      (fbit s F.tbSync_PPSO 0 = false → s.time.pps = none → t.time.pps = none)) ∧
    (s.time.pps = none → exec .ppsOutFall s = .next s) ∧
    (∀ e, s.time.pps = some e → e < 2 ^ 64 → e < (s.time.sec + 1) * 1000000000 →
      ∃ t, exec .ppsOutFall s = .next t ∧
      t.time.pps = none ∧ tbOf t = max (tbOf s) e)

/-- R396, R407, R408: an edge is stamped with TB into the queue of every channel that selects it; a fifth
entry is lost and noted. A change of source or edge empties the queue. A read pops the head, and one at a
full queue makes room for a capture of its own tick; a 32-bit read of a low half leaves the high half in the
reader's latch. -/
def Sys2Proof.Claims.Captures : Prop :=
  (∀ (s : State) (i : Instr) (src : Nat) (rise : Bool), EdgeRow i src rise →
    ∃ t, exec i s = .next t ∧ tbOf t = tbOf s ∧ SameBytes s t ∧ ∀ k < 16,
      (¬(fget s F.capCfg_SRC k = src ∧
          bit (fget s F.capCfg_EDGE k) (if rise = true then 0 else 1) = true) →
        caps t k = caps s k ∧ rd t .capCfg k = rd s .capCfg k) ∧
      (fget s F.capCfg_SRC k = src →
        bit (fget s F.capCfg_EDGE k) (if rise = true then 0 else 1) = true →
        ((caps s k).length < 4 → caps t k = caps s k ++ [(tbOf s, false)] ∧
          fget t F.capCfg_COUNT k = (caps s k).length + 1) ∧
        (4 ≤ (caps s k).length → fbit t F.capCfg_OVF k = true ∧
          (caps t k).length = (caps s k).length ∧
          ∀ x, (caps s k).getLast? = some x → (caps t k).getLast? = some (x.1, true)))) ∧
  (∀ (s : State) (n : Fin 16) (v : BitVec 32), ∃ t, exec (.capCfgWrite n v) s = .next t ∧
    fget t F.capCfg_SRC n = (if capSrcOk (v.toNat % 256) = true then v.toNat % 256
      else fget s F.capCfg_SRC n) ∧
    fget t F.capCfg_EDGE n = (if bitsOf v.toNat 9 8 = 0 then fget s F.capCfg_EDGE n
      else bitsOf v.toNat 9 8) ∧
    (fget t F.capCfg_SRC n = fget s F.capCfg_SRC n →
      fget t F.capCfg_EDGE n = fget s F.capCfg_EDGE n → caps t n = caps s n) ∧
    (fget t F.capCfg_SRC n ≠ fget s F.capCfg_SRC n ∨
      fget t F.capCfg_EDGE n ≠ fget s F.capCfg_EDGE n →
      caps t n = [] ∧ fget t F.capCfg_COUNT n = 0)) ∧
  (∀ (s : State) (n : Fin 16) (c : Option CoreNo),
    (∃ t, exec (.capHeadRead n) s = .next t ∧ t.out.word.toNat = headWord (seen s n) ∧
      SameBytes s t ∧ (noneDropped s n → caps t n = unseen s n ∧ t.cores = s.cores) ∧
      ∀ k o x, Tab.find s.time.dropped n = some (tbOf s, k, o, x) → seen s n ≠ [] →
        Tab.find s.time.popped n ≠ some (tbOf s) →
        (caps t n).getLast? = some (tbOf s, decide (2 ≤ k)) ∧
          (caps t n).length = (caps s n).length) ∧
    (∃ t, exec (.tbValRead c none) s = .next t ∧ t.regs = s.regs ∧
      t.out.word.toNat = tbOf s % 2 ^ 32 ∧
      Tab.get 0 t.time.latch (latchKey c) = tbOf s / 2 ^ 32) ∧
    (∃ t, exec (.tbValRead c (some n)) s = .next t ∧
      t.out.word.toNat = headWord (seen s n) % 2 ^ 32 ∧
      (noneDropped s n → caps t n = unseen s n) ∧
      Tab.get 0 t.time.latch (latchKey c) = headWord (seen s n) / 2 ^ 32))

/-- R391, R399–R402: a FOLLOW node steps TB by a large offset and loses its lock, and locks after eight
small ones in succession; it holds when no TSYNC comes. A node with an ID that sends puts one TSYNC on each
running port, whose T1 the port writes as it leaves. PPS_IN steers a ROOT node, and steps TB for a waiting
TIME_SET, which else times out. -/
def Sys2Proof.Claims.TimeDiscipline : Prop :=
  (∀ (s : State) (m : Msg) (g strat : Nat) (off : Int), g = (m.data.getD 0 0).toNat →
    strat = bitsOf g 71 64 →
    off = (bitsOf g 63 0 : Int) + (fget s F.tbPdly_DLY m.port / 256 : Nat) - (rxOf s m : Int) →
    (fget s F.tbSync_MODE 0 ≠ 2 ∨ strat = 0xFF → exec (.tsync m) s = .next { s with
      time := { s.time with rx := s.time.rx.filter (fun x => decide (x.1 ≠ m)) } }) ∧
    (fget s F.tbSync_MODE 0 = 2 → strat ≠ 0xFF → fget s F.tbSync_PORT 0 = m.port.val →
      portUp s m.port = true → ∃ t, exec (.tsync m) s = .next t ∧
        fbit t F.tbSync_USE 0 = false ∧ fbit t F.tbSync_HOLD 0 = false ∧
        (1000 < off → (tbOf s : Int) + off < 2 ^ 64 → (tbOf t : Int) = tbOf s + off) ∧
        (off ≤ 1000 → tbOf t = tbOf s) ∧
        (1000 < off ∨ off < -1000 → fbit t F.tbSync_LOCK 0 = false ∧
          fget t F.tbSync_STRAT 0 = 0xFF ∧ t.time.good = 0) ∧
        (-1000 ≤ off → off ≤ 1000 →
          t.time.good = (if -50 ≤ off ∧ off ≤ 50 then s.time.good + 1 else 0) ∧
          (8 ≤ t.time.good ∨ fbit s F.tbSync_LOCK 0 = true → fbit t F.tbSync_LOCK 0 = true ∧
            fget t F.tbSync_STRAT 0 = min (strat + 1) 0xFE)))) ∧
  (∀ s : State,
    (fget s F.tbSync_MODE 0 ≠ 2 → exec .tsyncHold s = .next s) ∧
    (fget s F.tbSync_MODE 0 = 2 → ∃ t, exec .tsyncHold s = .next t ∧
      fbit t F.tbSync_LOCK 0 = false ∧ fget t F.tbSync_STRAT 0 = 0xFF ∧
      fbit t F.tbSync_HOLD 0 = true ∧ tbOf t = tbOf s) ∧
    (fbit s F.tbSync_TXEN 0 = false ∨ selfId s = 0xFFFF → exec .tsyncInterval s = .next s) ∧
    (fbit s F.tbSync_TXEN 0 = true → selfId s ≠ 0xFFFF → ∃ t ms, exec .tsyncInterval s = .next t ∧
      t.outbox = s.outbox ++ ms ∧ ms.map (fun m => m.port.val) = (upto 512).filter (portUp s) ∧
      ∀ m ∈ ms, m.op = BitVec.ofNat 6 opTsync ∧ m.stream = 0xFE#8 ∧
        m.data = [BitVec.ofNat 128 (fget s F.tbSync_STRAT 0 * 2 ^ 64)]) ∧
    (s.time.timeSet = none → ∃ t, exec (.ppsIn true) s = .next t ∧
      (fget s F.tbSync_MODE 0 ≠ 1 ∨ fbit s F.tbSync_PPSD 0 = false → tbOf t = tbOf s ∧
        rd t .tbSync 0 = rd s .tbSync 0) ∧
      (fget s F.tbSync_MODE 0 = 1 → fbit s F.tbSync_PPSD 0 = true →
        fbit t F.tbSync_LOCK 0 = true ∧ fget t F.tbSync_STRAT 0 = 0 ∧
        (∀ r, r = tbOf s % 1000000000 → 500000000 < r → r < 999999000 →
          tbOf s + 1000000000 < 2 ^ 64 → tbOf t = tbOf s + (1000000000 - r)) ∧
        (tbOf s % 1000000000 < 500000000 → tbOf t = tbOf s))) ∧
    (∀ k v t0, s.time.timeSet = some (k, v, t0) → fget s F.tbSync_MODE 0 ≠ 1 →
      (∃ t, exec (.ppsIn true) s = .next t ∧ t.time.timeSet = none ∧
        (v < 2 ^ 64 → tbOf t = max (tbOf s) v)) ∧
      (t0 + 2000000000 < 2 ^ 64 → ∃ t, exec .timeSetTimeout s = .next t ∧
        t.time.timeSet = none ∧ tbOf t = max (tbOf s) (t0 + 2000000000))) ∧
    (s.time.timeSet = none → exec .timeSetTimeout s = .next s))

/-! Memory channels, repair, logs and mailboxes. -/

namespace Sys2Proof.Claims

/-- A recalibration step of a channel that fails (R451, R452). -/
inductive FailedStep (q : Fin 4) (ch : Fin 17) : Instr → Prop
  | zq : FailedStep q ch (.zqCalibration q ch false)
  | write (d) : FailedStep q ch (.writePathUpdate q ch false d)

/-- A training of channel `ch` from the record's entry fails before memory is initialised (R444). -/
def retrains (s : State) (q : Fin 4) (ch : Fin 17) (cause : Fin 4) : Prop :=
  cause.val = 1 ∧ fbit s F.memqMode_INIT 0 = false ∧ fbit s F.calMstat_REC (physIdx q ch) = true

/-- The code, unit kind and unit of a fatal cause (R336). -/
inductive FatalCode : FatalCause → Nat → Nat → Nat → Prop
  | moon (m : Fin 4) : FatalCode (.moonSecond m) 1 kMoon m
  | slice (n : Fin 64) : FatalCode (.sliceNoSpare n) 2 kSlice n
  | directory (n : Fin 64) : FatalCode (.directory n) 3 kSlice n
  | refclk : FatalCode .refclk 4 kDevice 0
  | unlock (d : Fin 4) : FatalCode (.unlock d) 5 kDevice d
  | therm (n : Fin 16) : FatalCode (.therm (some n)) 6 kCluster n
  | thermOther : FatalCode (.therm none) 6 kDevice 0

/-- The device has halted: no core runs, and FLT_FATAL names the cause, or keeps the first one of a
halt that runs already (R335). -/
def haltedBy (s t : State) (code kind unit : Nat) : Prop :=
  t.dev.halted = true ∧ (∀ c < 128, (coreOf t c).run = .stopped) ∧
    fbit t F.fltFatal_VALID 0 = true ∧
    (s.dev.halted = false ∨ fbit s F.fltFatal_VALID 0 = false →
      fget t F.fltFatal_CODE 0 = code ∧ fget t F.fltFatal_KIND 0 = kind ∧
      fget t F.fltFatal_UNIT 0 = unit) ∧
    (s.dev.halted = true → fbit s F.fltFatal_VALID 0 = true →
      rd t .fltFatal 0 = rd s .fltFatal 0)

/-- A migration to the spare slice of slice `n` (R29, R335, R345): it starts, it runs already, it waits
for the spare that another slice is given, or it is fatal. -/
def migrates (i : Instr) (s : State) (n : Nat) : Prop :=
  (fget s F.fltSlstat_SST 0 = 0 → ∃ t, exec i s = .next t ∧ OnlyRegs { s with
    migrating := some (n, tbOf s) } t [(.fltSlstat, 0)] ∧ fget t F.fltSlstat_SST 0 = 1 ∧
    (n < 64 → fget t F.fltSlstat_MSLICE 0 = n)) ∧
  (fget s F.fltSlstat_SST 0 = 1 → exec i s = .next (if fget s F.fltSlstat_MSLICE 0 = n then s
    else { s with needSpare := addNew s.needSpare n })) ∧
  (2 ≤ fget s F.fltSlstat_SST 0 → ∃ t, exec i s = .next t ∧ haltedBy s t 2 kSlice n)

/-- The bytes `bs` lie at address `a` of memory. -/
def bytesAt (t : State) (a : Nat) (bs : List Byte) : Prop :=
  ∀ k < bs.length, curByte t (a + k) = bs.getD k 0

/-- The rows of the I3C target that read bytes, with those bytes (R376). -/
inductive CccRow (s : State) : Instr → List Byte → Prop
  | getpid : CccRow s .getpid (provId s)
  | getbcr : CccRow s .getbcr [0x06]
  | getdcr : CccRow s .getdcr [0x00]
  | getmwl : CccRow s .getmwl [0, 224]
  | getmrl : CccRow s .getmrl [0, 224]

end Sys2Proof.Claims

/-- R287, R301–R305, R451, R452: a failed channel is served by reconstruction while the spare is
rebuilt, frame by frame, or by the spare at once in check-only mode; its end puts the spare in
service. DRAM reads as zero once initialised. Recalibration steps count; the second failure in
succession is a failed channel. -/
def Obligations.DramEvents : Prop :=
  ∀ (s : State) (q : Fin 4) (ch : Fin 17) (cause : Fin 4) (d : BitVec 8) (p : PortNo)
    (pos : Fin 17) (step : Bool),
    (retrains s q ch cause → exec (.channelFailed q ch cause) s =
      .next (fput s F.calMstat_REC (physIdx q ch) 0)) ∧
    (¬(retrains s q ch cause) → ch.val = 16 → ∃ t, exec (.channelFailed q ch cause) s = .next t ∧
      fget t F.memqStat_SPARE q = 3) ∧
    (¬(retrains s q ch cause) → ch.val < 16 → (ownPhys s q ch = false ∨ 16 * q.val + ch.val ∈ s.degraded ∨
      16 * q.val + ch.val ∈ s.deadCh) → exec (.channelFailed q ch cause) s = .next s) ∧
    (ch.val < 16 → ownPhys s q ch = true → 16 * q.val + ch.val ∉ s.degraded →
      16 * q.val + ch.val ∉ s.deadCh →
      (fbit s F.memqMode_PMODE 0 = true →
        ∀ i, (i = .channelFailed q ch cause ∧ ¬(retrains s q ch cause)) ∨ (FailedStep q ch i ∧
          physIdx q ch ∈ s.calBad ∧ s.dev.ps1 = false) →
        ∃ t, exec i s = .next t ∧ SameBytes s t ∧ 16 * q.val + ch.val ∈ t.degraded ∧
          fbit t F.memqStat_DEGR q = true ∧ fget t F.memqStat_FLCH q = ch.val ∧
          (fget s F.memqStat_SPARE q = 0 → fget t F.memqStat_SPARE q = 1 ∧
            fget t F.memqStat_SPCH q = ch.val ∧ fget t F.memqStat_RPTR q = 0)) ∧
      (fbit s F.memqMode_PMODE 0 = false → ¬(retrains s q ch cause) →
        ∃ t, exec (.channelFailed q ch cause) s = .next t ∧
        fbit t F.memqStat_DEGR q = true ∧ fget t F.memqStat_FLCH q = ch.val ∧
        16 * q.val + ch.val ∈ t.keep.chans ∧ SameBytes s t ∧
        (fget s F.memqStat_SPARE q = 0 → fget t F.memqStat_SPARE q = 2 ∧
          fget t F.memqStat_SPCH q = ch.val ∧ 16 * q.val + ch.val ∈ t.bulk) ∧
        (fget s F.memqStat_SPARE q ≠ 0 → 16 * q.val + ch.val ∈ t.deadCh))) ∧
    (fget s F.memqStat_SPARE q ≠ 1 → exec (.rebuildFrame q) s = .next s ∧
      exec (.rebuildDone q) s = .next s) ∧
    (s.dev.ps1 = true → exec (.rebuildFrame q) s = .next s ∧ exec (.rebuildDone q) s = .next s) ∧
    (q.val ∈ s.rebuilt → exec (.rebuildFrame q) s = .next s) ∧
    (∀ c, fget s F.memqStat_SPARE q = 1 → s.dev.ps1 = false →
      c = 16 * q.val + fget s F.memqStat_SPCH q →
      (q.val ∉ s.rebuilt → ∃ t, exec (.rebuildFrame q) s = .next t ∧
        fget t F.memqStat_RPTR q = (fget s F.memqStat_RPTR q + 16) % 2 ^ 26 ∧
        (q.val ∈ t.rebuilt ↔ 2 ^ 26 ≤ fget s F.memqStat_RPTR q + 16) ∧
        (fbit s F.memqMode_PMODE 0 = true → s.degraded = [c] → s.twin = [] → s.bad = [] →
          SameBytes s t ∧ t.poison = s.poison ∧
          ∀ (r : Reg) (n : Nat), (r, n) ≠ (.memqStat, q.val) → r ≠ .monCnt →
            rd t r n = rd s r n)) ∧
      (∃ t, exec (.rebuildDone q) s = .next t ∧
        fget t F.memqStat_SPARE q = 2 ∧ fget t F.memqStat_RPTR q = 0 ∧ c ∉ t.degraded ∧
        c ∈ t.keep.chans ∧ SameBytes s t ∧ (fget s F.memqStat_FLCH q = fget s F.memqStat_SPCH q →
          fbit t F.memqStat_DEGR q = false))) ∧
    (fget s F.memqStat_SPARE q ≠ 2 ∨ fbit s F.memqMode_PMODE 0 = true →
      exec (.uncorrRewriteDone q) s = .next s) ∧
    (∃ t, exec (.uncorrRewriteDone q) s = .next t ∧ OnlyRegs s t [(.memqStat, q.val)] ∧
      (fget s F.memqStat_SPARE q = 2 → fbit s F.memqMode_PMODE 0 = false →
        fget s F.memqStat_FLCH q = fget s F.memqStat_SPCH q →
        16 * q.val + fget s F.memqStat_SPCH q ∉ s.deadCh → fbit t F.memqStat_DEGR q = false)) ∧
    exec (.mr4Read q ch step) s = .next s ∧
    (fbit s F.memqMode_INIT 0 = true → exec .dramInitDone s = .next s) ∧
    (fbit s F.memqMode_INIT 0 = false → s.homeQ = [] → ∃ t, exec .dramInitDone s = .next t ∧
      fbit t F.memqMode_INIT 0 = true ∧ ∀ a < visTop s, Memory.read t.mem a = 0) ∧
    (s.dev.ps1 = true → ∀ ok, exec (.zqCalibration q ch ok) s = .next s ∧
      exec (.writePathUpdate q ch ok d) s = .next s) ∧
    (s.dev.ps1 = false →
      (∃ t, exec (.zqCalibration q ch true) s = .next t ∧ physIdx q ch ∉ t.calBad ∧
        fget t F.calMstat_ZQCNT (physIdx q ch) =
          min (fget s F.calMstat_ZQCNT (physIdx q ch) + 2) 65535) ∧
      (∃ t, exec (.writePathUpdate q ch true d) s = .next t ∧ physIdx q ch ∉ t.calBad ∧
        fget t F.calMstat_WUPD (physIdx q ch) =
          min (fget s F.calMstat_WUPD (physIdx q ch) + 1) 65535 ∧
        fget t F.calMstat_DRIFT (physIdx q ch) = d.toNat) ∧
      (∀ i, FailedStep q ch i → physIdx q ch ∉ s.calBad → ∃ t, exec i s = .next t ∧
        physIdx q ch ∈ t.calBad ∧ fget t F.calMstat_RFAIL (physIdx q ch) =
          min (fget s F.calMstat_RFAIL (physIdx q ch) + 1) 15)) ∧
    (portUp s p = false → exec (.equaliserUpdate p pos) s = .next s) ∧
    (portUp s p = true → ∃ t, exec (.equaliserUpdate p pos) s = .next t ∧ t.regs = s.regs ∧
      (link t p).ctrls = addNew (link s p).ctrls (.equalise pos) ∧
      (link t p).wire = (link s p).wire ++ [ctrlFlit (link s p) (.equalise pos) false])

/-- R307, R335, R336, R339, R345–R347: a column is repaired by a copy, else its way is disabled or its
slice migrates to the spare; a second migration, a second moon core lost and every other fatal cause
halt the device. A live update changes one moon core after the other, and stops at a failure. -/
def Obligations.DeviceRepair : Prop :=
  (∀ (s : State) (n : Fin 64), migrates (.sliceMigration n) s n) ∧
  (∀ s : State, (s.migrating = none → exec .sliceMigrated s = .next s) ∧
    (∀ n t0, s.migrating = some (n, t0) → s.homeQ = [] → ∃ t, exec .sliceMigrated s = .next t ∧
      t.migrating = none ∧ t.keep.slice = some n ∧ fget t F.fltSlstat_SST 0 = 2 ∧
      t.needSpare = [] ∧ (s.needSpare = [] → t.dev = s.dev) ∧
      ∀ m ms, s.needSpare = m :: ms → haltedBy s t 2 kSlice m)) ∧
  (∀ (s : State) (a : BitVec 8) (u sub col way : BitVec 16) (c : Nat × Nat × Nat × Nat) (free : Bool),
    c = (a.toNat, arrayUnit a.toNat u.toNat, sub.toNat, col.toNat) →
    free = decide (colsUsed s c.1 c.2.1 c.2.2.1 c.2.2.2 < if a = 0x30 then 4 else 2) →
    (secded a.toNat = false → exec (.columnRepair a u sub col way) s = .next s) ∧
    (secded a.toNat = true →
      (free = true → ∃ t, exec (.columnRepair a u sub col way) s = .next t ∧ c ∈ t.copying ∧
        t = { s with copying := t.copying }) ∧
      (free = false → wayFree s c.1 c.2.1 way.toNat = true →
        ∃ t, exec (.columnRepair a u sub col way) s = .next t ∧
          ((c.1, c.2.1, way.toNat) ∈ t.keep.ways ∨
            ∃ l ls, Tab.find t.wayOut (c.1, c.2.1, way.toNat) = some (l :: ls)) ∧
          ((a ≠ 0x11 ∧ a ≠ 0x12) ∨ s.lines = [] → (c.1, c.2.1, way.toNat) ∈ t.keep.ways)) ∧
      (free = false → wayFree s c.1 c.2.1 way.toNat = false →
        (arrayKind a.toNat = kSlice → migrates (.columnRepair a u sub col way) s u.toNat) ∧
        (arrayKind a.toNat ≠ kSlice → exec (.columnRepair a u sub col way) s = .next s))) ∧
    (c ∉ s.copying → exec (.columnRepairDone a u sub col) s = .next s) ∧
    (c ∈ s.copying → ∃ t, exec (.columnRepairDone a u sub col) s = .next t ∧
      (a ≠ 0x30 ∨ s.spdBad = [] → t.copying = s.copying.erase c) ∧
      t.keep.columns = s.keep.columns ++ [c] ∧
      (a = 0x30 → fget t F.spdStat_FREP 0 = min (fget s F.spdStat_FREP 0 + 1) 255))) ∧
  (∀ (s : State) (n : Fin 4) (err : Bool),
    (moonSt s n = 2 → exec (.moonLost n err) s = .next s) ∧
    (moonSt s n ≠ 2 → ∃ t, exec (.moonLost n err) s = .next t ∧ moonSt t n = 2 ∧
      ((∀ m < 4, moonSt s m ≠ 2) → t.dev = s.dev) ∧
      ((∃ m < 4, moonSt s m = 2) → haltedBy s t 1 kMoon n))) ∧
  (∀ (s : State) (ok : Bool) (u : Nat), u = fget s F.fltMoon_UCORE 0 →
    (fget s F.fltMoon_UPD 0 ≠ 1 → fget s F.fltMoon_UPD 0 ≠ 2 →
      exec (.moonCoreChange ok) s = .next s) ∧
    (fget s F.fltMoon_UPD 0 = 2 → s.svc.main = [] → s.svc.flash = [] →
      (∃ t, exec (.moonCoreChange false) s = .next t ∧ fget t F.fltMoon_UPD 0 = 4 ∧
        moonSt t u ≠ 1) ∧
      (∀ old new, u = 0 → s.svc.live = some (old, new) → new < 2 ^ 32 →
        ∃ t, exec (.moonCoreChange true) s = .next t ∧ fget t F.fltMoon_UPD 0 = 3 ∧
          fget t F.fltMoon_IMGSEQ 0 = new ∧ moonSt t 0 = 0) ∧
      (∀ m, nextMoon s u = some m → ∃ t, exec (.moonCoreChange true) s = .next t ∧
        fget t F.fltMoon_UPD 0 = 2 ∧ fget t F.fltMoon_UCORE 0 = m ∧ moonSt t m = 1 ∧
        moonSt t u = 0))) ∧
  (∀ (s : State) (x : FatalCause) (code kind unit : Nat), FatalCode x code kind unit →
    ∃ t, exec (.fatal x) s = .next t ∧ haltedBy s t code kind unit ∧
      ((∃ n, x = .therm n) → t.dev.thermtrip = true))

/-- R350, R351, R381, R393: an open record closes after 1 ms and takes its SEQ; closed records and held
replies enter their rings where there is room, and the device reads what software has put into the
request ring. A key is set from the last four words and erased. -/
def Obligations.RingsAndKeys : Prop :=
  (∀ s : State, (s.logHeld.find? (fun r => decide (r.seq = none)) = none →
      exec .mergeWindowClose s = .next s) ∧
    (∀ r, s.logHeld = [r] → r.seq = none → fbit s F.fltLogRing_EN 0 = false →
      (∀ k < 16, fbit s F.pegCfg_EN k = false) → r.tb + 1000000 < 2 ^ 64 →
        ∃ t, exec .mergeWindowClose s = .next t ∧
        t.logHeld = [{ r with seq := some s.logSeq }] ∧ t.logSeq = s.logSeq + 1 ∧
        tbOf t = max (tbOf s) (r.tb + 1000000))) ∧
  (∀ (s s1 : State) (v : Word) (i : Instr),
    (i = .fltLogIdxWrite v ∧ s1 = regWrite s .fltLogIdx 0 v) ∨
      (i = .fltLogRingWrite v ∧ s1 = regWrite s .fltLogRing 0 v) →
    (logRoom s1 = false ∨ s.logHeld = [] → exec i s = .next s1) ∧
    (∀ r n a, logRoom s1 = true → s.logHeld = [r] → r.seq = some n →
      a = fget s1 F.fltLogRing_BASE 0 * 4096 + fget s1 F.fltLogIdx_WIDX 0 % logSize s1 * 64 →
      DevReady s (a / 64) → ∃ t, exec i s = .next t ∧ t.logHeld = [] ∧ bytesAt t a r.bytes ∧
        fget t F.fltLogIdx_WIDX 0 = (fget s1 F.fltLogIdx_WIDX 0 + 1) % 2 ^ 32)) ∧
  (∀ (s s1 : State) (v : Word), s1 = regWrite s .svcRspidx 0 v →
    (rspRoom s1 = false ∨ s.svc.rspHeld = [] → exec (.svcRspidxWrite v) s = .next s1) ∧
    (∀ e a, rspRoom s1 = true → s.svc.rspHeld = [e] → e.length = 256 →
      a = fget s1 F.svcRsp_BASE 0 * 4096 + fget s1 F.svcRspidx_WIDX 0 % rspSize s1 * 256 →
      (∀ k < 4, DevReady s (a / 64 + k)) → ∃ t, exec (.svcRspidxWrite v) s = .next t ∧
        t.svc.rspHeld = [] ∧ bytesAt t a e ∧
        fget t F.svcRspidx_WIDX 0 = (fget s1 F.svcRspidx_WIDX 0 + 1) % 2 ^ 32)) ∧
  (∀ (s s1 : State) (v : Word), s1 = regWrite s .svcReqidx 0 v →
    (reqReady s1 = false → exec (.svcReqidxWrite v) s = .next s1) ∧
    (∀ a e, reqReady s1 = true →
      fget s1 F.svcReqidx_WIDX 0 = (fget s1 F.svcReqidx_RIDX 0 + 1) % 2 ^ 32 →
      a = fget s1 F.svcReq_BASE 0 * 4096 + fget s1 F.svcReqidx_RIDX 0 % reqSize s1 * 256 →
      (∀ k < 4, DevReady s (a / 64 + k)) → e.length = 256 → bytesAt s a e →
      fieldAt e 2 1 = 0 → fieldAt e 16 2 ≠ 0x5645 → fbit s F.svcRsp_EN 0 = false →
      s.svc.rspHeld = [] → ∃ t r, exec (.svcReqidxWrite v) s = .next t ∧
        fget t F.svcReqidx_RIDX 0 = (fget s1 F.svcReqidx_RIDX 0 + 1) % 2 ^ 32 ∧
        t.svc.rspHeld = [r] ∧ fieldAt r 26 2 = stBadFormat)) ∧
  (∀ (s : State) (v w0 w1 w2 w3 : Word), s.svc.keyw = [w0, w1, w2, w3] →
    (∃ t, exec (.svcKeywWrite v) s = .next t ∧ t.svc.keyw = [w1, w2, w3, v] ∧ t.regs = s.regs) ∧
    (fbit s F.svcKey_HELD 0 = true → exec .keySet s = .next s) ∧
    (fbit s F.svcKey_HELD 0 = false → ∃ t, exec .keySet s = .next t ∧
      t.keep.key = some (natLe w0.toNat 8 ++ natLe w1.toNat 8 ++ natLe w2.toNat 8 ++
        natLe w3.toNat 8) ∧ fbit t F.svcKey_HELD 0 = !(keyDead s)) ∧
    (∃ t, exec .keyErase s = .next t ∧ t.keep.key = none ∧ fbit t F.svcKey_HELD 0 = false))

/-- R376, R377: the I3C target. In OFF, or for a read without a dynamic address, nothing happens;
ENTDAA and SETDASA give an address to a target that has none, RSTDAA takes it; the reading CCCs return
their bytes (those of GETSTATUS are not stated); a private read returns the oldest reply, which leaves
when it is read whole; a private write of a packet's length joins the requests held, and one of another
length is dropped. A target that holds 4 requests refuses its address. -/
def Obligations.I3cTarget : Prop :=
  ∀ (s : State) (a : BitVec 7) (data : List Byte),
    (∀ i bs, CccRow s i bs → (i3cOn s = false → exec i s = .next s) ∧
      (i3cOn s = true → i3cTakes s = true → exec i s = .next (setBytes s bs))) ∧
    (∃ t, exec .getstatus s = .next t ∧ t = { s with free := t.free, out := t.out } ∧
      (i3cOn s = true → i3cTakes s = true → t.out.bytes.length = 2 ∧ t.out.nack = false) ∧
      (i3cOn s = true → i3cTakes s = false → t.out.nack = true) ∧
      (i3cOn s = false → t.out = s.out)) ∧
    (i3cOn s = true → i3cTakes s = false → ∀ i, (∃ bs, CccRow s i bs) ∨ i = .i3cPrivateWrite data ∨
        (∃ w, i = .i3cPrivateRead w) →
      ∃ t, exec i s = .next t ∧ t = { s with out := t.out } ∧ t.out.nack = true ∧
        t.out.bytes = []) ∧
    (s.dev.off = true ∨ s.svc.addr.isSome = true →
      exec (.entdaa a) s = .next s ∧ exec (.setdasa a) s = .next s) ∧
    (s.dev.off = false → s.svc.addr = none →
      (∃ t, exec (.entdaa a) s = .next t ∧ t.svc.addr = some a ∧
        t.out.bytes = provId s ++ [0x06, 0x00] ∧ t.regs = s.regs) ∧
      (∃ t, exec (.setdasa a) s = .next t ∧ t.svc.addr = some a ∧ t.out = s.out ∧
        t.regs = s.regs)) ∧
    (s.dev.off = true → exec .rstdaa s = .next s ∧ exec .enec s = .next s ∧
      exec .disec s = .next s) ∧
    (s.dev.off = false → (∃ t, exec .rstdaa s = .next t ∧ t.svc.addr = none ∧ t.regs = s.regs) ∧
      (∃ t, exec .enec s = .next t ∧ t.svc.ibi = true ∧ t.regs = s.regs) ∧
      (∃ t, exec .disec s = .next t ∧ t.svc.ibi = false ∧ t.regs = s.regs)) ∧
    (i3cOn s = false → exec (.i3cPrivateWrite data) s = .next s) ∧
    (i3cOn s = true → i3cTakes s = true → ∃ t, exec (.i3cPrivateWrite data) s = .next t ∧
      t.out.nack = false ∧ t.regs = s.regs ∧ t.svc.replies = s.svc.replies ∧
      t.svc.i3cq = if 32 ≤ data.length ∧ data.length ≤ 224 then s.svc.i3cq ++ [data]
        else s.svc.i3cq) ∧
    (i3cOn s = true → i3cTakes s = true → ∀ r rs, s.svc.replies = r :: rs →
      (∃ t, exec (.i3cPrivateRead true) s = .next t ∧ t.out.bytes = r ∧ t.svc.replies = rs ∧
        t.svc.ibiRaised = none) ∧
      exec (.i3cPrivateRead false) s = .next s) ∧
    (i3cOn s = true → i3cTakes s = true → s.svc.replies = [] →
      ∀ w, ∃ t, exec (.i3cPrivateRead w) s = .next t ∧ t.out.bytes = [] ∧ t.svc = s.svc)

/-! Command packets and their commands. -/

namespace Sys2Proof.Claims

/-- A packet from `o` reaches the device: in PS1 over I3C only (R378). -/
def heard (s : State) (o : Origin) : Prop := s.dev.off = false ∧ (s.dev.ps1 = true → o = .i3c)

/-- Commands run, none waits and no moon core changes (R347, R378, R384); the request of `k` reaches the
device, is no longer than a packet, comes with the rack key held, and its SEQ is a new one (R382). -/
structure Serves (s : State) (k : Command) : Prop where
  on : serving s = true
  main : s.svc.main = []
  flash : s.svc.flash = []
  still : moving s = false
  reach : heard s k.origin
  key : (rackKey s).isSome = true
  size : k.params.length ≤ 192
  fresh : fget s F.svcCstat_HSEQ 0 < k.seq.toNat
  new : ∀ e ∈ s.svc.cache, e.seq ≠ k.seq.toNat

/-- The state in which request `k` of opcode `op` has been accepted: SVC_CSTAT holds its SEQ, and the reply
cache holds it (R382, R383). -/
def taken (s : State) (op : Nat) (k : Command) : State :=
  cacheAdd (fput s F.svcCstat_HSEQ 0 k.seq.toNat)
    { seq := k.seq.toNat, mac := (pktOf s op k).mac, reply := none, more := [] }

/-- The command ends from the state `t` with a status and reply parameters. -/
def Ends (i : Instr) (s t : State) (k : Command) (op st : Nat) (ps : List Byte) : Prop :=
  exec i s = .next (finish t op k st ps)

/-- The command is refused with a status and changes nothing else (R392). -/
def Refused (i : Instr) (s : State) (k : Command) (op st : Nat) : Prop :=
  Ends i s (taken s op k) k op st []

/-- The command runs on in its lane, without a reply yet (R384, R391). -/
def runsOn (t : State) (k : Command) (op : Nat) : Prop :=
  t.svc.main = [{ op := op, cmd := k, begun := true }]

/-- A request row, its opcode, and when the LENGTH of its parameters is right (R386). -/
inductive CmdRow (k : Command) : Instr → Nat → Prop → Prop
  | portSet : CmdRow k (.portSet k) 0x10 (k.params.length = 8)
  | portStatus : CmdRow k (.portStatus k) 0x11 (k.params.length = 2)
  | stage : CmdRow k (.nodeRouteStage k) 0x20
      (k.params.length % 8 = 0 ∧ 0 < k.params.length ∧ k.params.length ≤ 192)
  | commit : CmdRow k (.nodeRouteCommit k) 0x21 (k.params.length = 0)
  | flowAdmit : CmdRow k (.tideAdmit k) 0x30 (k.params.length = 17)
  | release : CmdRow k (.tideRelease k) 0x31 (k.params.length = 2)
  | grant : CmdRow k (.reachGrant k) 0x40 (k.params.length = 32)
  | revoke : CmdRow k (.reachRevoke k) 0x41 (k.params.length = 2)
  | dead : CmdRow k (.partnerDead k) 0x50 (k.params.length = 2)
  | calSave : CmdRow k (.calSave k) 0x60 (k.params.length = 2)
  | calRestore : CmdRow k (.calRestoreFactory k) 0x61 (k.params.length = 2)
  | fwStage : CmdRow k (.fwStage k) 0x70
      (8 ≤ k.params.length ∧ k.params.length = 8 + fieldAt k.params 4 2)
  | fwCommit : CmdRow k (.fwCommit k) 0x71 (k.params.length = 1)
  | confirm : CmdRow k (.bootConfirm k) 0x72 (k.params.length = 0)
  | retire : CmdRow k (.repairRetire k) 0x80 (k.params.length = 5)
  | status : CmdRow k (.repairStatus k) 0x81 (k.params.length = 0)
  | monRead : CmdRow k (.monRead k) 0x90 (k.params.length = 2)
  | timeSet : CmdRow k (.timeSet k) 0xA0 (k.params.length = 9)
  | lcAdvance : CmdRow k (.lcAdvance k) 0xB0 (k.params.length = 32)

/-- A row that brings a request packet to this node: where its reply goes, and the packet (R375). -/
inductive PacketRow (s : State) : Instr → Origin → Pkt → Prop
  | cmd (m : Msg) (bs) : tc3Ok s m.port = true → bs = m.data.flatMap (fun g => natLe g.toNat 16) →
      (fieldAt bs 0 2 ≠ 0x5645 ∨ bit (fieldAt bs 6 2) 0 = false) →
      PacketRow s (.cmd m) (.tc3 m.src m.port) (parsePkt bs)
  | row (k i op ok) : CmdRow k i op ok → PacketRow s i k.origin (pktOf s op k)
  | identify (k) : PacketRow s (.identify k) k.origin (pktOf s 1 k)

/-- A packet of the right form that is no IDENTIFY, while commands run and a key is held, with a MAC
that agrees (R380, R382). -/
structure Genuine (s : State) (o : Origin) (p : Pkt) : Prop where
  reach : heard s o
  form : p.magic = 0x5645 ∧ p.flags = 0 ∧ p.status = 0 ∧ p.len ≤ 192
  op : p.op ≠ 1
  on : serving s = true
  key : (rackKey s).isSome = true
  mac : pktMac s p = p.mac

end Sys2Proof.Claims

/-- R378–R380, R382, R387, R392: what becomes of a packet. In OFF, and in PS1 but over I3C, none is taken;
IDENTIFY is answered always. The checks of a packet come in order: its form, the service, the key, the MAC,
the reply cache, the sequence number, the room for one more. An accepted command of the wrong LENGTH is
refused, and one in a CMD acts as its row does; a request that the I3C target holds is taken as any other.
-/
def Obligations.PacketsAccepted : Prop :=
  (∀ (s : State) (k : Command) (i : Instr) (op : Nat) (ok : Prop), CmdRow k i op ok → Serves s k → ¬ok →
    Refused i s k op stBadLength) ∧
  (∀ (s : State) (m : Msg), tc3Ok s m.port = false →
    exec (.cmd m) s = .next (logDiscard s m.src.toNat 3)) ∧
  (∀ (s : State) (d : List Byte), s.svc.i3cq = [d] →
    pumpI3c s = takePkt { s with svc := { s.svc with i3cq := [] } } .i3c (parsePkt d)) ∧
  (∀ (s : State) (i : Instr) (o : Origin) (p : Pkt), PacketRow s i o p →
    (¬(heard s o) → exec i s = .next s) ∧
    (heard s o → p.magic ≠ 0x5645 ∨ p.flags ≠ 0 ∨ p.status ≠ 0 ∨ 192 < p.len →
      exec i s = .next (Machine.reply s o p.op p.tag p.seq stBadFormat [])) ∧
    (heard s o → p.magic = 0x5645 → p.flags = 0 → p.status = 0 → p.len ≤ 192 →
      (p.op = 1 → exec i s = .next (Machine.reply s o 1 p.tag p.seq stOk (identity s))) ∧
      (p.op ≠ 1 → serving s = false →
        exec i s = .next (Machine.reply s o p.op p.tag p.seq stNotReady [])) ∧
      (p.op ≠ 1 → serving s = true → rackKey s = none →
        exec i s = .next (Machine.reply s o p.op p.tag p.seq stNoKey [])) ∧
      (p.op ≠ 1 → serving s = true → (rackKey s).isSome = true → pktMac s p ≠ p.mac →
        exec i s = .next (Machine.reply (fsat s F.svcCstat_BADMAC 0 1) o p.op p.tag p.seq
          stBadMac []))) ∧
    (Genuine s o p →
      (∀ e, s.svc.cache.find? (fun e => e.seq == p.seq) = some e →
        (e.mac ≠ p.mac → exec i s = .next (Machine.reply s o p.op p.tag p.seq stReused [])) ∧
        (e.mac = p.mac → ∀ r, e.reply = some r → exec i s = .next (sendReply s o r)) ∧
        (e.mac = p.mac → e.reply = none → ∃ t, exec i s = .next t ∧ t.regs = s.regs ∧
          t.outbox = s.outbox ∧ { e with more := e.more ++ [o] } ∈ t.svc.cache)) ∧
      (s.svc.cache.find? (fun e => e.seq == p.seq) = none →
        (p.seq ≤ fget s F.svcCstat_HSEQ 0 →
          exec i s = .next (Machine.reply s o p.op p.tag p.seq stStale [])) ∧
        (fget s F.svcCstat_HSEQ 0 < p.seq → 16 ≤ outstanding s →
          exec i s = .next (Machine.reply s o p.op p.tag p.seq stBusy []))) ∧
      (∀ (k : Command) (j : Instr) (ok : Prop), p.tag < 2 ^ 16 → p.seq < 2 ^ 32 →
        p.len = p.params.length → k = ⟨o, BitVec.ofNat 16 p.tag, BitVec.ofNat 32 p.seq, p.params⟩ →
        CmdRow k j p.op ok → exec i s = exec j s)))

/-- R215, R261–R263, R386, R388: PORT_SET changes its group, whose changed ports retrain; PORT_STATUS
reads a port and clears its error counts. NODE_ROUTE_STAGE writes the shadow bank, and
NODE_ROUTE_COMMIT makes it the active one, with the next RTEPOCH; both are held while a copy runs. -/
def Obligations.PortsAndRoutes : Prop :=
  ∀ (s : State) (k : Command), Serves s k →
    (∀ g y w, g = pAt k 0 1 → y = pAt k 1 1 → w = pAt k 2 6 → k.params.length = 8 →
      (32 ≤ g ∨ 4 ≤ y ∨ gcfgOk w = false → Refused (.portSet k) s k 0x10 stBadParam) ∧
      (g < 32 → y < 4 → gcfgOk w = true → s.dev.ps1 = false →
        ∃ t, exec (.portSet k) s = .next t ∧ fget t F.fabGcfg_W g = w ∧
          fbit t F.fabGcfg_MR g = bit y 0 ∧ fbit t F.fabGcfg_NRZ g = bit y 1 ∧
          ∀ b < 16, portExists t (16 * g + b) = true →
            bitsOf (fget s F.fabGcfg_W g) (3 * b + 2) (3 * b) ≠ bitsOf w (3 * b + 2) (3 * b) →
            fget t F.fabPstat_ST (16 * g + b) = 2 ∧ fget t F.fabPstat_REASON (16 * g + b) = 6) ∧
      (g < 32 → y < 4 → gcfgOk w = true → s.dev.ps1 = true →
        ∃ t, exec (.portSet k) s = .next t ∧ t.svc.portSets = s.svc.portSets ++ [k] ∧
          rd t .fabGcfg g = rd s .fabGcfg g)) ∧
    (∀ p, p = pAt k 0 2 → k.params.length = 2 →
      (512 ≤ p ∨ portExists s p = false → Refused (.portStatus k) s k 0x11 stBadParam) ∧
      (p < 512 → portExists s p = true → ∃ t, OnlyRegs (taken s 0x11 k) t [(.fabPerr, p)] ∧
        rd t .fabPerr p = 0 ∧
        Ends (.portStatus k) s t k 0x11 stOk (natLe (rd s .fabPstat p).toNat 8 ++
          natLe (rd s .fabPerr p).toNat 8 ++ natLe (rd s .fabGstat (p / 16)).toNat 8 ++
          natLe (rd s .tidePres p).toNat 8))) ∧
    (∀ id a e, id = pAt k 0 2 → a = pAt k 2 2 → e = pAt k 4 2 → k.params.length = 8 →
      (fbit s F.nodeRbstat_COPY 0 = true → ∃ t, exec (.nodeRouteStage k) s = .next t ∧
        runsOn t k 0x20 ∧ fbit t F.nodeRbstat_HELD 0 = true ∧ t.fab = s.fab) ∧
      (fbit s F.nodeRbstat_COPY 0 = false → recOk k.params = false →
        Refused (.nodeRouteStage k) s k 0x20 stBadParam) ∧
      (fbit s F.nodeRbstat_COPY 0 = false → recOk k.params = true →
        ∃ t, Ends (.nodeRouteStage k) s t k 0x20 stOk [] ∧
          (Tab.get 0 t.fab.shadow id).toNat = a % 1024 + 1024 * e ∧
          (∀ m, m ≠ id → Tab.get 0 t.fab.shadow m = Tab.get 0 s.fab.shadow m) ∧
          fget t F.nodeRbstat_STAGED 0 = min (fget s F.nodeRbstat_STAGED 0 + 1) 65535 ∧
          ∀ n, activeRoute t n = activeRoute s n)) ∧
    (k.params = [] →
      (fbit s F.nodeRbstat_COPY 0 = true → ∃ t, exec (.nodeRouteCommit k) s = .next t ∧
        runsOn t k 0x21 ∧ fbit t F.nodeRbstat_HELD 0 = true ∧ t.fab = s.fab) ∧
      (fbit s F.nodeRbstat_COPY 0 = false → ∃ t,
        Ends (.nodeRouteCommit k) s t k 0x21 stOk (natLe (fget t F.nodeRbstat_RTEPOCH 0) 2 ++
          natLe (fget t F.nodeRbstat_BANK 0) 1) ∧
        (∀ n, activeRoute t n = (Tab.get 0 s.fab.shadow n).toNat % 2 ^ 20) ∧
        fget t F.nodeRbstat_RTEPOCH 0 = (fget s F.nodeRbstat_RTEPOCH 0 + 1) % 65536 ∧
        fget t F.nodeRbstat_BANK 0 = 1 - fget s F.nodeRbstat_BANK 0 ∧
        fget t F.nodeRbstat_STAGED 0 = 0 ∧ fbit t F.nodeRbstat_COPY 0 = true ∧
        (∀ x ∈ s.fab.staged, x.revive = true → fget t F.nodeEnt_LIVE x.id = 0) ∧
        (∀ x, s.fab.staged = [x] → x.self = true → x.id < 65536 →
          fget t F.nodeSelf_ID 0 = x.id)))

/-- R255–R257, R265, R266, R269, R207, R208: TIDE_ADMIT makes an entry and reserves its rate and burst
on both ports of the pin, TIDE_RELEASE gives them back; REACH_GRANT writes an entry that is not valid,
REACH_REVOKE makes one not valid once nothing uses it; PARTNER_DEAD starts a reclaim. -/
def Obligations.FlowsAndReaches : Prop :=
  ∀ (s : State) (k : Command), Serves s k →
    (∀ f role a b rate burst, f = pAt k 0 2 → role = pAt k 2 1 → a = pAt k 8 2 → b = pAt k 10 2 →
      rate = pAt k 12 4 → burst = pAt k 16 1 → k.params.length = 17 →
      (4095 < f ∨ role = 0 ∨ 3 < role ∨ rate = 0 ∨ burst = 0 →
        Refused (.tideAdmit k) s k 0x30 stBadParam) ∧
      (f < 4096 → pAt k 3 1 < 0xF0 → 0 < rate → 0 < burst → burst ≤ 94 → s.dev.ps1 = false →
        (role = 3 → a = 0 → b = 0 → fget s F.tideFlowa_ROLE f ≠ 0 →
          Refused (.tideAdmit k) s k 0x30 stFlowExists) ∧
        (fget s F.tideFlowa_ROLE f = 0 → flowCount s < 4096 →
          (role = 3 → a = 0 → b = 0 →
            ∃ t, Ends (.tideAdmit k) s t k 0x30 stOk [] ∧ fget t F.tideFlowa_ROLE f = 3 ∧
              fget t F.tideFlowa_SRC f = pAt k 4 2 ∧ fget t F.tideFlowa_DST f = pAt k 6 2 ∧
              fget t F.tideFlowa_STREAM f = pAt k 3 1 ∧ fget t F.tideFlowb_BURST f = burst ∧
              fbit t F.tideFlowb_NV f = false ∧
              ∀ (r : Reg) (n : Nat), (r, n) ∉ [(Reg.tideFlowa, f), (.tideFlowb, f)] →
                rd t r n = rd (taken s 0x30 k) r n) ∧
          (role = 1 ∨ role = 2 → pinOk s a b = false →
            Refused (.tideAdmit k) s k 0x30 stBadPin) ∧
          (role = 1 ∨ role = 2 → pinOk s a b = true →
            (rateCap (widthCode s a) < fget s F.tidePres_RSUM a + rate →
              Refused (.tideAdmit k) s k 0x30 stNoRate) ∧
            ((∀ p, p = a ∨ p = b → fget s F.tidePres_RSUM p + rate ≤ rateCap (widthCode s p)) →
              (burstCap (widthCode s a) < fget s F.tidePres_BSUM a + burst →
                Refused (.tideAdmit k) s k 0x30 stNoBurst) ∧
              ((∀ p, p = a ∨ p = b → fget s F.tidePres_BSUM p + burst ≤ burstCap (widthCode s p)) →
                ∃ t, Ends (.tideAdmit k) s t k 0x30 stOk [] ∧
                  fget t F.tideFlowa_ROLE f = role ∧ fget t F.tideFlowa_PINA f = a ∧
                  fget t F.tideFlowa_PINB f = b ∧ fget t F.tideFlowb_RATE f = rate ∧
                  fget t F.tideFlowb_BURST f = burst ∧
                  ∀ p, p = a ∨ p = b →
                    fget t F.tidePres_RSUM p = fget s F.tidePres_RSUM p + rate ∧
                    fget t F.tidePres_BSUM p = fget s F.tidePres_BSUM p + burst)))))) ∧
    (∀ f a b, f = pAt k 0 2 → a = fget s F.tideFlowa_PINA f → b = fget s F.tideFlowa_PINB f →
      k.params.length = 2 →
      (4095 < f ∨ fget s F.tideFlowa_ROLE f = 0 →
        Refused (.tideRelease k) s k 0x31 stNoFlow) ∧
      (f < 4096 → fget s F.tideFlowa_ROLE f ≠ 0 →
        (fget s F.tideFlowa_ROLE f ≠ 3 →
          a ≠ b ∧ (link s a).queue = [] ∧ (link s b).queue = []) → Tab.find s.fab.buckets f = none →
        ∃ t, Ends (.tideRelease k) s t k 0x31 stOk [] ∧ rd t .tideFlowa f = 0 ∧
          rd t .tideFlowb f = 0 ∧ ∀ p, p = a ∨ p = b →
            fget t F.tidePres_RSUM p = (if fget s F.tideFlowa_ROLE f = 3 then
              fget s F.tidePres_RSUM p
              else fget s F.tidePres_RSUM p - fget s F.tideFlowb_RATE f))) ∧
    (∀ n, n = pAt k 0 2 → k.params.length = 32 →
      (4095 < n ∨ grantOk s (pAt k 8 8) (pAt k 16 8) (pAt k 24 8) = false →
        Refused (.reachGrant k) s k 0x40 stBadParam) ∧
      (n < 4096 → pAt k 2 6 = 0 → grantOk s (pAt k 8 8) (pAt k 16 8) (pAt k 24 8) = true →
        (fbit s F.reachA_V n = true → Refused (.reachGrant k) s k 0x40 stIndexBusy) ∧
        (fbit s F.reachA_V n = false → ∃ t, Ends (.reachGrant k) s t k 0x40 stOk [] ∧
          OnlyRegs (taken s 0x40 k) t [(.reachA, n), (.reachB, n), (.reachC, n)] ∧
          (rd t .reachA n).toNat = pAt k 8 8 ∧ (rd t .reachB n).toNat = pAt k 16 8 ∧
          (rd t .reachC n).toNat = pAt k 24 8))) ∧
    (∀ n, n = pAt k 0 2 → k.params.length = 2 →
      (4095 < n ∨ fbit s F.reachA_V n = false →
        Refused (.reachRevoke k) s k 0x41 stNoEntry) ∧
      (n < 4096 → fbit s F.reachA_V n = true →
        (reachBusy s n = true → ∃ t, exec (.reachRevoke k) s = .next t ∧ runsOn t k 0x41 ∧
          fbit t F.reachA_V n = false ∧ t.outbox = s.outbox) ∧
        (reachBusy s n = false → reachLines (fput s F.reachA_V n 0) n = [] →
          Ends (.reachRevoke k) s (fput (taken s 0x41 k) F.reachA_V n 0) k 0x41 stOk []))) ∧
    (∀ n, n = pAt k 0 2 → k.params.length = 2 →
      (n = 0xFFFF ∨ n = selfId s → Refused (.partnerDead k) s k 0x50 stBadParam) ∧
      (n ≠ 0xFFFF → n ≠ selfId s → s.reclaims = [] →
        (fget s F.nodeEnt_LIVE n = 3 → Ends (.partnerDead k) s (taken s 0x50 k) k 0x50 stOk (natLe 0 12)) ∧
        (fget s F.nodeEnt_LIVE n ≠ 3 → ∃ t, exec (.partnerDead k) s = .next t ∧
          runsOn t k 0x50 ∧ fget t F.nodeEnt_LIVE n = 3 ∧ fbit t F.fltRclStat_BUSY 0 = true ∧
          fget t F.fltRclStat_NODE 0 = n)))

/-- R359, R361, R362, R389, R445–R449: CAL_SAVE writes both copies of the record, and
CAL_RESTORE_FACTORY one; FW_STAGE erases and programs the slot that is not booted, FW_COMMIT checks the image
and writes its commit word, BOOT_CONFIRM ends the trial. -/
def Obligations.FlashCommands : Prop :=
  ∀ (s : State) (k : Command), Serves s k → s.memOk →
    (k.params.length = 2 → calScope (pAt k 0 1) (pAt k 1 1) = none →
      Refused (.calSave k) s k 0x60 stBadParam ∧
      Refused (.calRestoreFactory k) s k 0x61 stBadParam) ∧
    (∀ us, k.params.length = 2 → calScope (pAt k 0 1) (pAt k 1 1) = some us →
      ((∀ c < 2, flashFails s (calAt c) calSize = true) →
        (∃ t, Ends (.calSave k) s t k 0x60 stFlashError [] ∧ fget t F.calRec_WST 0 = 2) ∧
        ∃ t, Ends (.calRestoreFactory k) s t k 0x61 stFlashError [] ∧ fget t F.calRec_WST 0 = 2) ∧
      (s.keep.flashBad = [] → (∃ t a b, Ends (.calSave k) s t k 0x60 stOk [] ∧
        t.keep.cal0 = some a ∧ t.keep.cal1 = some b ∧ ∀ c, c = a ∨ c = b → c.devid = leNat (devId s) ∧
        ∀ u ∈ us, calInService s u = true → Tab.get (false, false) c.ents u = (true, false)) ∧
      (∃ t c, Ends (.calRestoreFactory k) s t k 0x61 stOk [] ∧
        (t.keep.cal0 = some c ∨ t.keep.cal1 = some c) ∧ c.devid = leNat (devId s) ∧
        ∀ u ∈ us, (Tab.get (false, false) c.ents u).2 = true))) ∧
    (∀ off n fl b, off = pAt k 0 4 → n = pAt k 4 2 → fl = pAt k 6 2 →
      b = slotBase (otherSlot s) → k.params.length = 8 + n →
      (fbit s F.bootStat_TRIAL 0 = true → Refused (.fwStage k) s k 0x70 stInTrial) ∧
      (fbit s F.bootStat_TRIAL 0 = false → n % 16 ≠ 0 ∨ n < 16 ∨ 176 < n ∨ off % 16 ≠ 0 ∨
          commitAt < off + n ∨ 2 ≤ fl → Refused (.fwStage k) s k 0x70 stBadParam) ∧
      (fbit s F.bootStat_TRIAL 0 = false → n % 16 = 0 → 16 ≤ n → n ≤ 176 → off % 16 = 0 →
        off + n ≤ commitAt →
        (fl = 0 → s.svc.staging = false → Refused (.fwStage k) s k 0x70 stBadState) ∧
        (fl = 1 → flashFails s (b + off) n = true →
          ∃ t, Ends (.fwStage k) s t k 0x70 stFlashError [] ∧ t.regs = (taken s 0x70 k).regs) ∧
        (flashFails s (b + off) n = false → fl = 1 ∨ (fl = 0 ∧ s.svc.staging = true ∧
            flashRead s (b + off) n = List.replicate n 0xFF#8) →
          ∃ t, Ends (.fwStage k) s t k 0x70 stOk [] ∧ t.svc.staging = true ∧
            flashRead t (b + off) n = k.params.drop 8 ∧
            ∀ x, x < b ∨ b + slotSize ≤ x → flashRead t x 1 = flashRead s x 1))) ∧
    (∀ fl o h, fl = pAt k 0 1 → o = otherSlot s → h = slotHeader s o → k.params.length = 1 →
      (2 ≤ fl → Refused (.fwCommit k) s k 0x71 stBadParam) ∧
      (fl < 2 → s.svc.staging = false → Refused (.fwCommit k) s k 0x71 stBadState) ∧
      (fl < 2 → s.svc.staging = true →
        (slotWhy s o false ≠ 0 → Ends (.fwCommit k) s (taken s 0x71 k) k 0x71 stBadImage
          (natLe (slotWhy s o false) 1 ++ natLe 0 1)) ∧
        (slotWhy s o false = 0 → imgsOk s o h = false →
          Ends (.fwCommit k) s (taken s 0x71 k) k 0x71 stBadImage (natLe 6 1 ++ natLe 0 1)) ∧
        (slotWhy s o false = 0 → imgsOk s o h = true →
          flashRead s (slotBase o + commitAt) 16 = List.replicate 16 0xFF#8 →
          flashFails s (slotBase o + commitAt) 16 = false →
            ∃ t res, Ends (.fwCommit k) s t k 0x71 stOk (natLe fl 1 ++ natLe res 1) ∧
            t.svc.staging = false ∧ flashRead t (slotBase o + commitAt) 16 = commitWord h ∧
            (fl = 0 → res = 0 ∧ t.regs = (taken s 0x71 k).regs) ∧
            (fl = 1 → bit (hdrFlags h) 0 = true → hdrMinLive h ≤ fget s F.fltMoon_IMGSEQ 0 →
              fget s F.fltMoon_UPD 0 ≠ 1 → fget s F.fltMoon_UPD 0 ≠ 2 → res = 1 ∧
              fget t F.fltMoon_UPD 0 = 1 ∧
              t.svc.live = some (fget s F.fltMoon_IMGSEQ 0, hdrSeq h)) ∧
            (fl = 1 → bit (hdrFlags h) 0 = false → res = 2 ∧
              t.regs = (taken s 0x71 k).regs)))) ∧
    (k.params = [] →
      (fbit s F.bootStat_TRIAL 0 = false → Refused (.bootConfirm k) s k 0x72 stNoTrial) ∧
      (fbit s F.bootStat_TRIAL 0 = true → s.dev.since + trialNs ≤ tbOf s →
        Ends (.bootConfirm k) s (fput (taken s 0x72 k) F.bootStat_TEXP 0 1) k 0x72 stTrialExpired []) ∧
      (fbit s F.bootStat_TRIAL 0 = true → tbOf s < s.dev.since + trialNs →
        s.keep.flashBad = [] → ∃ t, Ends (.bootConfirm k) s t k 0x72 stOk [] ∧
          OnlyRegs { taken s 0x72 k with keep := t.keep, svc := t.svc } t [(.bootStat, 0)] ∧
            fbit t F.bootStat_TRIAL 0 = false ∧
          (newestStatus t).1.tslot = 0xFF ∧
          (newestStatus t).1.conf (fget s F.bootStat_SLOT 0) = fget s F.bootStat_SEQ 0))

/-- R348, R371, R373, R386, R390, R391, R394, R427: REPAIR_RETIRE treats a unit as faulty;
REPAIR_STATUS and MON_READ read registers; TIME_SET steps TB forward or waits for PPS_IN; LC_ADVANCE
burns the life cycle's fuses and a WARM reset follows; BOOT_FLOOR is raised by burning fuses. -/
def Obligations.ServiceCommands : Prop :=
  (∀ (s : State) (k : Command), Serves s k →
    (∀ kind fl u pos, kind = pAt k 0 1 → fl = pAt k 1 1 → u = pAt k 2 2 → pos = pAt k 4 1 →
      k.params.length = 5 →
      (2 ≤ fl ∨ (kind ≠ 6 ∧ pos ≠ 0) ∨ (kind ≠ 1 ∧ kind ≠ 3 ∧ kind ≠ 4 ∧ kind ≠ 6) →
        Refused (.repairRetire k) s k 0x80 stBadParam) ∧
      (fl < 2 →
        (kind = 1 → pos = 0 → u < 128 →
          (spareReady s u = false → Refused (.repairRetire k) s k 0x80 stNotStandby) ∧
          (spareReady s u = true → Tab.find s.moves u = none →
            (coreOf s (Fin.ofNat 128 u)).active = true →
            ∃ t, exec (.repairRetire k) s = .next t ∧ runsOn t k 0x80 ∧
              (Tab.find t.moves u).isSome = true ∧ fget t F.fltClspare_SST (u / 8) = 1)) ∧
        (kind = 3 → pos = 0 → u < 64 →
          (fget s F.fltSlstat_SST 0 ≠ 0 → Refused (.repairRetire k) s k 0x80 stNotStandby) ∧
          (fget s F.fltSlstat_SST 0 = 0 → ∃ t, exec (.repairRetire k) s = .next t ∧
            runsOn t k 0x80 ∧ (t.migrating.map (fun x => x.1)) = some u ∧
            fget t F.fltSlstat_SST 0 = 1)) ∧
        (kind = 4 → pos = 0 → u < 64 →
          (fget s F.memqStat_SPARE (u / 16) ≠ 0 →
            Refused (.repairRetire k) s k 0x80 stNotStandby) ∧
          (fget s F.memqStat_SPARE (u / 16) = 0 →
            (fbit s F.memqMode_PMODE 0 = false → fl = 0 →
              Refused (.repairRetire k) s k 0x80 stBadState) ∧
            (fbit s F.memqMode_PMODE 0 = true ∨ fl = 1 → u ∉ s.degraded → u ∉ s.deadCh →
              ∃ t, Ends (.repairRetire k) s t k 0x80 stOk [] ∧
                fget t F.memqStat_FLCH (u / 16) = u % 16 ∧
                (u ∈ t.degraded ∨ u ∈ t.keep.chans)))) ∧
        (kind = 6 → u < 32 → pos < 16 →
          (fget s F.fabGstat_SST u ≠ 0 → Refused (.repairRetire k) s k 0x80 stNotStandby) ∧
          (fget s F.fabGstat_SST u = 0 → (portAt s u pos).isSome = true →
            ∃ t, exec (.repairRetire k) s = .next t ∧ runsOn t k 0x80 ∧
              fget t F.fabGstat_SST u = 1 ∧ fget t F.fabGstat_SHIDX u = pos)))) ∧
    (k.params = [] → ∃ ps : List Byte, Ends (.repairStatus k) s (taken s 0x81 k) k 0x81 stOk ps ∧
      ps.length = 192 ∧
      (∀ c < 16, fieldAt ps c 1 =
        fget s F.fltClspare_RETIRED c * 16 + fget s F.fltClspare_SST c) ∧
      fieldAt ps 16 8 = (rd s .fltSlstat 0).toNat ∧
      (∀ q < 4, fieldAt ps (24 + 8 * q) 8 = (rd s .memqStat q).toNat) ∧
      (∀ g < 32, fieldAt ps (56 + 4 * g) 4 = (rd s .fabGstat g).toNat % 2 ^ 32) ∧
      fieldAt ps 184 8 = (rd s .fltMoon 0).toNat) ∧
    (∀ f n, f = pAt k 0 1 → n = pAt k 1 1 → k.params.length = 2 →
      (n = 0 ∨ 22 < n ∨ 64 < f + n → Refused (.monRead k) s k 0x90 stBadParam) ∧
      (0 < n → n ≤ 22 → f + n ≤ 64 → ∃ (t : State) (ps : List Byte),
        Ends (.monRead k) s t k 0x90 stOk ps ∧ ps.length = 8 * n ∧
        (∀ j < n, fieldAt ps (8 * j) 8 = (rd t .monCnt (f + j)).toNat) ∧
        (∀ j : Nat, fget s F.monSel_EVENT j ∉ unseenMon → rd t .monCnt j = rd s .monCnt j) ∧
        (∀ (r : Reg) (j : Nat), r ≠ .monCnt → rd t r j = rd (taken s 0x90 k) r j))) ∧
    (∀ v fl, v = pAt k 0 8 → fl = pAt k 8 1 → k.params.length = 9 →
      (2 ≤ fl → Refused (.timeSet k) s k 0xA0 stBadParam) ∧
      (fl < 2 → s.time.timeSet.isSome = true → Refused (.timeSet k) s k 0xA0 stBadState) ∧
      (fl = 0 → s.time.timeSet = none → v < tbOf s →
        Refused (.timeSet k) s k 0xA0 stBackward) ∧
      (fl = 0 → s.time.timeSet = none → tbOf s ≤ v →
        ∃ t, Ends (.timeSet k) s t k 0xA0 stOk (natLe v 8) ∧ tbOf t = v) ∧
      (fl = 1 → s.time.timeSet = none → ∃ t, exec (.timeSet k) s = .next t ∧
        t = { taken s 0xA0 k with time := t.time } ∧ t.time.timeSet = some (k, v, tbOf s))) ∧
    (∀ g, g = pAt k 0 1 → k.params.length = 32 →
      (5 < g ∨ zeroAt k.params 1 15 = false ∨ k.params.drop 16 ≠ devId s →
        Refused (.lcAdvance k) s k 0xB0 stBadParam) ∧
      (g ≤ 5 → zeroAt k.params 1 15 = true → k.params.drop 16 = devId s →
        (g ≤ fusedLc s → Refused (.lcAdvance k) s k 0xB0 stBadState) ∧
        (fusedLc s < g →
          (g = 3 → (∀ x < 4, unfused (rkh s x) = true) →
            Refused (.lcAdvance k) s k 0xB0 stNoRootKey) ∧
          (g ≠ 3 ∨ (∃ x < 4, unfused (rkh s x) = false) → s.memOk →
            leNat (fuse s 0xC4 4) = 2 ^ fusedLc s - 1 →
            ∃ t, Ends (.lcAdvance k) s t k 0xB0 stOk [] ∧ fusedLc t = g ∧
              t.dev.lcTarget = some g ∧ t.regs = (taken s 0xB0 k).regs))))) ∧
  (∀ s : State,
    (s.dev.lcTarget = none → exec .lcAdvanceReset s = .next s) ∧
    (s.dev.lcTarget.isSome = true → exec .lcAdvanceReset s = exec .warm s) ∧
    (∀ (v : BitVec 32) (n : Nat), n = v.toNat % 256 →
      (n ≤ fget s F.bootFloor_FLOOR 0 ∨ fget s F.bootStat_SEQ 0 / 2 ^ 24 < n →
        ∃ t, exec (.bootFloorWrite v) s = .next t ∧ rd t .bootFloor 0 = rd s .bootFloor 0 ∧
          t.dev.floorTarget = s.dev.floorTarget) ∧
      (fget s F.bootFloor_FLOOR 0 < n → n ≤ fget s F.bootStat_SEQ 0 / 2 ^ 24 →
        s.dev.floorTarget = none → ∃ t, exec (.bootFloorWrite v) s = .next t ∧
          OnlyRegs { s with dev := t.dev } t [(.bootFloor, 0)] ∧ t.dev.floorTarget = some n ∧
          fbit t F.bootFloor_BUSY 0 = true ∧
          fget t F.bootFloor_FLOOR 0 = fget s F.bootFloor_FLOOR 0)) ∧
    (s.dev.floorTarget = none → exec .fuseBurnDone s = .next s) ∧
    (∀ n, s.dev.floorTarget = some n → n < 256 → s.memOk →
      ∃ t, exec .fuseBurnDone s = .next t ∧ fget t F.bootFloor_FLOOR 0 = n ∧
        fbit t F.bootFloor_BUSY 0 = false ∧ t.dev.floorTarget = none ∧
        leNat (fuse t 0xC8 32) = leNat (fuse s 0xC8 32) ||| (2 ^ n - 1)))

/-! Resets, power, boot and the debug TAP. -/

namespace Sys2Proof.Claims

/-- The registers that a reset does not set from their tables alone: those loaded from fuses or
numbered by unit, and those that the life cycle changes (R12, R368, R371). -/
def resetByFuse (r : Reg) : Prop :=
  r = .coreId ∨ r = .cmtCfg ∨ r = .lcState ∨ r = .bootFloor ∨ r = .spdPolicy ∨ r = .spdStat ∨
    r = .svcKey

/-- The device stands at the start of a COLD reset (R12, R428, R432): no core runs, memory and caches
are empty, every field with a Cold value holds it, LC_STATE is what the fuses give, and flash keeps
its contents. -/
structure ColdFrom (s t : State) : Prop where
  due : t.dev.bootDue = some true
  held : ∀ c, (coreOf t c).run = .held ∧ (coreOf t c).wait = none
  memory : t.mem = [] ∧ t.lines = [] ∧ t.poison = []
  regs : ∀ (r : Reg) (n : Nat) (f : Fld) (v : Nat), ¬resetByFuse r → f ∈ r.fields →
    f.cold = .val v → bitsOf (rd t r n).toNat f.hi f.lo = v
  life : fget t F.lcState_STATE 0 = fusedLc t
  flash : t.keep.flash = s.keep.flash
  queue : t.pending = s.pending

/-- The same of a WARM reset, with the Warm values (R12, R430); a node whose MODE stays ROOT is locked at
stratum 0 (R402). -/
structure WarmFrom (s t : State) : Prop where
  due : t.dev.bootDue = some false
  held : ∀ c, (coreOf t c).run = .held ∧ (coreOf t c).wait = none
  caches : t.lines = [] ∧ t.homeQ = [] ∧ t.txs = [] ∧ t.fab.order = []
  proxies : t.proxyQ = []
  root : fget t F.tbSync_MODE 0 = 1 → fbit t F.tbSync_LOCK 0 = true ∧ fget t F.tbSync_STRAT 0 = 0
  regs : ∀ (r : Reg) (n : Nat) (f : Fld) (v : Nat), ¬resetByFuse r → f ∈ r.fields →
    (r = .tbSync → fget t F.tbSync_MODE 0 ≠ 1) → f.warm = .val v → bitsOf (rd t r n).toNat f.hi f.lo = v
  life : fget t F.lcState_STATE 0 = fusedLc t
  flash : t.keep.flash = s.keep.flash
  queue : t.pending = s.pending

/-- The rows that start a WARM reset from `s` (R371, R430, R457). -/
inductive WarmRow (s : State) : Instr → Prop
  | warm : WarmRow s .warm
  | pin : s.dev.warmLow = false → WarmRow s (.warmRstN true)
  | life : s.dev.lcTarget.isSome = true → WarmRow s .lcAdvanceReset

/-- Nothing is under way that a core's reset would wait for: no move, an empty buffer, and nothing at
the homes or the fabric; no TLB entry is locked, whose loss would be logged (R431). -/
structure Settled (s : State) (c : Nat) : Prop where
  still : Tab.find s.moves c = none
  stores : (coreOf s c).sb = [] ∧ (coreOf s c).cb = []
  lines : s.lines = []
  homes : s.homeQ = [] ∧ s.snoops = []
  fabric : s.txs = [] ∧ s.outbox = []
  locks : ∀ e ∈ (coreOf s c).tlb, e.locked = false

/-- Core `c` has been reset: it is HELD at the highest level without translation (R431). -/
def resetDone (t : State) (c : Nat) : Prop :=
  (coreOf t c).run = .held ∧ (coreOf t c).wait = none ∧ c ∉ t.resets ∧ plOf t c = 3 ∧
    fget t F.pstate_TE c = 0

/-- The status record as the boot flow takes it: a trial that was not confirmed is rejected (R360). -/
def afterTrial (r : BootRec) : BootRec :=
  if r.tslot = 0 then { r with reja := r.tseq, tslot := 0xFF }
  else if r.tslot = 1 then { r with rejb := r.tseq, tslot := 0xFF }
  else r

/-- The rows of the TAP that a locked device passes over, with the bits shifted in (R369, R460). -/
inductive GatedRow : Instr → Nat → Prop
  | mem (w : Bool) (a v : Word) :
      GatedRow (.dbgMem w a v) (b2n w * 2 ^ 131 + a.toNat * 2 ^ 64 + v.toNat)
  | port (w : Bool) (a : BitVec 32) (v : Word) :
      GatedRow (.dbgPort w a v) (b2n w * 2 ^ 131 + a.toNat * 2 ^ 64 + v.toNat)
  | halt (c : CoreNo) : GatedRow (.dbgHalt c) (1 * 2 ^ 30 + c.val * 2 ^ 16)
  | resume (c : CoreNo) : GatedRow (.dbgResume c) (2 * 2 ^ 30 + c.val * 2 ^ 16)
  | step (c : CoreNo) : GatedRow (.dbgStep c) (3 * 2 ^ 30 + c.val * 2 ^ 16)
  | reg (c : CoreNo) (sel : BitVec 12) (w : Bool) (v : Word) : GatedRow (.dbgReg c sel w v)
      (b2n w * 2 ^ 95 + c.val * 2 ^ 88 + sel.toNat * 2 ^ 76 + v.toNat)

/-- The rows of the TAP that every device takes (R369, R460). -/
inductive OpenRow : Instr → Prop
  | extest (d) : OpenRow (.extest d)
  | idcode : OpenRow .idcode
  | sample (d) : OpenRow (.samplePreload d)
  | bypass (b) : OpenRow (.bypass b)
  | chal : OpenRow .unlockChal
  | resp (k g) : OpenRow (.unlockResp k g)

end Sys2Proof.Claims

/-- R190, R309, R428–R430, R432, R439, R457: COLD and WARM resets by their pins and commands, OFF, and
the wipe of the secure part, once for each low period of TAMPER_N. -/
def Obligations.ResetsAndWipes : Prop :=
  ∀ (s : State),
    (∀ sa0, ∃ t, exec (.pwrGoodRise sa0) s = .next t ∧ ColdFrom s t ∧ t.dev.off = false ∧
      t.dev.sa0 = sa0) ∧
    (∃ t, exec .pwrGoodFall s = .next t ∧ ColdFrom (tearFlash s) t ∧ t.dev.off = true ∧
      t.dev.thermtrip = false ∧
      (s.svc.flashOps = [] ∨ s.svc.flashAt ≠ tbOf s → t.keep.flash = s.keep.flash)) ∧
    (s.dev.coldLow = false → s.dev.off = false → ∃ t, exec (.coldRstN true) s = .next t ∧
      ColdFrom s t ∧ t.dev.coldLow = true) ∧
    (∀ low, low = false ∨ s.dev.coldLow = true ∨ s.dev.off = true →
      exec (.coldRstN low) s = .next { s with dev := { s.dev with coldLow := low } }) ∧
    (s.dev.off = true ∨ s.dev.bootDue = some true → exec .warm s = .next s) ∧
    (∀ low, low = false ∨ s.dev.warmLow = true →
      exec (.warmRstN low) s = .next { s with dev := { s.dev with warmLow := low } }) ∧
    (∀ i, WarmRow s i → s.dev.off = false → s.dev.bootDue ≠ some true →
      ∃ t, exec i s = .next t ∧ WarmFrom s t ∧
        (s.lines = [] → s.cores = [] → s.homeQ = [] → s.dev.floorTarget = none →
          fbit s F.fltLogRing_EN 0 = false → fusedLc s = fget s F.lcState_STATE 0 →
          t.mem = s.mem) ∧
        (s.dev.floorTarget = none → fusedLc s ≠ fget s F.lcState_STATE 0 →
          ∀ a : Nat, spdSecure ≤ a → a < spdEnd → curByte t a = 0)) ∧
    (∀ low, low = false ∨ s.dev.tamperLow = true ∨ s.dev.off = true →
      exec (.tamperN low) s = .next { s with dev := { s.dev with tamperLow := low } }) ∧
    (s.dev.tamperLow = false → s.dev.off = false → fbit s F.spdStat_WIPING 0 = true →
      ∃ t, exec (.tamperN true) s = .next t ∧
        OnlyRegs { s with dev := { s.dev with tamperLow := true } } t [(.spdStat, 0)] ∧
        fbit t F.spdStat_WIPING 0 = true ∧
        fget t F.spdStat_WCAUSE 0 = fget s F.spdStat_WCAUSE 0 ∧
        fget t F.spdStat_WCNT 0 = min (fget s F.spdStat_WCNT 0 + 1) 65535) ∧
    (s.dev.tamperLow = false → s.dev.off = false → fbit s F.spdStat_WIPING 0 = false →
      ∃ t, exec (.tamperN true) s = .next t ∧ t.dev.tamperLow = true ∧
        fbit t F.spdStat_WIPING 0 = true ∧ fget t F.spdStat_WCAUSE 0 = 1 ∧
        fget t F.spdStat_WCNT 0 = min (fget s F.spdStat_WCNT 0 + 1) 65535 ∧
        (∀ a : Nat, spdSecure ≤ a → a < spdEnd → curByte t a = 0) ∧
        (s.memOk → ∀ a : Nat, a < spdSecure ∨ spdEnd ≤ a → curByte t a = curByte s a) ∧
        ∀ (r : Reg) (n : Nat), r ≠ .spdStat → rd t r n = rd s r n) ∧
    (fbit s F.spdStat_WIPING 0 = false → exec .wipeDone s = .next s) ∧
    (fbit s F.spdStat_WIPING 0 = true → s.homeQ = [] → ∃ t, exec .wipeDone s = .next t ∧
      fbit t F.spdStat_WIPING 0 = false)

/-- R360–R368: the boot flow waits for the reset pins; a BLANK or SCRAP device boots nothing, and
without a valid slot the ROM halts. Else the chosen slot's image is copied and recorded, and LCORE 0
starts the monitor at level 3 without translation. -/
def Obligations.BootFlow : Prop :=
  ∀ (s : State) (cold : Bool),
    (s.dev.bootDue = none ∨ s.dev.off = true ∨ s.dev.coldLow = true ∨ s.dev.warmLow = true ∨
      s.dev.extest = true → exec .bootFlowStart s = .next s) ∧
    (s.dev.bootDue = some cold → s.dev.off = false → s.dev.coldLow = false →
      s.dev.warmLow = false → s.dev.extest = false →
      (fget s F.lcState_STATE 0 = 0 ∨ fget s F.lcState_STATE 0 = 5 →
        ∃ t, exec .bootFlowStart s = .next t ∧ t.dev.bootDue = none ∧ t.regs = s.regs ∧
          t.cores = s.cores ∧ t.dev.romHalt = decide (fget s F.lcState_STATE 0 = 5)) ∧
      (fget s F.lcState_STATE 0 ≠ 0 → fget s F.lcState_STATE 0 ≠ 5 →
        (chooseSlot s (afterTrial (newestStatus s).1) [] = none →
          ∃ t, exec .bootFlowStart s = .next t ∧ t.dev.romHalt = true ∧
            t.dev.service = s.dev.service ∧ fbit t F.bootStat_VALID 0 = false) ∧
        (∀ b last h, chooseSlot s (afterTrial (newestStatus s).1) [] = some (b, last) →
          h = slotHeader s b → imgsOk s b h = true → s.keep.flashBad = [] → s.memOk →
          s.dev.halted = false →
          ∃ t, exec .bootFlowStart s = .next t ∧ fbit t F.bootStat_VALID 0 = true ∧
            fget t F.bootStat_SLOT 0 = b ∧ fget t F.bootStat_SEQ 0 = hdrSeq h ∧
            fbit t F.bootStat_LASTR 0 = last ∧
            fbit t F.bootStat_TRIAL 0 =
              decide (hdrSeq h ≠ (afterTrial (newestStatus s).1).conf b) ∧
            fget t F.fltMoon_IMGSEQ 0 = hdrSeq h ∧
            fget t F.nodeSelf_EPOCH 0 = ((if cold then (newestStatus s).1.epoch
              else fget s F.nodeSelf_EPOCH 0) + 1) % 256 ∧
            (newestStatus t).1.epoch = fget t F.nodeSelf_EPOCH 0 ∧ t.dev.service = true ∧
            (coreOf t 0).run = .run ∧ plOf t 0 = 3 ∧ fget t F.pstate_TE 0 = 0 ∧
            (getG t 0 1).toNat = handOff ∧
            (∀ e, (imgEnts h).find? (fun x => decide (imgType x = 2)) = some e →
              (coreOf t 0).pc = BitVec.ofNat 64 (monBase + imgEntry e)))))

/-- R431–R438, R440: CORE and CLUSTER resets of cores with nothing under way, the release of a HELD
core, CLUSTER_OFF and waking from C6, package standby, and the steps of a cluster's frequency, of which one
that senses 125 °C halts the device. -/
def Obligations.PowerStates : Prop :=
  ∀ (s : State) (c : CoreNo) (n : Fin 16) (temp : BitVec 8),
    (Settled s c → ∃ t, exec (.coreReset c) s = .next t ∧ resetDone t c ∧ SameBytes s t ∧
      (∀ k : Nat, k ≠ c.val → (coreOf t k).run = (coreOf s k).run) ∧
      rd t .coreStart c = rd s .coreStart c) ∧
    (Tab.find s.moves c.val ≠ none → exec (.coreReset c) s =
      .next { s with resets := addNew s.resets c.val }) ∧
    ((∀ k < 8, Settled s (8 * n.val + k)) → ∃ t, exec (.clusterReset n) s = .next t ∧
      (∀ k < 8, resetDone t (8 * n.val + k)) ∧ SameBytes s t ∧
      rd t .coreClctl n = rd s .coreClctl n ∧
      fget t F.coreClstat_FACT n = min (fget s F.coreClctl_FREQ n) 0x1D) ∧
    (∀ v : Word,
      ((coreOf s c).run = .held → c.val ∉ s.resets → ∃ t, exec (.rel c v) s = .next t ∧
        (coreOf t c).run = .run ∧ (coreOf t c).pc = v &&& 0x000FFFFFFFFFFFFC#64 ∧ plOf t c = 3 ∧
        fget t F.pstate_TE c = 0 ∧ fget t F.pstate_ML c = 15 ∧ fbit t F.coreMdtb_EN c = false ∧
        t.mem = s.mem ∧ (coreOf t c).g = (coreOf s c).g) ∧
      ((coreOf s c).run ≠ .held ∨ c.val ∈ s.resets →
        ∃ t, exec (.rel c v) s = .next t ∧ OnlyRegs s t [(.coreStart, c)])) ∧
    (fbit s F.coreClctl_OFFEN n = false ∨ (∃ k < 8, (coreOf s (8 * n.val + k)).run ≠ .c6) →
      exec (.clusterOff n) s = .next s) ∧
    (fbit s F.coreClctl_OFFEN n = true → (∀ k < 8, (coreOf s (8 * n.val + k)).run = .c6) →
      ∃ t, exec (.clusterOff n) s = .next t ∧ OnlyRegs s t [(.coreClstat, n)] ∧
        fbit t F.coreClstat_COFF n = true) ∧
    ((coreOf s c).run ≠ .c6 ∨ s.dev.ps1 = true → exec (.c6Wake c) s = .next s) ∧
    ((coreOf s c).run = .c6 → s.dev.ps1 = false →
      ((∀ w, eligible c s ≠ .ok none w) →
        exec (.c6Wake c) s = exec (.interrupt c) (powerUp s c)) ∧
      (∀ w, eligible c s = .ok none w →
        ((coreOf s c).waitt = none → exec (.c6Wake c) s = .next s) ∧
        ∀ a d, (coreOf s c).waitt = some (a, d) → ∃ t, exec (.c6Wake c) s = .next t ∧
          (coreOf t c).run = .run ∧ (coreOf t c).waitt = none ∧ (d ≠ 0 → getG t c d = 0) ∧
          fbit t F.coreClstat_COFF (c.val / 8) = false ∧
          (deadlinePast s a = true → t.mem = s.mem))) ∧
    (∃ t, exec .ps1 s = .next t ∧ OnlyRegs s t [(.corePkgctl, 0)] ∧
      fget t F.corePkgctl_PSTAT 0 = if ps1Why s = 0 then 1 else ps1Why s) ∧
    (∃ t, exec .cancel s = .next t ∧ OnlyRegs s t [(.corePkgctl, 0)] ∧
      fget t F.corePkgctl_PSTAT 0 = 7) ∧
    (fget s F.corePkgctl_PSTAT 0 ≠ 1 ∨ s.dev.ps1 = true ∨
        (∃ k < 16, fbit s F.coreClstat_COFF k = false) → exec .ps1Entry s = .next s) ∧
    (fget s F.corePkgctl_PSTAT 0 = 1 → s.dev.ps1 = false →
      (∀ k < 16, fbit s F.coreClstat_COFF k = true) →
      (ps1Why s ≠ 0 → ∃ t, exec .ps1Entry s = .next t ∧ OnlyRegs s t [(.corePkgctl, 0)] ∧
        fget t F.corePkgctl_PSTAT 0 = ps1Why s) ∧
      (ps1Why s = 0 → s.txs ≠ [] ∨ storesOut s = true → exec .ps1Entry s = .next s) ∧
      (ps1Why s = 0 → s.txs = [] → storesOut s = false →
        ∃ t, exec .ps1Entry s = .next t ∧ t.dev.ps1 = true ∧
        (s.lines = [] → fbit s F.fltLogRing_EN 0 = false → t.mem = s.mem) ∧
        ∀ p < 512, portUp s p = true ∨ (portExists s p = true ∧ fget s F.fabPstat_ST p = 1) →
          isDown t p 7)) ∧
    (s.dev.ps1 = false → exec .ps1Exit s = .next s) ∧
    (s.dev.ps1 = true → s.dev.off = false → s.svc.portSets = [] →
      ∃ t, exec .ps1Exit s = .next t ∧ t.dev.ps1 = false ∧ fget t F.corePkgctl_PSTAT 0 = 2 ∧
        t.mem = s.mem ∧ ∀ p < 512, portExists s p = true → fget t F.fabPstat_ST p = 2) ∧
    (125 ≤ temp.toNat → ∀ i, i = .frequencyDownStep n temp ∨ i = .frequencyUpStep n temp →
      ∃ t, exec i s = .next t ∧ haltedBy s t 6 kCluster n ∧ t.dev.thermtrip = true ∧
        fget t F.coreClstat_TEMP n = temp.toNat) ∧
    (temp.toNat < 125 → ∃ t, exec (.frequencyDownStep n temp) s = .next t ∧ OnlyRegs s t [(.coreClstat, n)] ∧
      fget t F.coreClstat_TEMP n = temp.toNat ∧
      fget t F.coreClstat_FACT n = min (if 8 < fget s F.coreClstat_FACT n
        then fget s F.coreClstat_FACT n - 1 else fget s F.coreClstat_FACT n) 0x1D ∧
      fbit t F.coreClstat_THR n =
        decide (fget t F.coreClstat_FACT n < fget s F.coreClctl_FREQ n)) ∧
    (temp.toNat < 125 → ∃ t, exec (.frequencyUpStep n temp) s = .next t ∧ OnlyRegs s t [(.coreClstat, n)] ∧
      fget t F.coreClstat_TEMP n = temp.toNat ∧
      (fget s F.coreClctl_FREQ n ≤ fget s F.coreClstat_FACT n ∨ 105 ≤ temp.toNat ∨
          (0x1D ≤ fget s F.coreClstat_FACT n ∧ 95 ≤ temp.toNat) →
        fget t F.coreClstat_FACT n = (if 95 ≤ temp.toNat
          then min (fget s F.coreClstat_FACT n) 0x1D else fget s F.coreClstat_FACT n)) ∧
      (fget s F.coreClstat_FACT n < fget s F.coreClctl_FREQ n → temp.toNat < 105 →
        (temp.toNat < 95 ∨ fget s F.coreClstat_FACT n < 0x1D) →
          fget t F.coreClstat_FACT n = fget s F.coreClstat_FACT n + 1))

/-- R369, R370, R460: TRST_N holds the TAP; a TAP that is held or without power does nothing. IDCODE,
BYPASS, SAMPLE/PRELOAD and EXTEST; the unlock of a PRODUCTION device by its key's signature on the
nonce, at most three failures; a locked device passes the debug instructions over; else a core is
halted, resumed and stepped, and registers, ports and memory are read and written. -/
def Obligations.DebugTap : Prop :=
  ∀ (s : State),
    (∀ low, exec (.trstN low) s = .next { s with dev := { s.dev with
      tlr := low, extest := s.dev.extest && !low } }) ∧
    (tapOn s = false → (∀ i, OpenRow i → exec i s = .next s) ∧
      ∀ i v, GatedRow i v → exec i s = .next s) ∧
    (tapOn s = true →
      exec .idcode s = .next (tapOut s 0x196127EB) ∧
      (∀ b, exec (.bypass b) s = .next (tapOut s (2 * b2n b))) ∧
      (∀ d, ∃ t, exec (.samplePreload d) s = .next t ∧ t.dev.boundary = d % 2 ^ scanLen ∧
        t.dev.extest = false ∧ t.regs = s.regs ∧ t.cores = s.cores ∧ t.mem = s.mem) ∧
      (∀ d, ∃ t, exec (.extest d) s = .next t ∧ t.dev.boundary = d % 2 ^ scanLen ∧
        t.dev.extest = true ∧ (s.dev.extest = false → s.dev.coldLow = false → ColdFrom s t)) ∧
      (∃ t, exec .unlockChal s = .next t ∧ t.regs = s.regs ∧
        (fget s F.lcState_STATE 0 = 3 → t.dev.nonce = some (natBe t.dev.tdo 48)) ∧
        (fget s F.lcState_STATE 0 ≠ 3 → t.dev.nonce = s.dev.nonce)) ∧
      (∀ key sig : Nat,
        (fget s F.lcState_STATE 0 ≠ 3 ∨ 3 ≤ s.dev.unlockFails →
          exec (.unlockResp key sig) s = .next (tapOut s 0)) ∧
        (fget s F.lcState_STATE 0 = 3 → s.dev.unlockFails < 3 →
          (unlockOk s (natBe key 97) (natBe sig 96) = true →
            ∃ t, exec (.unlockResp key sig) s = .next t ∧ OnlyRegs { s with dev := t.dev } t
              [(.lcState, 0)] ∧ fbit t F.lcState_UNLK 0 = true ∧ fget t F.lcState_TAP 0 = 1 ∧
              t.dev.nonce = none ∧ t.dev.unlockFails = s.dev.unlockFails) ∧
          (unlockOk s (natBe key 97) (natBe sig 96) = false →
            ∃ t, exec (.unlockResp key sig) s = .next t ∧ t = { s with dev := t.dev } ∧
              t.dev.nonce = none ∧ t.dev.unlockFails = s.dev.unlockFails + 1))) ∧
      (fget s F.lcState_TAP 0 = 0 →
        ∀ i v, GatedRow i v → exec i s = .next (tapOut s (2 * v))) ∧
      (fget s F.lcState_TAP 0 ≠ 0 → ∀ c : CoreNo,
        (((coreOf s c).run = .run ∨ (coreOf s c).run = .stepping) → undiscardable s c = false →
          ∃ t, exec (.dbgHalt c) s = .next t ∧ (coreOf t c).run = .halted ∧
            (coreOf t c).wait = none ∧ (coreOf t c).pc = (coreOf s c).pc ∧
            (coreOf t c).g = (coreOf s c).g ∧ t.dev.tdo = 5 ∧ t.regs = s.regs) ∧
        ((coreOf s c).run = .c1 → ∃ t, exec (.dbgHalt c) s = .next t ∧
          (coreOf t c).run = .halted ∧ (coreOf t c).pc = (coreOf s c).pc - 4 ∧ t.regs = s.regs) ∧
        ((coreOf s c).run = .held ∨ (coreOf s c).run = .stopped →
          ∃ t, exec (.dbgHalt c) s = .next t ∧ t = { s with dev := t.dev }) ∧
        ((coreOf s c).run = .halted →
          (∃ t, exec (.dbgResume c) s = .next t ∧ (coreOf t c).run = .run ∧ t.dev.tdo = 0 ∧
            t.regs = s.regs) ∧
          (∃ t, exec (.dbgStep c) s = .next t ∧ (coreOf t c).run = .stepping ∧ t.regs = s.regs)) ∧
        ((coreOf s c).run ≠ .halted →
          (∃ t, exec (.dbgResume c) s = .next t ∧ (coreOf t c).run = (coreOf s c).run) ∧
          (∃ t, exec (.dbgStep c) s = .next t ∧ (coreOf t c).run = (coreOf s c).run)) ∧
        (∀ (sel : BitVec 12) (w : Bool) (v : Word),
          (coreOf s c).run ≠ .halted → (coreOf s c).run ≠ .stopped → (coreOf s c).run ≠ .held →
          ∃ t, exec (.dbgReg c sel w v) s = .next t ∧ t.dev.dbgStatus = 2 ∧ t.regs = s.regs ∧
            t.cores = s.cores) ∧
        (((coreOf s c).run = .halted ∨ (coreOf s c).run = .stopped ∨ (coreOf s c).run = .held) →
          ∀ v : Word,
          (∃ t, exec (.dbgReg c 0x120 false v) s = .next t ∧
            t.dev.tdo = (coreOf s c).pc.toNat ∧ t.dev.dbgStatus = 0 ∧ t.cores = s.cores) ∧
          (∃ t, exec (.dbgReg c 0x120 true v) s = .next t ∧ (coreOf t c).pc = v ∧
            t.dev.dbgStatus = 0 ∧ t.regs = s.regs) ∧
          (∀ g : GReg, ∃ t, exec (.dbgReg c (BitVec.ofNat 12 (0x100 + g.val)) false v) s =
            .next t ∧ t.dev.tdo = (getG s c g).toNat ∧ t.cores = s.cores) ∧
          (∀ g : GReg, g ≠ 0 → ∃ t,
            exec (.dbgReg c (BitVec.ofNat 12 (0x100 + g.val)) true v) s = .next t ∧
              getG t c g = v ∧ ∀ j : GReg, j ≠ g → getG t c j = getG s c j) ∧
          (∃ t, exec (.dbgReg c 0x121 false v) s = .next t ∧ t.dev.dbgStatus = 2))) ∧
      (fget s F.lcState_TAP 0 ≠ 0 → ∀ (w : Bool) (a v : Word) (p : BitVec 32),
        (s.dev.dbg.isSome = true → ∃ t, exec (.dbgMem w a v) s = .next t ∧
          t.dev.dbgStatus = 1 ∧ t.dev.dbg = s.dev.dbg ∧ t.mem = s.mem) ∧
        (s.dev.dbg = none → a.toNat % 8 ≠ 0 ∨ region s a.toNat = .absent →
          ∃ t, exec (.dbgMem w a v) s = .next t ∧ t = { s with dev := t.dev } ∧
            t.dev.dbgStatus = if a.toNat % 8 ≠ 0 ∨ w = true then 2 else 3) ∧
        (s.dev.dbg = none → a.toNat % 8 = 0 → region s a.toNat = .dram →
          DevReady s (a.toNat / 64) →
          (∃ t, exec (.dbgMem true a v) s = .next t ∧ t.dev.dbgStatus = 0 ∧
            bytesAt t a.toNat (natLe v.toNat 8) ∧
            ∀ b : Nat, b < a.toNat ∨ a.toNat + 8 ≤ b → curByte t b = curByte s b) ∧
          (∃ t, exec (.dbgMem false a v) s = .next t ∧ t.dev.dbgStatus = 0 ∧ SameBytes s t ∧
            bytesAt s a.toNat (natLe t.dev.tdo 8))) ∧
        (p.toNat % 8 ≠ 0 → ∃ t, exec (.dbgPort w p v) s = .next t ∧
          t = { s with dev := t.dev } ∧ t.dev.dbgStatus = 2) ∧
        (p.toNat % 8 = 0 →
          (∃ t, exec (.dbgPort false p v) s = .next t ∧ t.dev.dbgStatus = 0 ∧
            t.dev.tdo = (portRead (tapOut s s.dev.tdo) none p.toNat true).1) ∧
          (∃ t, exec (.dbgPort true p v) s = .next t ∧ t.dev.dbgStatus = 0))))

/-! Statements of several parts. -/

/-- The bit counts, bit fields and byte order (R65, R68). -/
def Obligations.BitOperations : Prop :=
  BitCounts ∧ BitFields

/-- Branches, and a target that is no multiple of 4 (R43, R69, R124). -/
def Obligations.BranchTargets : Prop :=
  Branches ∧ MisalignedTarget

/-- Loads complete with what memory holds (R51, R70, R71, R74, R165, R166, R173, R190). -/
def Obligations.Loads : Prop :=
  LoadResults ∧ PlainLoad

/-- Stores enter the buffers and reach memory (R51, R70, R72, R74, R84, R97, R109, R167, R170, R173,
R175, R190). -/
def Obligations.Stores : Prop :=
  StoreResults ∧ PlainStore ∧ StorePerformed ∧ PlainCombine

/-- Calls, returns and the return stack (R53, R54, R69). -/
def Obligations.CallsAndReturns : Prop :=
  Calls ∧ Returns ∧ ReturnStackPush

/-- Vector instructions, and the lanes they move (R74). -/
def Obligations.VectorOperations : Prop :=
  VectorResults ∧ LaneMoves

/-- Comparisons, conversions and the values of the formats (R32, R34, R35, R74). -/
def Obligations.FloatConversions : Prop :=
  FloatCompareConvert ∧ FloatValues

/-- Block instructions: none, one element, and where they stop (R75, R76, R78–R80). -/
def Obligations.BlockOperations : Prop :=
  BlockEmpty ∧ BlockElement ∧ BlockStops

/-- Atomics: what they return and what the home holds (R51, R81, R82). -/
def Obligations.Atomics : Prop :=
  AtomicResults ∧ AtomicAtHome

/-- Barriers and what has drained when they complete (R72, R84, R271). -/
def Obligations.Barriers : Prop :=
  OrderBarriers ∧ DrainBarriers ∧ DrainedBuffers

/-- Cache maintenance (R23, R85). -/
def Obligations.CacheMaintenance : Prop :=
  CacheOps ∧ CacheEffects

/-- TLB invalidation and locks (R86, R87, R158–R160, R313). -/
def Obligations.TlbMaintenance : Prop :=
  TlbInvalidations ∧ TlbLocks

/-- Levels that instructions need, and cores that run none (R37, R128, R432). -/
def Obligations.PrivilegeAndIdle : Prop :=
  PrivilegeTraps ∧ IdleCores

/-- Port accesses, who may make them, and their timeouts (R25, R57, R59–R61, R88–R90). -/
def Obligations.PortAccesses : Prop :=
  PortAccess ∧ PortPermission ∧ PortTimeouts

/-- Fields of registers by their Access codes (R9, R11, R58). -/
def Obligations.RegisterFields : Prop :=
  RegisterWrites ∧ AccessCodes

/-- MFS and MTS (R10, R39, R40, R55, R62, R91, R94, R414, R421). -/
def Obligations.SystemRegisters : Prop :=
  SystemReads ∧ SystemWrites ∧ WriteHrsctl

/-- Taking an exception, and the instructions that call for one (R92, R123, R125, R130). -/
def Obligations.ExceptionsTaken : Prop :=
  ExceptionEntry ∧ SystemCalls

/-- Waits, and interrupts at a boundary (R94, R96, R116, R118, R124, R135, R190). -/
def Obligations.WaitsAndInterrupts : Prop :=
  Waits ∧ Interrupts

/-- Core events, samples and eclipse moves (R101, R122, R134–R136, R341–R344, R397, R411–R417,
R419–R422). -/
def Obligations.CoreRows : Prop :=
  CoreEvents ∧ Samples ∧ EclipseMoves

/-- Requests of the home (R193, R194, R197). -/
def Obligations.HomeRequests : Prop :=
  CopyRequests ∧ Evictions ∧ UncachedRequests

/-- Requests of partners, and responses to this node (R225, R270, R271, R273, R278, R464). -/
def Obligations.FabricMessages : Prop :=
  PartnerRequests ∧ Responses

/-- Snoops of this node's copies, and the answers to its own (R193, R201–R203). -/
def Obligations.SnoopMessages : Prop :=
  Snoops ∧ SnoopAnswers

/-- Liveness of nodes, and the end of a reclaim (R207, R208, R210, R236, R243–R245). -/
def Obligations.LivenessAndReclaims : Prop :=
  Liveness ∧ ReclaimEnds

/-- What comet channels move, and how their programs go on (R318, R320–R324, R327–R331). -/
def Obligations.CometAccesses : Prop :=
  CometData ∧ CometFlow

/-- Capture units, and the time base's discipline (R391, R396, R399–R402, R407, R408). -/
def Obligations.CapturesAndTime : Prop :=
  Captures ∧ TimeDiscipline
end

