-- ==== Sys2Proof/Laws/Memory.lean ====
section
/-! SUPPORT. Laws of memory and of the sparse tables: what a read gives after a write, and that every
operation keeps the canonical form. -/

namespace Sys2Proof.Machine

/-- The canonical form above a bound holds above every lower bound. -/
theorem Memory.wfFrom_mono {lo hi : Nat} {m : Memory} (h : Memory.wfFrom hi m = true)
    (le : lo ≤ hi) : Memory.wfFrom lo m = true := by
  cases m with
  | nil => rfl
  | cons e m =>
    simp only [Memory.wfFrom, Bool.and_eq_true, decide_eq_true_eq] at h ⊢
    exact ⟨⟨by omega, h.1.2⟩, h.2⟩

/-- A write at or above the bound keeps the canonical form above it. -/
theorem Memory.write_wfFrom (m : Memory) (x : Nat) (v : Byte) :
    ∀ lo, lo ≤ x → Memory.wfFrom lo m = true → Memory.wfFrom lo (Memory.write m x v) = true := by
  induction m with
  | nil =>
    intro lo le _
    unfold Memory.write
    split
    · rfl
    · simp_all [Memory.wfFrom]
  | cons e m ih =>
    obtain ⟨a, b⟩ := e
    intro lo le h
    simp only [Memory.wfFrom, Bool.and_eq_true, decide_eq_true_eq] at h
    unfold Memory.write
    split
    · rename_i eq
      subst eq
      split
      · exact Memory.wfFrom_mono h.2 (by omega)
      · simp_all [Memory.wfFrom]
    · split
      · split
        · simp_all [Memory.wfFrom]
        · simp only [Memory.wfFrom, Bool.and_eq_true, decide_eq_true_eq]
          exact ⟨⟨le, by assumption⟩, ⟨⟨by omega, h.1.2⟩, h.2⟩⟩
      · simp only [Memory.wfFrom, Bool.and_eq_true, decide_eq_true_eq]
        exact ⟨h.1, ih (a + 1) (by omega) h.2⟩

/-- Writing a byte keeps the canonical form. -/
theorem Memory.write_wf {m : Memory} (h : m.wf = true) (x : Nat) (v : Byte) :
    (Memory.write m x v).wf = true :=
  Memory.write_wfFrom m x v 0 (Nat.zero_le x) h

/-- Writing consecutive bytes keeps the canonical form. -/
theorem Memory.writeBytes_wf (bs : List Byte) :
    ∀ (m : Memory) (a : Nat), m.wf = true → (Memory.writeBytes m a bs).wf = true := by
  induction bs with
  | nil => exact fun _ _ h => h
  | cons b bs ih => exact fun m a h => ih _ _ (Memory.write_wf h a b)

/-- Removing listed bytes keeps the canonical form. -/
theorem Memory.filter_wf (p : Nat × Byte → Bool) (m : Memory) :
    ∀ lo, Memory.wfFrom lo m = true → Memory.wfFrom lo (m.filter p) = true := by
  induction m with
  | nil => exact fun _ h => h
  | cons e m ih =>
    obtain ⟨a, b⟩ := e
    intro lo h
    simp only [Memory.wfFrom, Bool.and_eq_true, decide_eq_true_eq] at h
    simp only [List.filter]
    split
    · simp only [Memory.wfFrom, Bool.and_eq_true, decide_eq_true_eq]
      exact ⟨h.1, ih _ h.2⟩
    · exact Memory.wfFrom_mono (ih _ h.2) (by omega)

/-- Below the bound of a canonical list every byte reads as zero. -/
theorem Memory.read_below {m : Memory} {lo x : Nat} (h : Memory.wfFrom lo m = true) (lt : x < lo) :
    Memory.read m x = 0 := by
  cases m with
  | nil => rfl
  | cons e m =>
    obtain ⟨a, b⟩ := e
    simp only [Memory.wfFrom, Bool.and_eq_true, decide_eq_true_eq] at h
    have : ¬ a = x := by omega
    have : x < a := by omega
    simp [Memory.read, *]

/-- A byte read where it was written is the byte written; any other byte is unchanged. -/
theorem Memory.read_write (m : Memory) (x : Nat) (v : Byte) :
    ∀ lo, Memory.wfFrom lo m = true → ∀ y,
      Memory.read (Memory.write m x v) y = if y = x then v else Memory.read m y := by
  induction m with
  | nil =>
    intro lo _ y
    unfold Memory.write
    by_cases hv : v = 0
    · rw [if_pos hv]
      by_cases hy : y = x <;> simp [hv, hy, Memory.read]
    · rw [if_neg hv]
      by_cases hy : y = x
      · simp [hy, Memory.read]
      · have : ¬ x = y := fun e => hy e.symm
        simp [hy, this, Memory.read]
  | cons e m ih =>
    obtain ⟨a, b⟩ := e
    intro lo h y
    simp only [Memory.wfFrom, Bool.and_eq_true, decide_eq_true_eq] at h
    unfold Memory.write
    by_cases h1 : a = x
    · subst h1
      simp only [if_true]
      by_cases hv : v = 0
      · simp only [hv, if_true]
        by_cases hy : y = a
        · subst hy
          simpa using Memory.read_below h.2 (Nat.lt_succ_self y)
        · simp only [hy, if_false, Memory.read]
          have : ¬ a = y := fun e => hy e.symm
          simp only [this, if_false]
          split
          · exact Memory.read_below h.2 (by omega)
          · rfl
      · simp only [hv, if_false, Memory.read]
        by_cases hy : y = a
        · simp [hy]
        · have : ¬ a = y := fun e => hy e.symm
          simp [hy, this]
    · simp only [h1, if_false]
      by_cases h2 : x < a
      · simp only [h2, if_true]
        by_cases hv : v = 0
        · simp only [hv, if_true]
          by_cases hy : y = x
          · subst hy
            simp [Memory.read, h1, h2]
          · simp [hy]
        · simp only [hv, if_false, Memory.read]
          by_cases hy : y = x
          · simp [hy]
          · have : ¬ x = y := fun e => hy e.symm
            simp only [this, hy, if_false]
            by_cases hl : y < x
            · have h3 : ¬ a = y := by omega
              have h4 : y < a := by omega
              simp [hl, h3, h4]
            · simp [hl]
      · simp only [h2, if_false, Memory.read]
        by_cases hy : a = y
        · have : ¬ y = x := fun e => h1 (hy.trans e)
          simp [hy, this]
        · simp only [hy, if_false]
          by_cases hl : y < a
          · have : ¬ y = x := by omega
            simp [hl, this]
          · simp only [hl, if_false]
            exact ih _ h.2 y

/-- Reading where `writeBytes` wrote nothing gives the old byte. -/
theorem Memory.read_writeBytes_of_not_mem (bs : List Byte) :
    ∀ (m : Memory) (a y : Nat), m.wf = true → ¬ (a ≤ y ∧ y < a + bs.length) →
      Memory.read (Memory.writeBytes m a bs) y = Memory.read m y := by
  induction bs with
  | nil => exact fun _ _ _ _ _ => rfl
  | cons b bs ih =>
    intro m a y h out
    simp only [List.length_cons] at out
    have e := ih (Memory.write m a b) (a + 1) y (Memory.write_wf h a b) (by omega)
    rw [Memory.writeBytes, e, Memory.read_write m a b 0 h]
    have : ¬ y = a := by omega
    simp [this]

/-- Reading where `writeBytes` wrote gives the byte written. -/
theorem Memory.read_writeBytes (bs : List Byte) :
    ∀ (m : Memory) (a i : Nat), m.wf = true → (h : i < bs.length) →
      Memory.read (Memory.writeBytes m a bs) (a + i) = bs[i] := by
  induction bs with
  | nil => exact fun _ _ _ _ h => absurd h (Nat.not_lt_zero _)
  | cons b bs ih =>
    intro m a i h lt
    cases i with
    | zero =>
      have e := Memory.read_writeBytes_of_not_mem bs (Memory.write m a b) (a + 1) a
        (Memory.write_wf h a b) (by omega)
      rw [Memory.writeBytes]
      simp only [Nat.add_zero]
      rw [e, Memory.read_write m a b 0 h]
      simp
    | succ i =>
      have e := ih (Memory.write m a b) (a + 1) i (Memory.write_wf h a b) (by simpa using lt)
      have : a + (i + 1) = a + 1 + i := by omega
      rw [Memory.writeBytes, this, e]
      rfl

/-- Reading the bytes where `writeBytes` wrote gives them back. -/
theorem Memory.readBytes_writeBytes (bs : List Byte) (m : Memory) (a : Nat) (h : m.wf = true) :
    Memory.readBytes (Memory.writeBytes m a bs) a bs.length = bs := by
  have len : ∀ n x, (Memory.readBytes (Memory.writeBytes m a bs) x n).length = n := by
    intro n
    induction n with
    | zero => exact fun _ => rfl
    | succ n ih => exact fun x => by simp [Memory.readBytes, ih]
  have get : ∀ n x i (lt : i < n), (Memory.readBytes (Memory.writeBytes m a bs) x n)[i]'(by
      rw [len]; exact lt) = Memory.read (Memory.writeBytes m a bs) (x + i) := by
    intro n
    induction n with
    | zero => exact fun _ _ lt => absurd lt (Nat.not_lt_zero _)
    | succ n ih =>
      intro x i lt
      cases i with
      | zero => rfl
      | succ i =>
        have e : x + (i + 1) = x + 1 + i := by omega
        simp only [Memory.readBytes, List.getElem_cons_succ]
        rw [ih (x + 1) i (by omega), e]
  refine List.ext_getElem (len _ _) (fun i _ lt => ?_)
  rw [get _ _ _ lt, Memory.read_writeBytes bs m a i h lt]

/-- Reading bytes apart from those written gives the old ones. -/
theorem Memory.readBytes_writeBytes_apart (bs : List Byte) (m : Memory) (a : Nat)
    (h : m.wf = true) : ∀ (n x : Nat), x + n ≤ a ∨ a + bs.length ≤ x →
      Memory.readBytes (Memory.writeBytes m a bs) x n = Memory.readBytes m x n := by
  intro n
  induction n with
  | zero => exact fun _ _ => rfl
  | succ n ih =>
    intro x ap
    rw [Memory.readBytes, Memory.readBytes, ih (x + 1) (by omega),
      Memory.read_writeBytes_of_not_mem bs m a x h (by omega)]

/-- Empty memory reads as zeros. -/
theorem Memory.readBytes_nil : ∀ (n x : Nat), Memory.readBytes [] x n = List.replicate n 0
  | 0, _ => rfl
  | n + 1, x => by rw [Memory.readBytes, Memory.readBytes_nil n (x + 1)]; rfl

/-! Sparse tables. -/

/-- A key that was set has the value set. -/
@[simp] theorem Tab.get_set_same {κ α : Type} [DecidableEq κ] (d : α) (t : Tab κ α) (q : κ) (x : α) :
    Tab.get d (Tab.set t q x) q = x := by
  induction t with
  | nil => simp [Tab.set, Tab.get]
  | cons e t ih =>
    obtain ⟨k, v⟩ := e
    by_cases h : k = q <;> simp [Tab.set, Tab.get, h, ih]

/-- Another key keeps its value. -/
theorem Tab.get_set_other {κ α : Type} [DecidableEq κ] (d : α) (t : Tab κ α) {q k : κ} (x : α)
    (ne : k ≠ q) : Tab.get d (Tab.set t q x) k = Tab.get d t k := by
  induction t with
  | nil =>
    have : ¬ q = k := fun e => ne e.symm
    simp [Tab.set, Tab.get, this]
  | cons e t ih =>
    obtain ⟨j, v⟩ := e
    by_cases h : j = q
    · have : ¬ q = k := fun e => ne e.symm
      simp [Tab.set, Tab.get, h, this]
    · by_cases h2 : j = k
      · subst h2
        simp [Tab.set, Tab.get, h]
      · simp [Tab.set, Tab.get, h, h2, ih]

/-- The value of a key of any table after a set. -/
theorem Tab.get_set {κ α : Type} [DecidableEq κ] (d : α) (t : Tab κ α) (q k : κ) (x : α) :
    Tab.get d (Tab.set t q x) k = if k = q then x else Tab.get d t k := by
  by_cases h : k = q
  · simp [h]
  · simp [h, Tab.get_set_other d t x h]

/-- A listed key is found after a set. -/
@[simp] theorem Tab.find_set_same {κ α : Type} [DecidableEq κ] (t : Tab κ α) (q : κ) (x : α) :
    Tab.find (Tab.set t q x) q = some x := by
  induction t with
  | nil => simp [Tab.set, Tab.find]
  | cons e t ih =>
    obtain ⟨k, v⟩ := e
    by_cases h : k = q <;> simp [Tab.set, Tab.find, h, ih]

/-- Another key is found as before. -/
theorem Tab.find_set_other {κ α : Type} [DecidableEq κ] (t : Tab κ α) {q k : κ} (x : α)
    (ne : k ≠ q) : Tab.find (Tab.set t q x) k = Tab.find t k := by
  induction t with
  | nil =>
    have : ¬ q = k := fun e => ne e.symm
    simp [Tab.set, Tab.find, this]
  | cons e t ih =>
    obtain ⟨j, v⟩ := e
    by_cases h : j = q
    · have : ¬ q = k := fun e => ne e.symm
      simp [Tab.set, Tab.find, h, this]
    · by_cases h2 : j = k
      · subst h2
        simp [Tab.set, Tab.find, h]
      · simp [Tab.set, Tab.find, h, h2, ih]

end Sys2Proof.Machine
end

