-- ==== Sys2Proof/Laws/State.lean ====
section
/-! SUPPORT. One lemma per field of State and shared update: the update leaves the field as it was. -/

namespace Sys2Proof.Machine

/-! `wr`. -/

@[simp] theorem wr_pending (s : State) (r : Reg) (i : Nat) (v : Word) :
    (wr s r i v).pending = s.pending := rfl
@[simp] theorem wr_free (s : State) (r : Reg) (i : Nat) (v : Word) :
    (wr s r i v).free = s.free := rfl
@[simp] theorem wr_warmed (s : State) (r : Reg) (i : Nat) (v : Word) :
    (wr s r i v).warmed = s.warmed := rfl
@[simp] theorem wr_cores (s : State) (r : Reg) (i : Nat) (v : Word) :
    (wr s r i v).cores = s.cores := rfl
@[simp] theorem wr_mem (s : State) (r : Reg) (i : Nat) (v : Word) : (wr s r i v).mem = s.mem := rfl
@[simp] theorem wr_poison (s : State) (r : Reg) (i : Nat) (v : Word) :
    (wr s r i v).poison = s.poison := rfl
@[simp] theorem wr_bulk (s : State) (r : Reg) (i : Nat) (v : Word) :
    (wr s r i v).bulk = s.bulk := rfl
@[simp] theorem wr_deadCh (s : State) (r : Reg) (i : Nat) (v : Word) :
    (wr s r i v).deadCh = s.deadCh := rfl
@[simp] theorem wr_twin (s : State) (r : Reg) (i : Nat) (v : Word) :
    (wr s r i v).twin = s.twin := rfl
@[simp] theorem wr_degraded (s : State) (r : Reg) (i : Nat) (v : Word) :
    (wr s r i v).degraded = s.degraded := rfl
@[simp] theorem wr_bad (s : State) (r : Reg) (i : Nat) (v : Word) : (wr s r i v).bad = s.bad := rfl
@[simp] theorem wr_ccache (s : State) (r : Reg) (i : Nat) (v : Word) :
    (wr s r i v).ccache = s.ccache := rfl
@[simp] theorem wr_fixes (s : State) (r : Reg) (i : Nat) (v : Word) :
    (wr s r i v).fixes = s.fixes := rfl
@[simp] theorem wr_rebuilt (s : State) (r : Reg) (i : Nat) (v : Word) :
    (wr s r i v).rebuilt = s.rebuilt := rfl
@[simp] theorem wr_spdBad (s : State) (r : Reg) (i : Nat) (v : Word) :
    (wr s r i v).spdBad = s.spdBad := rfl
@[simp] theorem wr_spdFix (s : State) (r : Reg) (i : Nat) (v : Word) :
    (wr s r i v).spdFix = s.spdFix := rfl
@[simp] theorem wr_wayOut (s : State) (r : Reg) (i : Nat) (v : Word) :
    (wr s r i v).wayOut = s.wayOut := rfl
@[simp] theorem wr_lines (s : State) (r : Reg) (i : Nat) (v : Word) :
    (wr s r i v).lines = s.lines := rfl
@[simp] theorem wr_stamp (s : State) (r : Reg) (i : Nat) (v : Word) :
    (wr s r i v).stamp = s.stamp := rfl
@[simp] theorem wr_homeQ (s : State) (r : Reg) (i : Nat) (v : Word) :
    (wr s r i v).homeQ = s.homeQ := rfl
@[simp] theorem wr_homeDone (s : State) (r : Reg) (i : Nat) (v : Word) :
    (wr s r i v).homeDone = s.homeDone := rfl
@[simp] theorem wr_proxyQ (s : State) (r : Reg) (i : Nat) (v : Word) :
    (wr s r i v).proxyQ = s.proxyQ := rfl
@[simp] theorem wr_copies (s : State) (r : Reg) (i : Nat) (v : Word) :
    (wr s r i v).copies = s.copies := rfl
@[simp] theorem wr_snoops (s : State) (r : Reg) (i : Nat) (v : Word) :
    (wr s r i v).snoops = s.snoops := rfl
@[simp] theorem wr_txs (s : State) (r : Reg) (i : Nat) (v : Word) : (wr s r i v).txs = s.txs := rfl
@[simp] theorem wr_reclaims (s : State) (r : Reg) (i : Nat) (v : Word) :
    (wr s r i v).reclaims = s.reclaims := rfl
@[simp] theorem wr_sseq (s : State) (r : Reg) (i : Nat) (v : Word) :
    (wr s r i v).sseq = s.sseq := rfl
@[simp] theorem wr_outbox (s : State) (r : Reg) (i : Nat) (v : Word) :
    (wr s r i v).outbox = s.outbox := rfl
@[simp] theorem wr_fab (s : State) (r : Reg) (i : Nat) (v : Word) : (wr s r i v).fab = s.fab := rfl
@[simp] theorem wr_winUse (s : State) (r : Reg) (i : Nat) (v : Word) :
    (wr s r i v).winUse = s.winUse := rfl
@[simp] theorem wr_missQ (s : State) (r : Reg) (i : Nat) (v : Word) :
    (wr s r i v).missQ = s.missQ := rfl
@[simp] theorem wr_missOvf (s : State) (r : Reg) (i : Nat) (v : Word) :
    (wr s r i v).missOvf = s.missOvf := rfl
@[simp] theorem wr_vps (s : State) (r : Reg) (i : Nat) (v : Word) : (wr s r i v).vps = s.vps := rfl
@[simp] theorem wr_vjobs (s : State) (r : Reg) (i : Nat) (v : Word) :
    (wr s r i v).vjobs = s.vjobs := rfl
@[simp] theorem wr_vmsgs (s : State) (r : Reg) (i : Nat) (v : Word) :
    (wr s r i v).vmsgs = s.vmsgs := rfl
@[simp] theorem wr_chans (s : State) (r : Reg) (i : Nat) (v : Word) :
    (wr s r i v).chans = s.chans := rfl
@[simp] theorem wr_etlb (s : State) (r : Reg) (i : Nat) (v : Word) :
    (wr s r i v).etlb = s.etlb := rfl
@[simp] theorem wr_time (s : State) (r : Reg) (i : Nat) (v : Word) :
    (wr s r i v).time = s.time := rfl
@[simp] theorem wr_keep (s : State) (r : Reg) (i : Nat) (v : Word) :
    (wr s r i v).keep = s.keep := rfl
@[simp] theorem wr_svc (s : State) (r : Reg) (i : Nat) (v : Word) : (wr s r i v).svc = s.svc := rfl
@[simp] theorem wr_dev (s : State) (r : Reg) (i : Nat) (v : Word) : (wr s r i v).dev = s.dev := rfl
@[simp] theorem wr_out (s : State) (r : Reg) (i : Nat) (v : Word) : (wr s r i v).out = s.out := rfl
@[simp] theorem wr_replays (s : State) (r : Reg) (i : Nat) (v : Word) :
    (wr s r i v).replays = s.replays := rfl
@[simp] theorem wr_moves (s : State) (r : Reg) (i : Nat) (v : Word) :
    (wr s r i v).moves = s.moves := rfl
@[simp] theorem wr_migrating (s : State) (r : Reg) (i : Nat) (v : Word) :
    (wr s r i v).migrating = s.migrating := rfl
@[simp] theorem wr_needSpare (s : State) (r : Reg) (i : Nat) (v : Word) :
    (wr s r i v).needSpare = s.needSpare := rfl
@[simp] theorem wr_rebuildAt (s : State) (r : Reg) (i : Nat) (v : Word) :
    (wr s r i v).rebuildAt = s.rebuildAt := rfl
@[simp] theorem wr_copying (s : State) (r : Reg) (i : Nat) (v : Word) :
    (wr s r i v).copying = s.copying := rfl
@[simp] theorem wr_calBad (s : State) (r : Reg) (i : Nat) (v : Word) :
    (wr s r i v).calBad = s.calBad := rfl
@[simp] theorem wr_resets (s : State) (r : Reg) (i : Nat) (v : Word) :
    (wr s r i v).resets = s.resets := rfl
@[simp] theorem wr_logHeld (s : State) (r : Reg) (i : Nat) (v : Word) :
    (wr s r i v).logHeld = s.logHeld := rfl
@[simp] theorem wr_logSeq (s : State) (r : Reg) (i : Nat) (v : Word) :
    (wr s r i v).logSeq = s.logSeq := rfl

/-! `fput`. -/

@[simp] theorem fput_pending (s : State) (f : FRef) (i v : Nat) :
    (fput s f i v).pending = s.pending := rfl
@[simp] theorem fput_free (s : State) (f : FRef) (i v : Nat) : (fput s f i v).free = s.free := rfl
@[simp] theorem fput_warmed (s : State) (f : FRef) (i v : Nat) :
    (fput s f i v).warmed = s.warmed := rfl
@[simp] theorem fput_cores (s : State) (f : FRef) (i v : Nat) :
    (fput s f i v).cores = s.cores := rfl
@[simp] theorem fput_mem (s : State) (f : FRef) (i v : Nat) : (fput s f i v).mem = s.mem := rfl
@[simp] theorem fput_poison (s : State) (f : FRef) (i v : Nat) :
    (fput s f i v).poison = s.poison := rfl
@[simp] theorem fput_bulk (s : State) (f : FRef) (i v : Nat) : (fput s f i v).bulk = s.bulk := rfl
@[simp] theorem fput_deadCh (s : State) (f : FRef) (i v : Nat) :
    (fput s f i v).deadCh = s.deadCh := rfl
@[simp] theorem fput_twin (s : State) (f : FRef) (i v : Nat) : (fput s f i v).twin = s.twin := rfl
@[simp] theorem fput_degraded (s : State) (f : FRef) (i v : Nat) :
    (fput s f i v).degraded = s.degraded := rfl
@[simp] theorem fput_bad (s : State) (f : FRef) (i v : Nat) : (fput s f i v).bad = s.bad := rfl
@[simp] theorem fput_ccache (s : State) (f : FRef) (i v : Nat) :
    (fput s f i v).ccache = s.ccache := rfl
@[simp] theorem fput_fixes (s : State) (f : FRef) (i v : Nat) :
    (fput s f i v).fixes = s.fixes := rfl
@[simp] theorem fput_rebuilt (s : State) (f : FRef) (i v : Nat) :
    (fput s f i v).rebuilt = s.rebuilt := rfl
@[simp] theorem fput_spdBad (s : State) (f : FRef) (i v : Nat) :
    (fput s f i v).spdBad = s.spdBad := rfl
@[simp] theorem fput_spdFix (s : State) (f : FRef) (i v : Nat) :
    (fput s f i v).spdFix = s.spdFix := rfl
@[simp] theorem fput_wayOut (s : State) (f : FRef) (i v : Nat) :
    (fput s f i v).wayOut = s.wayOut := rfl
@[simp] theorem fput_lines (s : State) (f : FRef) (i v : Nat) :
    (fput s f i v).lines = s.lines := rfl
@[simp] theorem fput_stamp (s : State) (f : FRef) (i v : Nat) :
    (fput s f i v).stamp = s.stamp := rfl
@[simp] theorem fput_homeQ (s : State) (f : FRef) (i v : Nat) :
    (fput s f i v).homeQ = s.homeQ := rfl
@[simp] theorem fput_homeDone (s : State) (f : FRef) (i v : Nat) :
    (fput s f i v).homeDone = s.homeDone := rfl
@[simp] theorem fput_proxyQ (s : State) (f : FRef) (i v : Nat) :
    (fput s f i v).proxyQ = s.proxyQ := rfl
@[simp] theorem fput_copies (s : State) (f : FRef) (i v : Nat) :
    (fput s f i v).copies = s.copies := rfl
@[simp] theorem fput_snoops (s : State) (f : FRef) (i v : Nat) :
    (fput s f i v).snoops = s.snoops := rfl
@[simp] theorem fput_txs (s : State) (f : FRef) (i v : Nat) : (fput s f i v).txs = s.txs := rfl
@[simp] theorem fput_reclaims (s : State) (f : FRef) (i v : Nat) :
    (fput s f i v).reclaims = s.reclaims := rfl
@[simp] theorem fput_sseq (s : State) (f : FRef) (i v : Nat) : (fput s f i v).sseq = s.sseq := rfl
@[simp] theorem fput_outbox (s : State) (f : FRef) (i v : Nat) :
    (fput s f i v).outbox = s.outbox := rfl
@[simp] theorem fput_fab (s : State) (f : FRef) (i v : Nat) : (fput s f i v).fab = s.fab := rfl
@[simp] theorem fput_winUse (s : State) (f : FRef) (i v : Nat) :
    (fput s f i v).winUse = s.winUse := rfl
@[simp] theorem fput_missQ (s : State) (f : FRef) (i v : Nat) :
    (fput s f i v).missQ = s.missQ := rfl
@[simp] theorem fput_missOvf (s : State) (f : FRef) (i v : Nat) :
    (fput s f i v).missOvf = s.missOvf := rfl
@[simp] theorem fput_vps (s : State) (f : FRef) (i v : Nat) : (fput s f i v).vps = s.vps := rfl
@[simp] theorem fput_vjobs (s : State) (f : FRef) (i v : Nat) :
    (fput s f i v).vjobs = s.vjobs := rfl
@[simp] theorem fput_vmsgs (s : State) (f : FRef) (i v : Nat) :
    (fput s f i v).vmsgs = s.vmsgs := rfl
@[simp] theorem fput_chans (s : State) (f : FRef) (i v : Nat) :
    (fput s f i v).chans = s.chans := rfl
@[simp] theorem fput_etlb (s : State) (f : FRef) (i v : Nat) : (fput s f i v).etlb = s.etlb := rfl
@[simp] theorem fput_time (s : State) (f : FRef) (i v : Nat) : (fput s f i v).time = s.time := rfl
@[simp] theorem fput_keep (s : State) (f : FRef) (i v : Nat) : (fput s f i v).keep = s.keep := rfl
@[simp] theorem fput_svc (s : State) (f : FRef) (i v : Nat) : (fput s f i v).svc = s.svc := rfl
@[simp] theorem fput_dev (s : State) (f : FRef) (i v : Nat) : (fput s f i v).dev = s.dev := rfl
@[simp] theorem fput_out (s : State) (f : FRef) (i v : Nat) : (fput s f i v).out = s.out := rfl
@[simp] theorem fput_replays (s : State) (f : FRef) (i v : Nat) :
    (fput s f i v).replays = s.replays := rfl
@[simp] theorem fput_moves (s : State) (f : FRef) (i v : Nat) :
    (fput s f i v).moves = s.moves := rfl
@[simp] theorem fput_migrating (s : State) (f : FRef) (i v : Nat) :
    (fput s f i v).migrating = s.migrating := rfl
@[simp] theorem fput_needSpare (s : State) (f : FRef) (i v : Nat) :
    (fput s f i v).needSpare = s.needSpare := rfl
@[simp] theorem fput_rebuildAt (s : State) (f : FRef) (i v : Nat) :
    (fput s f i v).rebuildAt = s.rebuildAt := rfl
@[simp] theorem fput_copying (s : State) (f : FRef) (i v : Nat) :
    (fput s f i v).copying = s.copying := rfl
@[simp] theorem fput_calBad (s : State) (f : FRef) (i v : Nat) :
    (fput s f i v).calBad = s.calBad := rfl
@[simp] theorem fput_resets (s : State) (f : FRef) (i v : Nat) :
    (fput s f i v).resets = s.resets := rfl
@[simp] theorem fput_logHeld (s : State) (f : FRef) (i v : Nat) :
    (fput s f i v).logHeld = s.logHeld := rfl
@[simp] theorem fput_logSeq (s : State) (f : FRef) (i v : Nat) :
    (fput s f i v).logSeq = s.logSeq := rfl

/-! `fsat`. -/

@[simp] theorem fsat_pending (s : State) (f : FRef) (i n : Nat) :
    (fsat s f i n).pending = s.pending := rfl
@[simp] theorem fsat_free (s : State) (f : FRef) (i n : Nat) : (fsat s f i n).free = s.free := rfl
@[simp] theorem fsat_warmed (s : State) (f : FRef) (i n : Nat) :
    (fsat s f i n).warmed = s.warmed := rfl
@[simp] theorem fsat_cores (s : State) (f : FRef) (i n : Nat) :
    (fsat s f i n).cores = s.cores := rfl
@[simp] theorem fsat_mem (s : State) (f : FRef) (i n : Nat) : (fsat s f i n).mem = s.mem := rfl
@[simp] theorem fsat_poison (s : State) (f : FRef) (i n : Nat) :
    (fsat s f i n).poison = s.poison := rfl
@[simp] theorem fsat_bulk (s : State) (f : FRef) (i n : Nat) : (fsat s f i n).bulk = s.bulk := rfl
@[simp] theorem fsat_deadCh (s : State) (f : FRef) (i n : Nat) :
    (fsat s f i n).deadCh = s.deadCh := rfl
@[simp] theorem fsat_twin (s : State) (f : FRef) (i n : Nat) : (fsat s f i n).twin = s.twin := rfl
@[simp] theorem fsat_degraded (s : State) (f : FRef) (i n : Nat) :
    (fsat s f i n).degraded = s.degraded := rfl
@[simp] theorem fsat_bad (s : State) (f : FRef) (i n : Nat) : (fsat s f i n).bad = s.bad := rfl
@[simp] theorem fsat_ccache (s : State) (f : FRef) (i n : Nat) :
    (fsat s f i n).ccache = s.ccache := rfl
@[simp] theorem fsat_fixes (s : State) (f : FRef) (i n : Nat) :
    (fsat s f i n).fixes = s.fixes := rfl
@[simp] theorem fsat_rebuilt (s : State) (f : FRef) (i n : Nat) :
    (fsat s f i n).rebuilt = s.rebuilt := rfl
@[simp] theorem fsat_spdBad (s : State) (f : FRef) (i n : Nat) :
    (fsat s f i n).spdBad = s.spdBad := rfl
@[simp] theorem fsat_spdFix (s : State) (f : FRef) (i n : Nat) :
    (fsat s f i n).spdFix = s.spdFix := rfl
@[simp] theorem fsat_wayOut (s : State) (f : FRef) (i n : Nat) :
    (fsat s f i n).wayOut = s.wayOut := rfl
@[simp] theorem fsat_lines (s : State) (f : FRef) (i n : Nat) :
    (fsat s f i n).lines = s.lines := rfl
@[simp] theorem fsat_stamp (s : State) (f : FRef) (i n : Nat) :
    (fsat s f i n).stamp = s.stamp := rfl
@[simp] theorem fsat_homeQ (s : State) (f : FRef) (i n : Nat) :
    (fsat s f i n).homeQ = s.homeQ := rfl
@[simp] theorem fsat_homeDone (s : State) (f : FRef) (i n : Nat) :
    (fsat s f i n).homeDone = s.homeDone := rfl
@[simp] theorem fsat_proxyQ (s : State) (f : FRef) (i n : Nat) :
    (fsat s f i n).proxyQ = s.proxyQ := rfl
@[simp] theorem fsat_copies (s : State) (f : FRef) (i n : Nat) :
    (fsat s f i n).copies = s.copies := rfl
@[simp] theorem fsat_snoops (s : State) (f : FRef) (i n : Nat) :
    (fsat s f i n).snoops = s.snoops := rfl
@[simp] theorem fsat_txs (s : State) (f : FRef) (i n : Nat) : (fsat s f i n).txs = s.txs := rfl
@[simp] theorem fsat_reclaims (s : State) (f : FRef) (i n : Nat) :
    (fsat s f i n).reclaims = s.reclaims := rfl
@[simp] theorem fsat_sseq (s : State) (f : FRef) (i n : Nat) : (fsat s f i n).sseq = s.sseq := rfl
@[simp] theorem fsat_outbox (s : State) (f : FRef) (i n : Nat) :
    (fsat s f i n).outbox = s.outbox := rfl
@[simp] theorem fsat_fab (s : State) (f : FRef) (i n : Nat) : (fsat s f i n).fab = s.fab := rfl
@[simp] theorem fsat_winUse (s : State) (f : FRef) (i n : Nat) :
    (fsat s f i n).winUse = s.winUse := rfl
@[simp] theorem fsat_missQ (s : State) (f : FRef) (i n : Nat) :
    (fsat s f i n).missQ = s.missQ := rfl
@[simp] theorem fsat_missOvf (s : State) (f : FRef) (i n : Nat) :
    (fsat s f i n).missOvf = s.missOvf := rfl
@[simp] theorem fsat_vps (s : State) (f : FRef) (i n : Nat) : (fsat s f i n).vps = s.vps := rfl
@[simp] theorem fsat_vjobs (s : State) (f : FRef) (i n : Nat) :
    (fsat s f i n).vjobs = s.vjobs := rfl
@[simp] theorem fsat_vmsgs (s : State) (f : FRef) (i n : Nat) :
    (fsat s f i n).vmsgs = s.vmsgs := rfl
@[simp] theorem fsat_chans (s : State) (f : FRef) (i n : Nat) :
    (fsat s f i n).chans = s.chans := rfl
@[simp] theorem fsat_etlb (s : State) (f : FRef) (i n : Nat) : (fsat s f i n).etlb = s.etlb := rfl
@[simp] theorem fsat_time (s : State) (f : FRef) (i n : Nat) : (fsat s f i n).time = s.time := rfl
@[simp] theorem fsat_keep (s : State) (f : FRef) (i n : Nat) : (fsat s f i n).keep = s.keep := rfl
@[simp] theorem fsat_svc (s : State) (f : FRef) (i n : Nat) : (fsat s f i n).svc = s.svc := rfl
@[simp] theorem fsat_dev (s : State) (f : FRef) (i n : Nat) : (fsat s f i n).dev = s.dev := rfl
@[simp] theorem fsat_out (s : State) (f : FRef) (i n : Nat) : (fsat s f i n).out = s.out := rfl
@[simp] theorem fsat_replays (s : State) (f : FRef) (i n : Nat) :
    (fsat s f i n).replays = s.replays := rfl
@[simp] theorem fsat_moves (s : State) (f : FRef) (i n : Nat) :
    (fsat s f i n).moves = s.moves := rfl
@[simp] theorem fsat_migrating (s : State) (f : FRef) (i n : Nat) :
    (fsat s f i n).migrating = s.migrating := rfl
@[simp] theorem fsat_needSpare (s : State) (f : FRef) (i n : Nat) :
    (fsat s f i n).needSpare = s.needSpare := rfl
@[simp] theorem fsat_rebuildAt (s : State) (f : FRef) (i n : Nat) :
    (fsat s f i n).rebuildAt = s.rebuildAt := rfl
@[simp] theorem fsat_copying (s : State) (f : FRef) (i n : Nat) :
    (fsat s f i n).copying = s.copying := rfl
@[simp] theorem fsat_calBad (s : State) (f : FRef) (i n : Nat) :
    (fsat s f i n).calBad = s.calBad := rfl
@[simp] theorem fsat_resets (s : State) (f : FRef) (i n : Nat) :
    (fsat s f i n).resets = s.resets := rfl
@[simp] theorem fsat_logHeld (s : State) (f : FRef) (i n : Nat) :
    (fsat s f i n).logHeld = s.logHeld := rfl
@[simp] theorem fsat_logSeq (s : State) (f : FRef) (i n : Nat) :
    (fsat s f i n).logSeq = s.logSeq := rfl

/-! `fadd`. -/

@[simp] theorem fadd_pending (s : State) (f : FRef) (i n : Nat) :
    (fadd s f i n).pending = s.pending := rfl
@[simp] theorem fadd_free (s : State) (f : FRef) (i n : Nat) : (fadd s f i n).free = s.free := rfl
@[simp] theorem fadd_warmed (s : State) (f : FRef) (i n : Nat) :
    (fadd s f i n).warmed = s.warmed := rfl
@[simp] theorem fadd_cores (s : State) (f : FRef) (i n : Nat) :
    (fadd s f i n).cores = s.cores := rfl
@[simp] theorem fadd_mem (s : State) (f : FRef) (i n : Nat) : (fadd s f i n).mem = s.mem := rfl
@[simp] theorem fadd_poison (s : State) (f : FRef) (i n : Nat) :
    (fadd s f i n).poison = s.poison := rfl
@[simp] theorem fadd_bulk (s : State) (f : FRef) (i n : Nat) : (fadd s f i n).bulk = s.bulk := rfl
@[simp] theorem fadd_deadCh (s : State) (f : FRef) (i n : Nat) :
    (fadd s f i n).deadCh = s.deadCh := rfl
@[simp] theorem fadd_twin (s : State) (f : FRef) (i n : Nat) : (fadd s f i n).twin = s.twin := rfl
@[simp] theorem fadd_degraded (s : State) (f : FRef) (i n : Nat) :
    (fadd s f i n).degraded = s.degraded := rfl
@[simp] theorem fadd_bad (s : State) (f : FRef) (i n : Nat) : (fadd s f i n).bad = s.bad := rfl
@[simp] theorem fadd_ccache (s : State) (f : FRef) (i n : Nat) :
    (fadd s f i n).ccache = s.ccache := rfl
@[simp] theorem fadd_fixes (s : State) (f : FRef) (i n : Nat) :
    (fadd s f i n).fixes = s.fixes := rfl
@[simp] theorem fadd_rebuilt (s : State) (f : FRef) (i n : Nat) :
    (fadd s f i n).rebuilt = s.rebuilt := rfl
@[simp] theorem fadd_spdBad (s : State) (f : FRef) (i n : Nat) :
    (fadd s f i n).spdBad = s.spdBad := rfl
@[simp] theorem fadd_spdFix (s : State) (f : FRef) (i n : Nat) :
    (fadd s f i n).spdFix = s.spdFix := rfl
@[simp] theorem fadd_wayOut (s : State) (f : FRef) (i n : Nat) :
    (fadd s f i n).wayOut = s.wayOut := rfl
@[simp] theorem fadd_lines (s : State) (f : FRef) (i n : Nat) :
    (fadd s f i n).lines = s.lines := rfl
@[simp] theorem fadd_stamp (s : State) (f : FRef) (i n : Nat) :
    (fadd s f i n).stamp = s.stamp := rfl
@[simp] theorem fadd_homeQ (s : State) (f : FRef) (i n : Nat) :
    (fadd s f i n).homeQ = s.homeQ := rfl
@[simp] theorem fadd_homeDone (s : State) (f : FRef) (i n : Nat) :
    (fadd s f i n).homeDone = s.homeDone := rfl
@[simp] theorem fadd_proxyQ (s : State) (f : FRef) (i n : Nat) :
    (fadd s f i n).proxyQ = s.proxyQ := rfl
@[simp] theorem fadd_copies (s : State) (f : FRef) (i n : Nat) :
    (fadd s f i n).copies = s.copies := rfl
@[simp] theorem fadd_snoops (s : State) (f : FRef) (i n : Nat) :
    (fadd s f i n).snoops = s.snoops := rfl
@[simp] theorem fadd_txs (s : State) (f : FRef) (i n : Nat) : (fadd s f i n).txs = s.txs := rfl
@[simp] theorem fadd_reclaims (s : State) (f : FRef) (i n : Nat) :
    (fadd s f i n).reclaims = s.reclaims := rfl
@[simp] theorem fadd_sseq (s : State) (f : FRef) (i n : Nat) : (fadd s f i n).sseq = s.sseq := rfl
@[simp] theorem fadd_outbox (s : State) (f : FRef) (i n : Nat) :
    (fadd s f i n).outbox = s.outbox := rfl
@[simp] theorem fadd_fab (s : State) (f : FRef) (i n : Nat) : (fadd s f i n).fab = s.fab := rfl
@[simp] theorem fadd_winUse (s : State) (f : FRef) (i n : Nat) :
    (fadd s f i n).winUse = s.winUse := rfl
@[simp] theorem fadd_missQ (s : State) (f : FRef) (i n : Nat) :
    (fadd s f i n).missQ = s.missQ := rfl
@[simp] theorem fadd_missOvf (s : State) (f : FRef) (i n : Nat) :
    (fadd s f i n).missOvf = s.missOvf := rfl
@[simp] theorem fadd_vps (s : State) (f : FRef) (i n : Nat) : (fadd s f i n).vps = s.vps := rfl
@[simp] theorem fadd_vjobs (s : State) (f : FRef) (i n : Nat) :
    (fadd s f i n).vjobs = s.vjobs := rfl
@[simp] theorem fadd_vmsgs (s : State) (f : FRef) (i n : Nat) :
    (fadd s f i n).vmsgs = s.vmsgs := rfl
@[simp] theorem fadd_chans (s : State) (f : FRef) (i n : Nat) :
    (fadd s f i n).chans = s.chans := rfl
@[simp] theorem fadd_etlb (s : State) (f : FRef) (i n : Nat) : (fadd s f i n).etlb = s.etlb := rfl
@[simp] theorem fadd_time (s : State) (f : FRef) (i n : Nat) : (fadd s f i n).time = s.time := rfl
@[simp] theorem fadd_keep (s : State) (f : FRef) (i n : Nat) : (fadd s f i n).keep = s.keep := rfl
@[simp] theorem fadd_svc (s : State) (f : FRef) (i n : Nat) : (fadd s f i n).svc = s.svc := rfl
@[simp] theorem fadd_dev (s : State) (f : FRef) (i n : Nat) : (fadd s f i n).dev = s.dev := rfl
@[simp] theorem fadd_out (s : State) (f : FRef) (i n : Nat) : (fadd s f i n).out = s.out := rfl
@[simp] theorem fadd_replays (s : State) (f : FRef) (i n : Nat) :
    (fadd s f i n).replays = s.replays := rfl
@[simp] theorem fadd_moves (s : State) (f : FRef) (i n : Nat) :
    (fadd s f i n).moves = s.moves := rfl
@[simp] theorem fadd_migrating (s : State) (f : FRef) (i n : Nat) :
    (fadd s f i n).migrating = s.migrating := rfl
@[simp] theorem fadd_needSpare (s : State) (f : FRef) (i n : Nat) :
    (fadd s f i n).needSpare = s.needSpare := rfl
@[simp] theorem fadd_rebuildAt (s : State) (f : FRef) (i n : Nat) :
    (fadd s f i n).rebuildAt = s.rebuildAt := rfl
@[simp] theorem fadd_copying (s : State) (f : FRef) (i n : Nat) :
    (fadd s f i n).copying = s.copying := rfl
@[simp] theorem fadd_calBad (s : State) (f : FRef) (i n : Nat) :
    (fadd s f i n).calBad = s.calBad := rfl
@[simp] theorem fadd_resets (s : State) (f : FRef) (i n : Nat) :
    (fadd s f i n).resets = s.resets := rfl
@[simp] theorem fadd_logHeld (s : State) (f : FRef) (i n : Nat) :
    (fadd s f i n).logHeld = s.logHeld := rfl
@[simp] theorem fadd_logSeq (s : State) (f : FRef) (i n : Nat) :
    (fadd s f i n).logSeq = s.logSeq := rfl

/-! `setC`. -/

@[simp] theorem setC_pending (s : State) (c : CoreNo) (r : CReg) (v : Nat) :
    (setC s c r v).pending = s.pending := rfl
@[simp] theorem setC_free (s : State) (c : CoreNo) (r : CReg) (v : Nat) :
    (setC s c r v).free = s.free := rfl
@[simp] theorem setC_warmed (s : State) (c : CoreNo) (r : CReg) (v : Nat) :
    (setC s c r v).warmed = s.warmed := rfl
@[simp] theorem setC_cores (s : State) (c : CoreNo) (r : CReg) (v : Nat) :
    (setC s c r v).cores = s.cores := rfl
@[simp] theorem setC_mem (s : State) (c : CoreNo) (r : CReg) (v : Nat) :
    (setC s c r v).mem = s.mem := rfl
@[simp] theorem setC_poison (s : State) (c : CoreNo) (r : CReg) (v : Nat) :
    (setC s c r v).poison = s.poison := rfl
@[simp] theorem setC_bulk (s : State) (c : CoreNo) (r : CReg) (v : Nat) :
    (setC s c r v).bulk = s.bulk := rfl
@[simp] theorem setC_deadCh (s : State) (c : CoreNo) (r : CReg) (v : Nat) :
    (setC s c r v).deadCh = s.deadCh := rfl
@[simp] theorem setC_twin (s : State) (c : CoreNo) (r : CReg) (v : Nat) :
    (setC s c r v).twin = s.twin := rfl
@[simp] theorem setC_degraded (s : State) (c : CoreNo) (r : CReg) (v : Nat) :
    (setC s c r v).degraded = s.degraded := rfl
@[simp] theorem setC_bad (s : State) (c : CoreNo) (r : CReg) (v : Nat) :
    (setC s c r v).bad = s.bad := rfl
@[simp] theorem setC_ccache (s : State) (c : CoreNo) (r : CReg) (v : Nat) :
    (setC s c r v).ccache = s.ccache := rfl
@[simp] theorem setC_fixes (s : State) (c : CoreNo) (r : CReg) (v : Nat) :
    (setC s c r v).fixes = s.fixes := rfl
@[simp] theorem setC_rebuilt (s : State) (c : CoreNo) (r : CReg) (v : Nat) :
    (setC s c r v).rebuilt = s.rebuilt := rfl
@[simp] theorem setC_spdBad (s : State) (c : CoreNo) (r : CReg) (v : Nat) :
    (setC s c r v).spdBad = s.spdBad := rfl
@[simp] theorem setC_spdFix (s : State) (c : CoreNo) (r : CReg) (v : Nat) :
    (setC s c r v).spdFix = s.spdFix := rfl
@[simp] theorem setC_wayOut (s : State) (c : CoreNo) (r : CReg) (v : Nat) :
    (setC s c r v).wayOut = s.wayOut := rfl
@[simp] theorem setC_lines (s : State) (c : CoreNo) (r : CReg) (v : Nat) :
    (setC s c r v).lines = s.lines := rfl
@[simp] theorem setC_stamp (s : State) (c : CoreNo) (r : CReg) (v : Nat) :
    (setC s c r v).stamp = s.stamp := rfl
@[simp] theorem setC_homeQ (s : State) (c : CoreNo) (r : CReg) (v : Nat) :
    (setC s c r v).homeQ = s.homeQ := rfl
@[simp] theorem setC_homeDone (s : State) (c : CoreNo) (r : CReg) (v : Nat) :
    (setC s c r v).homeDone = s.homeDone := rfl
@[simp] theorem setC_proxyQ (s : State) (c : CoreNo) (r : CReg) (v : Nat) :
    (setC s c r v).proxyQ = s.proxyQ := rfl
@[simp] theorem setC_copies (s : State) (c : CoreNo) (r : CReg) (v : Nat) :
    (setC s c r v).copies = s.copies := rfl
@[simp] theorem setC_snoops (s : State) (c : CoreNo) (r : CReg) (v : Nat) :
    (setC s c r v).snoops = s.snoops := rfl
@[simp] theorem setC_txs (s : State) (c : CoreNo) (r : CReg) (v : Nat) :
    (setC s c r v).txs = s.txs := rfl
@[simp] theorem setC_reclaims (s : State) (c : CoreNo) (r : CReg) (v : Nat) :
    (setC s c r v).reclaims = s.reclaims := rfl
@[simp] theorem setC_sseq (s : State) (c : CoreNo) (r : CReg) (v : Nat) :
    (setC s c r v).sseq = s.sseq := rfl
@[simp] theorem setC_outbox (s : State) (c : CoreNo) (r : CReg) (v : Nat) :
    (setC s c r v).outbox = s.outbox := rfl
@[simp] theorem setC_fab (s : State) (c : CoreNo) (r : CReg) (v : Nat) :
    (setC s c r v).fab = s.fab := rfl
@[simp] theorem setC_winUse (s : State) (c : CoreNo) (r : CReg) (v : Nat) :
    (setC s c r v).winUse = s.winUse := rfl
@[simp] theorem setC_missQ (s : State) (c : CoreNo) (r : CReg) (v : Nat) :
    (setC s c r v).missQ = s.missQ := rfl
@[simp] theorem setC_missOvf (s : State) (c : CoreNo) (r : CReg) (v : Nat) :
    (setC s c r v).missOvf = s.missOvf := rfl
@[simp] theorem setC_vps (s : State) (c : CoreNo) (r : CReg) (v : Nat) :
    (setC s c r v).vps = s.vps := rfl
@[simp] theorem setC_vjobs (s : State) (c : CoreNo) (r : CReg) (v : Nat) :
    (setC s c r v).vjobs = s.vjobs := rfl
@[simp] theorem setC_vmsgs (s : State) (c : CoreNo) (r : CReg) (v : Nat) :
    (setC s c r v).vmsgs = s.vmsgs := rfl
@[simp] theorem setC_chans (s : State) (c : CoreNo) (r : CReg) (v : Nat) :
    (setC s c r v).chans = s.chans := rfl
@[simp] theorem setC_etlb (s : State) (c : CoreNo) (r : CReg) (v : Nat) :
    (setC s c r v).etlb = s.etlb := rfl
@[simp] theorem setC_time (s : State) (c : CoreNo) (r : CReg) (v : Nat) :
    (setC s c r v).time = s.time := rfl
@[simp] theorem setC_keep (s : State) (c : CoreNo) (r : CReg) (v : Nat) :
    (setC s c r v).keep = s.keep := rfl
@[simp] theorem setC_svc (s : State) (c : CoreNo) (r : CReg) (v : Nat) :
    (setC s c r v).svc = s.svc := rfl
@[simp] theorem setC_dev (s : State) (c : CoreNo) (r : CReg) (v : Nat) :
    (setC s c r v).dev = s.dev := rfl
@[simp] theorem setC_out (s : State) (c : CoreNo) (r : CReg) (v : Nat) :
    (setC s c r v).out = s.out := rfl
@[simp] theorem setC_replays (s : State) (c : CoreNo) (r : CReg) (v : Nat) :
    (setC s c r v).replays = s.replays := rfl
@[simp] theorem setC_moves (s : State) (c : CoreNo) (r : CReg) (v : Nat) :
    (setC s c r v).moves = s.moves := rfl
@[simp] theorem setC_migrating (s : State) (c : CoreNo) (r : CReg) (v : Nat) :
    (setC s c r v).migrating = s.migrating := rfl
@[simp] theorem setC_needSpare (s : State) (c : CoreNo) (r : CReg) (v : Nat) :
    (setC s c r v).needSpare = s.needSpare := rfl
@[simp] theorem setC_rebuildAt (s : State) (c : CoreNo) (r : CReg) (v : Nat) :
    (setC s c r v).rebuildAt = s.rebuildAt := rfl
@[simp] theorem setC_copying (s : State) (c : CoreNo) (r : CReg) (v : Nat) :
    (setC s c r v).copying = s.copying := rfl
@[simp] theorem setC_calBad (s : State) (c : CoreNo) (r : CReg) (v : Nat) :
    (setC s c r v).calBad = s.calBad := rfl
@[simp] theorem setC_resets (s : State) (c : CoreNo) (r : CReg) (v : Nat) :
    (setC s c r v).resets = s.resets := rfl
@[simp] theorem setC_logHeld (s : State) (c : CoreNo) (r : CReg) (v : Nat) :
    (setC s c r v).logHeld = s.logHeld := rfl
@[simp] theorem setC_logSeq (s : State) (c : CoreNo) (r : CReg) (v : Nat) :
    (setC s c r v).logSeq = s.logSeq := rfl

/-! `setPend`. -/

@[simp] theorem setPend_pending (s : State) (c v : Nat) (b : Bool) :
    (setPend s c v b).pending = s.pending := rfl
@[simp] theorem setPend_free (s : State) (c v : Nat) (b : Bool) :
    (setPend s c v b).free = s.free := rfl
@[simp] theorem setPend_warmed (s : State) (c v : Nat) (b : Bool) :
    (setPend s c v b).warmed = s.warmed := rfl
@[simp] theorem setPend_cores (s : State) (c v : Nat) (b : Bool) :
    (setPend s c v b).cores = s.cores := rfl
@[simp] theorem setPend_mem (s : State) (c v : Nat) (b : Bool) :
    (setPend s c v b).mem = s.mem := rfl
@[simp] theorem setPend_poison (s : State) (c v : Nat) (b : Bool) :
    (setPend s c v b).poison = s.poison := rfl
@[simp] theorem setPend_bulk (s : State) (c v : Nat) (b : Bool) :
    (setPend s c v b).bulk = s.bulk := rfl
@[simp] theorem setPend_deadCh (s : State) (c v : Nat) (b : Bool) :
    (setPend s c v b).deadCh = s.deadCh := rfl
@[simp] theorem setPend_twin (s : State) (c v : Nat) (b : Bool) :
    (setPend s c v b).twin = s.twin := rfl
@[simp] theorem setPend_degraded (s : State) (c v : Nat) (b : Bool) :
    (setPend s c v b).degraded = s.degraded := rfl
@[simp] theorem setPend_bad (s : State) (c v : Nat) (b : Bool) :
    (setPend s c v b).bad = s.bad := rfl
@[simp] theorem setPend_ccache (s : State) (c v : Nat) (b : Bool) :
    (setPend s c v b).ccache = s.ccache := rfl
@[simp] theorem setPend_fixes (s : State) (c v : Nat) (b : Bool) :
    (setPend s c v b).fixes = s.fixes := rfl
@[simp] theorem setPend_rebuilt (s : State) (c v : Nat) (b : Bool) :
    (setPend s c v b).rebuilt = s.rebuilt := rfl
@[simp] theorem setPend_spdBad (s : State) (c v : Nat) (b : Bool) :
    (setPend s c v b).spdBad = s.spdBad := rfl
@[simp] theorem setPend_spdFix (s : State) (c v : Nat) (b : Bool) :
    (setPend s c v b).spdFix = s.spdFix := rfl
@[simp] theorem setPend_wayOut (s : State) (c v : Nat) (b : Bool) :
    (setPend s c v b).wayOut = s.wayOut := rfl
@[simp] theorem setPend_lines (s : State) (c v : Nat) (b : Bool) :
    (setPend s c v b).lines = s.lines := rfl
@[simp] theorem setPend_stamp (s : State) (c v : Nat) (b : Bool) :
    (setPend s c v b).stamp = s.stamp := rfl
@[simp] theorem setPend_homeQ (s : State) (c v : Nat) (b : Bool) :
    (setPend s c v b).homeQ = s.homeQ := rfl
@[simp] theorem setPend_homeDone (s : State) (c v : Nat) (b : Bool) :
    (setPend s c v b).homeDone = s.homeDone := rfl
@[simp] theorem setPend_proxyQ (s : State) (c v : Nat) (b : Bool) :
    (setPend s c v b).proxyQ = s.proxyQ := rfl
@[simp] theorem setPend_copies (s : State) (c v : Nat) (b : Bool) :
    (setPend s c v b).copies = s.copies := rfl
@[simp] theorem setPend_snoops (s : State) (c v : Nat) (b : Bool) :
    (setPend s c v b).snoops = s.snoops := rfl
@[simp] theorem setPend_txs (s : State) (c v : Nat) (b : Bool) :
    (setPend s c v b).txs = s.txs := rfl
@[simp] theorem setPend_reclaims (s : State) (c v : Nat) (b : Bool) :
    (setPend s c v b).reclaims = s.reclaims := rfl
@[simp] theorem setPend_sseq (s : State) (c v : Nat) (b : Bool) :
    (setPend s c v b).sseq = s.sseq := rfl
@[simp] theorem setPend_outbox (s : State) (c v : Nat) (b : Bool) :
    (setPend s c v b).outbox = s.outbox := rfl
@[simp] theorem setPend_fab (s : State) (c v : Nat) (b : Bool) :
    (setPend s c v b).fab = s.fab := rfl
@[simp] theorem setPend_winUse (s : State) (c v : Nat) (b : Bool) :
    (setPend s c v b).winUse = s.winUse := rfl
@[simp] theorem setPend_missQ (s : State) (c v : Nat) (b : Bool) :
    (setPend s c v b).missQ = s.missQ := rfl
@[simp] theorem setPend_missOvf (s : State) (c v : Nat) (b : Bool) :
    (setPend s c v b).missOvf = s.missOvf := rfl
@[simp] theorem setPend_vps (s : State) (c v : Nat) (b : Bool) :
    (setPend s c v b).vps = s.vps := rfl
@[simp] theorem setPend_vjobs (s : State) (c v : Nat) (b : Bool) :
    (setPend s c v b).vjobs = s.vjobs := rfl
@[simp] theorem setPend_vmsgs (s : State) (c v : Nat) (b : Bool) :
    (setPend s c v b).vmsgs = s.vmsgs := rfl
@[simp] theorem setPend_chans (s : State) (c v : Nat) (b : Bool) :
    (setPend s c v b).chans = s.chans := rfl
@[simp] theorem setPend_etlb (s : State) (c v : Nat) (b : Bool) :
    (setPend s c v b).etlb = s.etlb := rfl
@[simp] theorem setPend_time (s : State) (c v : Nat) (b : Bool) :
    (setPend s c v b).time = s.time := rfl
@[simp] theorem setPend_keep (s : State) (c v : Nat) (b : Bool) :
    (setPend s c v b).keep = s.keep := rfl
@[simp] theorem setPend_svc (s : State) (c v : Nat) (b : Bool) :
    (setPend s c v b).svc = s.svc := rfl
@[simp] theorem setPend_dev (s : State) (c v : Nat) (b : Bool) :
    (setPend s c v b).dev = s.dev := rfl
@[simp] theorem setPend_out (s : State) (c v : Nat) (b : Bool) :
    (setPend s c v b).out = s.out := rfl
@[simp] theorem setPend_replays (s : State) (c v : Nat) (b : Bool) :
    (setPend s c v b).replays = s.replays := rfl
@[simp] theorem setPend_moves (s : State) (c v : Nat) (b : Bool) :
    (setPend s c v b).moves = s.moves := rfl
@[simp] theorem setPend_migrating (s : State) (c v : Nat) (b : Bool) :
    (setPend s c v b).migrating = s.migrating := rfl
@[simp] theorem setPend_needSpare (s : State) (c v : Nat) (b : Bool) :
    (setPend s c v b).needSpare = s.needSpare := rfl
@[simp] theorem setPend_rebuildAt (s : State) (c v : Nat) (b : Bool) :
    (setPend s c v b).rebuildAt = s.rebuildAt := rfl
@[simp] theorem setPend_copying (s : State) (c v : Nat) (b : Bool) :
    (setPend s c v b).copying = s.copying := rfl
@[simp] theorem setPend_calBad (s : State) (c v : Nat) (b : Bool) :
    (setPend s c v b).calBad = s.calBad := rfl
@[simp] theorem setPend_resets (s : State) (c v : Nat) (b : Bool) :
    (setPend s c v b).resets = s.resets := rfl
@[simp] theorem setPend_logHeld (s : State) (c v : Nat) (b : Bool) :
    (setPend s c v b).logHeld = s.logHeld := rfl
@[simp] theorem setPend_logSeq (s : State) (c v : Nat) (b : Bool) :
    (setPend s c v b).logSeq = s.logSeq := rfl

/-! `setCore`. -/

@[simp] theorem setCore_pending (s : State) (c : Nat) (k : Core) :
    (setCore s c k).pending = s.pending := rfl
@[simp] theorem setCore_free (s : State) (c : Nat) (k : Core) : (setCore s c k).free = s.free := rfl
@[simp] theorem setCore_regs (s : State) (c : Nat) (k : Core) : (setCore s c k).regs = s.regs := rfl
@[simp] theorem setCore_warmed (s : State) (c : Nat) (k : Core) :
    (setCore s c k).warmed = s.warmed := rfl
@[simp] theorem setCore_mem (s : State) (c : Nat) (k : Core) : (setCore s c k).mem = s.mem := rfl
@[simp] theorem setCore_poison (s : State) (c : Nat) (k : Core) :
    (setCore s c k).poison = s.poison := rfl
@[simp] theorem setCore_bulk (s : State) (c : Nat) (k : Core) : (setCore s c k).bulk = s.bulk := rfl
@[simp] theorem setCore_deadCh (s : State) (c : Nat) (k : Core) :
    (setCore s c k).deadCh = s.deadCh := rfl
@[simp] theorem setCore_twin (s : State) (c : Nat) (k : Core) : (setCore s c k).twin = s.twin := rfl
@[simp] theorem setCore_degraded (s : State) (c : Nat) (k : Core) :
    (setCore s c k).degraded = s.degraded := rfl
@[simp] theorem setCore_bad (s : State) (c : Nat) (k : Core) : (setCore s c k).bad = s.bad := rfl
@[simp] theorem setCore_ccache (s : State) (c : Nat) (k : Core) :
    (setCore s c k).ccache = s.ccache := rfl
@[simp] theorem setCore_fixes (s : State) (c : Nat) (k : Core) :
    (setCore s c k).fixes = s.fixes := rfl
@[simp] theorem setCore_rebuilt (s : State) (c : Nat) (k : Core) :
    (setCore s c k).rebuilt = s.rebuilt := rfl
@[simp] theorem setCore_spdBad (s : State) (c : Nat) (k : Core) :
    (setCore s c k).spdBad = s.spdBad := rfl
@[simp] theorem setCore_spdFix (s : State) (c : Nat) (k : Core) :
    (setCore s c k).spdFix = s.spdFix := rfl
@[simp] theorem setCore_wayOut (s : State) (c : Nat) (k : Core) :
    (setCore s c k).wayOut = s.wayOut := rfl
@[simp] theorem setCore_lines (s : State) (c : Nat) (k : Core) :
    (setCore s c k).lines = s.lines := rfl
@[simp] theorem setCore_stamp (s : State) (c : Nat) (k : Core) :
    (setCore s c k).stamp = s.stamp := rfl
@[simp] theorem setCore_homeQ (s : State) (c : Nat) (k : Core) :
    (setCore s c k).homeQ = s.homeQ := rfl
@[simp] theorem setCore_homeDone (s : State) (c : Nat) (k : Core) :
    (setCore s c k).homeDone = s.homeDone := rfl
@[simp] theorem setCore_proxyQ (s : State) (c : Nat) (k : Core) :
    (setCore s c k).proxyQ = s.proxyQ := rfl
@[simp] theorem setCore_copies (s : State) (c : Nat) (k : Core) :
    (setCore s c k).copies = s.copies := rfl
@[simp] theorem setCore_snoops (s : State) (c : Nat) (k : Core) :
    (setCore s c k).snoops = s.snoops := rfl
@[simp] theorem setCore_txs (s : State) (c : Nat) (k : Core) : (setCore s c k).txs = s.txs := rfl
@[simp] theorem setCore_reclaims (s : State) (c : Nat) (k : Core) :
    (setCore s c k).reclaims = s.reclaims := rfl
@[simp] theorem setCore_sseq (s : State) (c : Nat) (k : Core) : (setCore s c k).sseq = s.sseq := rfl
@[simp] theorem setCore_outbox (s : State) (c : Nat) (k : Core) :
    (setCore s c k).outbox = s.outbox := rfl
@[simp] theorem setCore_fab (s : State) (c : Nat) (k : Core) : (setCore s c k).fab = s.fab := rfl
@[simp] theorem setCore_winUse (s : State) (c : Nat) (k : Core) :
    (setCore s c k).winUse = s.winUse := rfl
@[simp] theorem setCore_missQ (s : State) (c : Nat) (k : Core) :
    (setCore s c k).missQ = s.missQ := rfl
@[simp] theorem setCore_missOvf (s : State) (c : Nat) (k : Core) :
    (setCore s c k).missOvf = s.missOvf := rfl
@[simp] theorem setCore_vps (s : State) (c : Nat) (k : Core) : (setCore s c k).vps = s.vps := rfl
@[simp] theorem setCore_vjobs (s : State) (c : Nat) (k : Core) :
    (setCore s c k).vjobs = s.vjobs := rfl
@[simp] theorem setCore_vmsgs (s : State) (c : Nat) (k : Core) :
    (setCore s c k).vmsgs = s.vmsgs := rfl
@[simp] theorem setCore_chans (s : State) (c : Nat) (k : Core) :
    (setCore s c k).chans = s.chans := rfl
@[simp] theorem setCore_etlb (s : State) (c : Nat) (k : Core) : (setCore s c k).etlb = s.etlb := rfl
@[simp] theorem setCore_time (s : State) (c : Nat) (k : Core) : (setCore s c k).time = s.time := rfl
@[simp] theorem setCore_keep (s : State) (c : Nat) (k : Core) : (setCore s c k).keep = s.keep := rfl
@[simp] theorem setCore_svc (s : State) (c : Nat) (k : Core) : (setCore s c k).svc = s.svc := rfl
@[simp] theorem setCore_dev (s : State) (c : Nat) (k : Core) : (setCore s c k).dev = s.dev := rfl
@[simp] theorem setCore_out (s : State) (c : Nat) (k : Core) : (setCore s c k).out = s.out := rfl
@[simp] theorem setCore_replays (s : State) (c : Nat) (k : Core) :
    (setCore s c k).replays = s.replays := rfl
@[simp] theorem setCore_moves (s : State) (c : Nat) (k : Core) :
    (setCore s c k).moves = s.moves := rfl
@[simp] theorem setCore_migrating (s : State) (c : Nat) (k : Core) :
    (setCore s c k).migrating = s.migrating := rfl
@[simp] theorem setCore_needSpare (s : State) (c : Nat) (k : Core) :
    (setCore s c k).needSpare = s.needSpare := rfl
@[simp] theorem setCore_rebuildAt (s : State) (c : Nat) (k : Core) :
    (setCore s c k).rebuildAt = s.rebuildAt := rfl
@[simp] theorem setCore_copying (s : State) (c : Nat) (k : Core) :
    (setCore s c k).copying = s.copying := rfl
@[simp] theorem setCore_calBad (s : State) (c : Nat) (k : Core) :
    (setCore s c k).calBad = s.calBad := rfl
@[simp] theorem setCore_resets (s : State) (c : Nat) (k : Core) :
    (setCore s c k).resets = s.resets := rfl
@[simp] theorem setCore_logHeld (s : State) (c : Nat) (k : Core) :
    (setCore s c k).logHeld = s.logHeld := rfl
@[simp] theorem setCore_logSeq (s : State) (c : Nat) (k : Core) :
    (setCore s c k).logSeq = s.logSeq := rfl

/-! `modCore`. -/

@[simp] theorem modCore_pending (s : State) (c : Nat) (f : Core → Core) :
    (modCore s c f).pending = s.pending := rfl
@[simp] theorem modCore_free (s : State) (c : Nat) (f : Core → Core) :
    (modCore s c f).free = s.free := rfl
@[simp] theorem modCore_regs (s : State) (c : Nat) (f : Core → Core) :
    (modCore s c f).regs = s.regs := rfl
@[simp] theorem modCore_warmed (s : State) (c : Nat) (f : Core → Core) :
    (modCore s c f).warmed = s.warmed := rfl
@[simp] theorem modCore_mem (s : State) (c : Nat) (f : Core → Core) :
    (modCore s c f).mem = s.mem := rfl
@[simp] theorem modCore_poison (s : State) (c : Nat) (f : Core → Core) :
    (modCore s c f).poison = s.poison := rfl
@[simp] theorem modCore_bulk (s : State) (c : Nat) (f : Core → Core) :
    (modCore s c f).bulk = s.bulk := rfl
@[simp] theorem modCore_deadCh (s : State) (c : Nat) (f : Core → Core) :
    (modCore s c f).deadCh = s.deadCh := rfl
@[simp] theorem modCore_twin (s : State) (c : Nat) (f : Core → Core) :
    (modCore s c f).twin = s.twin := rfl
@[simp] theorem modCore_degraded (s : State) (c : Nat) (f : Core → Core) :
    (modCore s c f).degraded = s.degraded := rfl
@[simp] theorem modCore_bad (s : State) (c : Nat) (f : Core → Core) :
    (modCore s c f).bad = s.bad := rfl
@[simp] theorem modCore_ccache (s : State) (c : Nat) (f : Core → Core) :
    (modCore s c f).ccache = s.ccache := rfl
@[simp] theorem modCore_fixes (s : State) (c : Nat) (f : Core → Core) :
    (modCore s c f).fixes = s.fixes := rfl
@[simp] theorem modCore_rebuilt (s : State) (c : Nat) (f : Core → Core) :
    (modCore s c f).rebuilt = s.rebuilt := rfl
@[simp] theorem modCore_spdBad (s : State) (c : Nat) (f : Core → Core) :
    (modCore s c f).spdBad = s.spdBad := rfl
@[simp] theorem modCore_spdFix (s : State) (c : Nat) (f : Core → Core) :
    (modCore s c f).spdFix = s.spdFix := rfl
@[simp] theorem modCore_wayOut (s : State) (c : Nat) (f : Core → Core) :
    (modCore s c f).wayOut = s.wayOut := rfl
@[simp] theorem modCore_lines (s : State) (c : Nat) (f : Core → Core) :
    (modCore s c f).lines = s.lines := rfl
@[simp] theorem modCore_stamp (s : State) (c : Nat) (f : Core → Core) :
    (modCore s c f).stamp = s.stamp := rfl
@[simp] theorem modCore_homeQ (s : State) (c : Nat) (f : Core → Core) :
    (modCore s c f).homeQ = s.homeQ := rfl
@[simp] theorem modCore_homeDone (s : State) (c : Nat) (f : Core → Core) :
    (modCore s c f).homeDone = s.homeDone := rfl
@[simp] theorem modCore_proxyQ (s : State) (c : Nat) (f : Core → Core) :
    (modCore s c f).proxyQ = s.proxyQ := rfl
@[simp] theorem modCore_copies (s : State) (c : Nat) (f : Core → Core) :
    (modCore s c f).copies = s.copies := rfl
@[simp] theorem modCore_snoops (s : State) (c : Nat) (f : Core → Core) :
    (modCore s c f).snoops = s.snoops := rfl
@[simp] theorem modCore_txs (s : State) (c : Nat) (f : Core → Core) :
    (modCore s c f).txs = s.txs := rfl
@[simp] theorem modCore_reclaims (s : State) (c : Nat) (f : Core → Core) :
    (modCore s c f).reclaims = s.reclaims := rfl
@[simp] theorem modCore_sseq (s : State) (c : Nat) (f : Core → Core) :
    (modCore s c f).sseq = s.sseq := rfl
@[simp] theorem modCore_outbox (s : State) (c : Nat) (f : Core → Core) :
    (modCore s c f).outbox = s.outbox := rfl
@[simp] theorem modCore_fab (s : State) (c : Nat) (f : Core → Core) :
    (modCore s c f).fab = s.fab := rfl
@[simp] theorem modCore_winUse (s : State) (c : Nat) (f : Core → Core) :
    (modCore s c f).winUse = s.winUse := rfl
@[simp] theorem modCore_missQ (s : State) (c : Nat) (f : Core → Core) :
    (modCore s c f).missQ = s.missQ := rfl
@[simp] theorem modCore_missOvf (s : State) (c : Nat) (f : Core → Core) :
    (modCore s c f).missOvf = s.missOvf := rfl
@[simp] theorem modCore_vps (s : State) (c : Nat) (f : Core → Core) :
    (modCore s c f).vps = s.vps := rfl
@[simp] theorem modCore_vjobs (s : State) (c : Nat) (f : Core → Core) :
    (modCore s c f).vjobs = s.vjobs := rfl
@[simp] theorem modCore_vmsgs (s : State) (c : Nat) (f : Core → Core) :
    (modCore s c f).vmsgs = s.vmsgs := rfl
@[simp] theorem modCore_chans (s : State) (c : Nat) (f : Core → Core) :
    (modCore s c f).chans = s.chans := rfl
@[simp] theorem modCore_etlb (s : State) (c : Nat) (f : Core → Core) :
    (modCore s c f).etlb = s.etlb := rfl
@[simp] theorem modCore_time (s : State) (c : Nat) (f : Core → Core) :
    (modCore s c f).time = s.time := rfl
@[simp] theorem modCore_keep (s : State) (c : Nat) (f : Core → Core) :
    (modCore s c f).keep = s.keep := rfl
@[simp] theorem modCore_svc (s : State) (c : Nat) (f : Core → Core) :
    (modCore s c f).svc = s.svc := rfl
@[simp] theorem modCore_dev (s : State) (c : Nat) (f : Core → Core) :
    (modCore s c f).dev = s.dev := rfl
@[simp] theorem modCore_out (s : State) (c : Nat) (f : Core → Core) :
    (modCore s c f).out = s.out := rfl
@[simp] theorem modCore_replays (s : State) (c : Nat) (f : Core → Core) :
    (modCore s c f).replays = s.replays := rfl
@[simp] theorem modCore_moves (s : State) (c : Nat) (f : Core → Core) :
    (modCore s c f).moves = s.moves := rfl
@[simp] theorem modCore_migrating (s : State) (c : Nat) (f : Core → Core) :
    (modCore s c f).migrating = s.migrating := rfl
@[simp] theorem modCore_needSpare (s : State) (c : Nat) (f : Core → Core) :
    (modCore s c f).needSpare = s.needSpare := rfl
@[simp] theorem modCore_rebuildAt (s : State) (c : Nat) (f : Core → Core) :
    (modCore s c f).rebuildAt = s.rebuildAt := rfl
@[simp] theorem modCore_copying (s : State) (c : Nat) (f : Core → Core) :
    (modCore s c f).copying = s.copying := rfl
@[simp] theorem modCore_calBad (s : State) (c : Nat) (f : Core → Core) :
    (modCore s c f).calBad = s.calBad := rfl
@[simp] theorem modCore_resets (s : State) (c : Nat) (f : Core → Core) :
    (modCore s c f).resets = s.resets := rfl
@[simp] theorem modCore_logHeld (s : State) (c : Nat) (f : Core → Core) :
    (modCore s c f).logHeld = s.logHeld := rfl
@[simp] theorem modCore_logSeq (s : State) (c : Nat) (f : Core → Core) :
    (modCore s c f).logSeq = s.logSeq := rfl

/-! `setG`. -/

@[simp] theorem setG_pending (s : State) (c : CoreNo) (r : GReg) (v : Word) :
    (setG s c r v).pending = s.pending := rfl
@[simp] theorem setG_free (s : State) (c : CoreNo) (r : GReg) (v : Word) :
    (setG s c r v).free = s.free := rfl
@[simp] theorem setG_regs (s : State) (c : CoreNo) (r : GReg) (v : Word) :
    (setG s c r v).regs = s.regs := rfl
@[simp] theorem setG_warmed (s : State) (c : CoreNo) (r : GReg) (v : Word) :
    (setG s c r v).warmed = s.warmed := rfl
@[simp] theorem setG_mem (s : State) (c : CoreNo) (r : GReg) (v : Word) :
    (setG s c r v).mem = s.mem := rfl
@[simp] theorem setG_poison (s : State) (c : CoreNo) (r : GReg) (v : Word) :
    (setG s c r v).poison = s.poison := rfl
@[simp] theorem setG_bulk (s : State) (c : CoreNo) (r : GReg) (v : Word) :
    (setG s c r v).bulk = s.bulk := rfl
@[simp] theorem setG_deadCh (s : State) (c : CoreNo) (r : GReg) (v : Word) :
    (setG s c r v).deadCh = s.deadCh := rfl
@[simp] theorem setG_twin (s : State) (c : CoreNo) (r : GReg) (v : Word) :
    (setG s c r v).twin = s.twin := rfl
@[simp] theorem setG_degraded (s : State) (c : CoreNo) (r : GReg) (v : Word) :
    (setG s c r v).degraded = s.degraded := rfl
@[simp] theorem setG_bad (s : State) (c : CoreNo) (r : GReg) (v : Word) :
    (setG s c r v).bad = s.bad := rfl
@[simp] theorem setG_ccache (s : State) (c : CoreNo) (r : GReg) (v : Word) :
    (setG s c r v).ccache = s.ccache := rfl
@[simp] theorem setG_fixes (s : State) (c : CoreNo) (r : GReg) (v : Word) :
    (setG s c r v).fixes = s.fixes := rfl
@[simp] theorem setG_rebuilt (s : State) (c : CoreNo) (r : GReg) (v : Word) :
    (setG s c r v).rebuilt = s.rebuilt := rfl
@[simp] theorem setG_spdBad (s : State) (c : CoreNo) (r : GReg) (v : Word) :
    (setG s c r v).spdBad = s.spdBad := rfl
@[simp] theorem setG_spdFix (s : State) (c : CoreNo) (r : GReg) (v : Word) :
    (setG s c r v).spdFix = s.spdFix := rfl
@[simp] theorem setG_wayOut (s : State) (c : CoreNo) (r : GReg) (v : Word) :
    (setG s c r v).wayOut = s.wayOut := rfl
@[simp] theorem setG_lines (s : State) (c : CoreNo) (r : GReg) (v : Word) :
    (setG s c r v).lines = s.lines := rfl
@[simp] theorem setG_stamp (s : State) (c : CoreNo) (r : GReg) (v : Word) :
    (setG s c r v).stamp = s.stamp := rfl
@[simp] theorem setG_homeQ (s : State) (c : CoreNo) (r : GReg) (v : Word) :
    (setG s c r v).homeQ = s.homeQ := rfl
@[simp] theorem setG_homeDone (s : State) (c : CoreNo) (r : GReg) (v : Word) :
    (setG s c r v).homeDone = s.homeDone := rfl
@[simp] theorem setG_proxyQ (s : State) (c : CoreNo) (r : GReg) (v : Word) :
    (setG s c r v).proxyQ = s.proxyQ := rfl
@[simp] theorem setG_copies (s : State) (c : CoreNo) (r : GReg) (v : Word) :
    (setG s c r v).copies = s.copies := rfl
@[simp] theorem setG_snoops (s : State) (c : CoreNo) (r : GReg) (v : Word) :
    (setG s c r v).snoops = s.snoops := rfl
@[simp] theorem setG_txs (s : State) (c : CoreNo) (r : GReg) (v : Word) :
    (setG s c r v).txs = s.txs := rfl
@[simp] theorem setG_reclaims (s : State) (c : CoreNo) (r : GReg) (v : Word) :
    (setG s c r v).reclaims = s.reclaims := rfl
@[simp] theorem setG_sseq (s : State) (c : CoreNo) (r : GReg) (v : Word) :
    (setG s c r v).sseq = s.sseq := rfl
@[simp] theorem setG_outbox (s : State) (c : CoreNo) (r : GReg) (v : Word) :
    (setG s c r v).outbox = s.outbox := rfl
@[simp] theorem setG_fab (s : State) (c : CoreNo) (r : GReg) (v : Word) :
    (setG s c r v).fab = s.fab := rfl
@[simp] theorem setG_winUse (s : State) (c : CoreNo) (r : GReg) (v : Word) :
    (setG s c r v).winUse = s.winUse := rfl
@[simp] theorem setG_missQ (s : State) (c : CoreNo) (r : GReg) (v : Word) :
    (setG s c r v).missQ = s.missQ := rfl
@[simp] theorem setG_missOvf (s : State) (c : CoreNo) (r : GReg) (v : Word) :
    (setG s c r v).missOvf = s.missOvf := rfl
@[simp] theorem setG_vps (s : State) (c : CoreNo) (r : GReg) (v : Word) :
    (setG s c r v).vps = s.vps := rfl
@[simp] theorem setG_vjobs (s : State) (c : CoreNo) (r : GReg) (v : Word) :
    (setG s c r v).vjobs = s.vjobs := rfl
@[simp] theorem setG_vmsgs (s : State) (c : CoreNo) (r : GReg) (v : Word) :
    (setG s c r v).vmsgs = s.vmsgs := rfl
@[simp] theorem setG_chans (s : State) (c : CoreNo) (r : GReg) (v : Word) :
    (setG s c r v).chans = s.chans := rfl
@[simp] theorem setG_etlb (s : State) (c : CoreNo) (r : GReg) (v : Word) :
    (setG s c r v).etlb = s.etlb := rfl
@[simp] theorem setG_time (s : State) (c : CoreNo) (r : GReg) (v : Word) :
    (setG s c r v).time = s.time := rfl
@[simp] theorem setG_keep (s : State) (c : CoreNo) (r : GReg) (v : Word) :
    (setG s c r v).keep = s.keep := rfl
@[simp] theorem setG_svc (s : State) (c : CoreNo) (r : GReg) (v : Word) :
    (setG s c r v).svc = s.svc := rfl
@[simp] theorem setG_dev (s : State) (c : CoreNo) (r : GReg) (v : Word) :
    (setG s c r v).dev = s.dev := rfl
@[simp] theorem setG_out (s : State) (c : CoreNo) (r : GReg) (v : Word) :
    (setG s c r v).out = s.out := rfl
@[simp] theorem setG_replays (s : State) (c : CoreNo) (r : GReg) (v : Word) :
    (setG s c r v).replays = s.replays := rfl
@[simp] theorem setG_moves (s : State) (c : CoreNo) (r : GReg) (v : Word) :
    (setG s c r v).moves = s.moves := rfl
@[simp] theorem setG_migrating (s : State) (c : CoreNo) (r : GReg) (v : Word) :
    (setG s c r v).migrating = s.migrating := rfl
@[simp] theorem setG_needSpare (s : State) (c : CoreNo) (r : GReg) (v : Word) :
    (setG s c r v).needSpare = s.needSpare := rfl
@[simp] theorem setG_rebuildAt (s : State) (c : CoreNo) (r : GReg) (v : Word) :
    (setG s c r v).rebuildAt = s.rebuildAt := rfl
@[simp] theorem setG_copying (s : State) (c : CoreNo) (r : GReg) (v : Word) :
    (setG s c r v).copying = s.copying := rfl
@[simp] theorem setG_calBad (s : State) (c : CoreNo) (r : GReg) (v : Word) :
    (setG s c r v).calBad = s.calBad := rfl
@[simp] theorem setG_resets (s : State) (c : CoreNo) (r : GReg) (v : Word) :
    (setG s c r v).resets = s.resets := rfl
@[simp] theorem setG_logHeld (s : State) (c : CoreNo) (r : GReg) (v : Word) :
    (setG s c r v).logHeld = s.logHeld := rfl
@[simp] theorem setG_logSeq (s : State) (c : CoreNo) (r : GReg) (v : Word) :
    (setG s c r v).logSeq = s.logSeq := rfl

/-! `setV`. -/

@[simp] theorem setV_pending (s : State) (c : CoreNo) (r : VReg) (v : Vec) :
    (setV s c r v).pending = s.pending := rfl
@[simp] theorem setV_free (s : State) (c : CoreNo) (r : VReg) (v : Vec) :
    (setV s c r v).free = s.free := rfl
@[simp] theorem setV_regs (s : State) (c : CoreNo) (r : VReg) (v : Vec) :
    (setV s c r v).regs = s.regs := rfl
@[simp] theorem setV_warmed (s : State) (c : CoreNo) (r : VReg) (v : Vec) :
    (setV s c r v).warmed = s.warmed := rfl
@[simp] theorem setV_mem (s : State) (c : CoreNo) (r : VReg) (v : Vec) :
    (setV s c r v).mem = s.mem := rfl
@[simp] theorem setV_poison (s : State) (c : CoreNo) (r : VReg) (v : Vec) :
    (setV s c r v).poison = s.poison := rfl
@[simp] theorem setV_bulk (s : State) (c : CoreNo) (r : VReg) (v : Vec) :
    (setV s c r v).bulk = s.bulk := rfl
@[simp] theorem setV_deadCh (s : State) (c : CoreNo) (r : VReg) (v : Vec) :
    (setV s c r v).deadCh = s.deadCh := rfl
@[simp] theorem setV_twin (s : State) (c : CoreNo) (r : VReg) (v : Vec) :
    (setV s c r v).twin = s.twin := rfl
@[simp] theorem setV_degraded (s : State) (c : CoreNo) (r : VReg) (v : Vec) :
    (setV s c r v).degraded = s.degraded := rfl
@[simp] theorem setV_bad (s : State) (c : CoreNo) (r : VReg) (v : Vec) :
    (setV s c r v).bad = s.bad := rfl
@[simp] theorem setV_ccache (s : State) (c : CoreNo) (r : VReg) (v : Vec) :
    (setV s c r v).ccache = s.ccache := rfl
@[simp] theorem setV_fixes (s : State) (c : CoreNo) (r : VReg) (v : Vec) :
    (setV s c r v).fixes = s.fixes := rfl
@[simp] theorem setV_rebuilt (s : State) (c : CoreNo) (r : VReg) (v : Vec) :
    (setV s c r v).rebuilt = s.rebuilt := rfl
@[simp] theorem setV_spdBad (s : State) (c : CoreNo) (r : VReg) (v : Vec) :
    (setV s c r v).spdBad = s.spdBad := rfl
@[simp] theorem setV_spdFix (s : State) (c : CoreNo) (r : VReg) (v : Vec) :
    (setV s c r v).spdFix = s.spdFix := rfl
@[simp] theorem setV_wayOut (s : State) (c : CoreNo) (r : VReg) (v : Vec) :
    (setV s c r v).wayOut = s.wayOut := rfl
@[simp] theorem setV_lines (s : State) (c : CoreNo) (r : VReg) (v : Vec) :
    (setV s c r v).lines = s.lines := rfl
@[simp] theorem setV_stamp (s : State) (c : CoreNo) (r : VReg) (v : Vec) :
    (setV s c r v).stamp = s.stamp := rfl
@[simp] theorem setV_homeQ (s : State) (c : CoreNo) (r : VReg) (v : Vec) :
    (setV s c r v).homeQ = s.homeQ := rfl
@[simp] theorem setV_homeDone (s : State) (c : CoreNo) (r : VReg) (v : Vec) :
    (setV s c r v).homeDone = s.homeDone := rfl
@[simp] theorem setV_proxyQ (s : State) (c : CoreNo) (r : VReg) (v : Vec) :
    (setV s c r v).proxyQ = s.proxyQ := rfl
@[simp] theorem setV_copies (s : State) (c : CoreNo) (r : VReg) (v : Vec) :
    (setV s c r v).copies = s.copies := rfl
@[simp] theorem setV_snoops (s : State) (c : CoreNo) (r : VReg) (v : Vec) :
    (setV s c r v).snoops = s.snoops := rfl
@[simp] theorem setV_txs (s : State) (c : CoreNo) (r : VReg) (v : Vec) :
    (setV s c r v).txs = s.txs := rfl
@[simp] theorem setV_reclaims (s : State) (c : CoreNo) (r : VReg) (v : Vec) :
    (setV s c r v).reclaims = s.reclaims := rfl
@[simp] theorem setV_sseq (s : State) (c : CoreNo) (r : VReg) (v : Vec) :
    (setV s c r v).sseq = s.sseq := rfl
@[simp] theorem setV_outbox (s : State) (c : CoreNo) (r : VReg) (v : Vec) :
    (setV s c r v).outbox = s.outbox := rfl
@[simp] theorem setV_fab (s : State) (c : CoreNo) (r : VReg) (v : Vec) :
    (setV s c r v).fab = s.fab := rfl
@[simp] theorem setV_winUse (s : State) (c : CoreNo) (r : VReg) (v : Vec) :
    (setV s c r v).winUse = s.winUse := rfl
@[simp] theorem setV_missQ (s : State) (c : CoreNo) (r : VReg) (v : Vec) :
    (setV s c r v).missQ = s.missQ := rfl
@[simp] theorem setV_missOvf (s : State) (c : CoreNo) (r : VReg) (v : Vec) :
    (setV s c r v).missOvf = s.missOvf := rfl
@[simp] theorem setV_vps (s : State) (c : CoreNo) (r : VReg) (v : Vec) :
    (setV s c r v).vps = s.vps := rfl
@[simp] theorem setV_vjobs (s : State) (c : CoreNo) (r : VReg) (v : Vec) :
    (setV s c r v).vjobs = s.vjobs := rfl
@[simp] theorem setV_vmsgs (s : State) (c : CoreNo) (r : VReg) (v : Vec) :
    (setV s c r v).vmsgs = s.vmsgs := rfl
@[simp] theorem setV_chans (s : State) (c : CoreNo) (r : VReg) (v : Vec) :
    (setV s c r v).chans = s.chans := rfl
@[simp] theorem setV_etlb (s : State) (c : CoreNo) (r : VReg) (v : Vec) :
    (setV s c r v).etlb = s.etlb := rfl
@[simp] theorem setV_time (s : State) (c : CoreNo) (r : VReg) (v : Vec) :
    (setV s c r v).time = s.time := rfl
@[simp] theorem setV_keep (s : State) (c : CoreNo) (r : VReg) (v : Vec) :
    (setV s c r v).keep = s.keep := rfl
@[simp] theorem setV_svc (s : State) (c : CoreNo) (r : VReg) (v : Vec) :
    (setV s c r v).svc = s.svc := rfl
@[simp] theorem setV_dev (s : State) (c : CoreNo) (r : VReg) (v : Vec) :
    (setV s c r v).dev = s.dev := rfl
@[simp] theorem setV_out (s : State) (c : CoreNo) (r : VReg) (v : Vec) :
    (setV s c r v).out = s.out := rfl
@[simp] theorem setV_replays (s : State) (c : CoreNo) (r : VReg) (v : Vec) :
    (setV s c r v).replays = s.replays := rfl
@[simp] theorem setV_moves (s : State) (c : CoreNo) (r : VReg) (v : Vec) :
    (setV s c r v).moves = s.moves := rfl
@[simp] theorem setV_migrating (s : State) (c : CoreNo) (r : VReg) (v : Vec) :
    (setV s c r v).migrating = s.migrating := rfl
@[simp] theorem setV_needSpare (s : State) (c : CoreNo) (r : VReg) (v : Vec) :
    (setV s c r v).needSpare = s.needSpare := rfl
@[simp] theorem setV_rebuildAt (s : State) (c : CoreNo) (r : VReg) (v : Vec) :
    (setV s c r v).rebuildAt = s.rebuildAt := rfl
@[simp] theorem setV_copying (s : State) (c : CoreNo) (r : VReg) (v : Vec) :
    (setV s c r v).copying = s.copying := rfl
@[simp] theorem setV_calBad (s : State) (c : CoreNo) (r : VReg) (v : Vec) :
    (setV s c r v).calBad = s.calBad := rfl
@[simp] theorem setV_resets (s : State) (c : CoreNo) (r : VReg) (v : Vec) :
    (setV s c r v).resets = s.resets := rfl
@[simp] theorem setV_logHeld (s : State) (c : CoreNo) (r : VReg) (v : Vec) :
    (setV s c r v).logHeld = s.logHeld := rfl
@[simp] theorem setV_logSeq (s : State) (c : CoreNo) (r : VReg) (v : Vec) :
    (setV s c r v).logSeq = s.logSeq := rfl

/-! `setPc`. -/

@[simp] theorem setPc_pending (s : State) (c : Nat) (v : Word) :
    (setPc s c v).pending = s.pending := rfl
@[simp] theorem setPc_free (s : State) (c : Nat) (v : Word) : (setPc s c v).free = s.free := rfl
@[simp] theorem setPc_regs (s : State) (c : Nat) (v : Word) : (setPc s c v).regs = s.regs := rfl
@[simp] theorem setPc_warmed (s : State) (c : Nat) (v : Word) :
    (setPc s c v).warmed = s.warmed := rfl
@[simp] theorem setPc_mem (s : State) (c : Nat) (v : Word) : (setPc s c v).mem = s.mem := rfl
@[simp] theorem setPc_poison (s : State) (c : Nat) (v : Word) :
    (setPc s c v).poison = s.poison := rfl
@[simp] theorem setPc_bulk (s : State) (c : Nat) (v : Word) : (setPc s c v).bulk = s.bulk := rfl
@[simp] theorem setPc_deadCh (s : State) (c : Nat) (v : Word) :
    (setPc s c v).deadCh = s.deadCh := rfl
@[simp] theorem setPc_twin (s : State) (c : Nat) (v : Word) : (setPc s c v).twin = s.twin := rfl
@[simp] theorem setPc_degraded (s : State) (c : Nat) (v : Word) :
    (setPc s c v).degraded = s.degraded := rfl
@[simp] theorem setPc_bad (s : State) (c : Nat) (v : Word) : (setPc s c v).bad = s.bad := rfl
@[simp] theorem setPc_ccache (s : State) (c : Nat) (v : Word) :
    (setPc s c v).ccache = s.ccache := rfl
@[simp] theorem setPc_fixes (s : State) (c : Nat) (v : Word) : (setPc s c v).fixes = s.fixes := rfl
@[simp] theorem setPc_rebuilt (s : State) (c : Nat) (v : Word) :
    (setPc s c v).rebuilt = s.rebuilt := rfl
@[simp] theorem setPc_spdBad (s : State) (c : Nat) (v : Word) :
    (setPc s c v).spdBad = s.spdBad := rfl
@[simp] theorem setPc_spdFix (s : State) (c : Nat) (v : Word) :
    (setPc s c v).spdFix = s.spdFix := rfl
@[simp] theorem setPc_wayOut (s : State) (c : Nat) (v : Word) :
    (setPc s c v).wayOut = s.wayOut := rfl
@[simp] theorem setPc_lines (s : State) (c : Nat) (v : Word) : (setPc s c v).lines = s.lines := rfl
@[simp] theorem setPc_stamp (s : State) (c : Nat) (v : Word) : (setPc s c v).stamp = s.stamp := rfl
@[simp] theorem setPc_homeQ (s : State) (c : Nat) (v : Word) : (setPc s c v).homeQ = s.homeQ := rfl
@[simp] theorem setPc_homeDone (s : State) (c : Nat) (v : Word) :
    (setPc s c v).homeDone = s.homeDone := rfl
@[simp] theorem setPc_proxyQ (s : State) (c : Nat) (v : Word) :
    (setPc s c v).proxyQ = s.proxyQ := rfl
@[simp] theorem setPc_copies (s : State) (c : Nat) (v : Word) :
    (setPc s c v).copies = s.copies := rfl
@[simp] theorem setPc_snoops (s : State) (c : Nat) (v : Word) :
    (setPc s c v).snoops = s.snoops := rfl
@[simp] theorem setPc_txs (s : State) (c : Nat) (v : Word) : (setPc s c v).txs = s.txs := rfl
@[simp] theorem setPc_reclaims (s : State) (c : Nat) (v : Word) :
    (setPc s c v).reclaims = s.reclaims := rfl
@[simp] theorem setPc_sseq (s : State) (c : Nat) (v : Word) : (setPc s c v).sseq = s.sseq := rfl
@[simp] theorem setPc_outbox (s : State) (c : Nat) (v : Word) :
    (setPc s c v).outbox = s.outbox := rfl
@[simp] theorem setPc_fab (s : State) (c : Nat) (v : Word) : (setPc s c v).fab = s.fab := rfl
@[simp] theorem setPc_winUse (s : State) (c : Nat) (v : Word) :
    (setPc s c v).winUse = s.winUse := rfl
@[simp] theorem setPc_missQ (s : State) (c : Nat) (v : Word) : (setPc s c v).missQ = s.missQ := rfl
@[simp] theorem setPc_missOvf (s : State) (c : Nat) (v : Word) :
    (setPc s c v).missOvf = s.missOvf := rfl
@[simp] theorem setPc_vps (s : State) (c : Nat) (v : Word) : (setPc s c v).vps = s.vps := rfl
@[simp] theorem setPc_vjobs (s : State) (c : Nat) (v : Word) : (setPc s c v).vjobs = s.vjobs := rfl
@[simp] theorem setPc_vmsgs (s : State) (c : Nat) (v : Word) : (setPc s c v).vmsgs = s.vmsgs := rfl
@[simp] theorem setPc_chans (s : State) (c : Nat) (v : Word) : (setPc s c v).chans = s.chans := rfl
@[simp] theorem setPc_etlb (s : State) (c : Nat) (v : Word) : (setPc s c v).etlb = s.etlb := rfl
@[simp] theorem setPc_time (s : State) (c : Nat) (v : Word) : (setPc s c v).time = s.time := rfl
@[simp] theorem setPc_keep (s : State) (c : Nat) (v : Word) : (setPc s c v).keep = s.keep := rfl
@[simp] theorem setPc_svc (s : State) (c : Nat) (v : Word) : (setPc s c v).svc = s.svc := rfl
@[simp] theorem setPc_dev (s : State) (c : Nat) (v : Word) : (setPc s c v).dev = s.dev := rfl
@[simp] theorem setPc_out (s : State) (c : Nat) (v : Word) : (setPc s c v).out = s.out := rfl
@[simp] theorem setPc_replays (s : State) (c : Nat) (v : Word) :
    (setPc s c v).replays = s.replays := rfl
@[simp] theorem setPc_moves (s : State) (c : Nat) (v : Word) : (setPc s c v).moves = s.moves := rfl
@[simp] theorem setPc_migrating (s : State) (c : Nat) (v : Word) :
    (setPc s c v).migrating = s.migrating := rfl
@[simp] theorem setPc_needSpare (s : State) (c : Nat) (v : Word) :
    (setPc s c v).needSpare = s.needSpare := rfl
@[simp] theorem setPc_rebuildAt (s : State) (c : Nat) (v : Word) :
    (setPc s c v).rebuildAt = s.rebuildAt := rfl
@[simp] theorem setPc_copying (s : State) (c : Nat) (v : Word) :
    (setPc s c v).copying = s.copying := rfl
@[simp] theorem setPc_calBad (s : State) (c : Nat) (v : Word) :
    (setPc s c v).calBad = s.calBad := rfl
@[simp] theorem setPc_resets (s : State) (c : Nat) (v : Word) :
    (setPc s c v).resets = s.resets := rfl
@[simp] theorem setPc_logHeld (s : State) (c : Nat) (v : Word) :
    (setPc s c v).logHeld = s.logHeld := rfl
@[simp] theorem setPc_logSeq (s : State) (c : Nat) (v : Word) :
    (setPc s c v).logSeq = s.logSeq := rfl

/-! `setMemLine`. -/

@[simp] theorem setMemLine_pending (s : State) (l : Nat) (d : Line) :
    (setMemLine s l d).pending = s.pending := by
  simp only [setMemLine]
@[simp] theorem setMemLine_free (s : State) (l : Nat) (d : Line) :
    (setMemLine s l d).free = s.free := by
  simp only [setMemLine]
@[simp] theorem setMemLine_regs (s : State) (l : Nat) (d : Line) :
    (setMemLine s l d).regs = s.regs := by
  simp only [setMemLine]
@[simp] theorem setMemLine_warmed (s : State) (l : Nat) (d : Line) :
    (setMemLine s l d).warmed = s.warmed := by
  simp only [setMemLine]
@[simp] theorem setMemLine_cores (s : State) (l : Nat) (d : Line) :
    (setMemLine s l d).cores = s.cores := by
  simp only [setMemLine]
@[simp] theorem setMemLine_poison (s : State) (l : Nat) (d : Line) :
    (setMemLine s l d).poison = s.poison := by
  simp only [setMemLine]
@[simp] theorem setMemLine_bulk (s : State) (l : Nat) (d : Line) :
    (setMemLine s l d).bulk = s.bulk := by
  simp only [setMemLine]
@[simp] theorem setMemLine_deadCh (s : State) (l : Nat) (d : Line) :
    (setMemLine s l d).deadCh = s.deadCh := by
  simp only [setMemLine]
@[simp] theorem setMemLine_twin (s : State) (l : Nat) (d : Line) :
    (setMemLine s l d).twin = s.twin := by
  simp only [setMemLine]
@[simp] theorem setMemLine_degraded (s : State) (l : Nat) (d : Line) :
    (setMemLine s l d).degraded = s.degraded := by
  simp only [setMemLine]
@[simp] theorem setMemLine_bad (s : State) (l : Nat) (d : Line) :
    (setMemLine s l d).bad = s.bad := by
  simp only [setMemLine]
@[simp] theorem setMemLine_ccache (s : State) (l : Nat) (d : Line) :
    (setMemLine s l d).ccache = s.ccache := by
  simp only [setMemLine]
@[simp] theorem setMemLine_fixes (s : State) (l : Nat) (d : Line) :
    (setMemLine s l d).fixes = s.fixes := by
  simp only [setMemLine]
@[simp] theorem setMemLine_rebuilt (s : State) (l : Nat) (d : Line) :
    (setMemLine s l d).rebuilt = s.rebuilt := by
  simp only [setMemLine]
@[simp] theorem setMemLine_spdBad (s : State) (l : Nat) (d : Line) :
    (setMemLine s l d).spdBad = s.spdBad := by
  simp only [setMemLine]
@[simp] theorem setMemLine_spdFix (s : State) (l : Nat) (d : Line) :
    (setMemLine s l d).spdFix = s.spdFix := by
  simp only [setMemLine]
@[simp] theorem setMemLine_wayOut (s : State) (l : Nat) (d : Line) :
    (setMemLine s l d).wayOut = s.wayOut := by
  simp only [setMemLine]
@[simp] theorem setMemLine_lines (s : State) (l : Nat) (d : Line) :
    (setMemLine s l d).lines = s.lines := by
  simp only [setMemLine]
@[simp] theorem setMemLine_stamp (s : State) (l : Nat) (d : Line) :
    (setMemLine s l d).stamp = s.stamp := by
  simp only [setMemLine]
@[simp] theorem setMemLine_homeQ (s : State) (l : Nat) (d : Line) :
    (setMemLine s l d).homeQ = s.homeQ := by
  simp only [setMemLine]
@[simp] theorem setMemLine_homeDone (s : State) (l : Nat) (d : Line) :
    (setMemLine s l d).homeDone = s.homeDone := by
  simp only [setMemLine]
@[simp] theorem setMemLine_proxyQ (s : State) (l : Nat) (d : Line) :
    (setMemLine s l d).proxyQ = s.proxyQ := by
  simp only [setMemLine]
@[simp] theorem setMemLine_copies (s : State) (l : Nat) (d : Line) :
    (setMemLine s l d).copies = s.copies := by
  simp only [setMemLine]
@[simp] theorem setMemLine_snoops (s : State) (l : Nat) (d : Line) :
    (setMemLine s l d).snoops = s.snoops := by
  simp only [setMemLine]
@[simp] theorem setMemLine_txs (s : State) (l : Nat) (d : Line) :
    (setMemLine s l d).txs = s.txs := by
  simp only [setMemLine]
@[simp] theorem setMemLine_reclaims (s : State) (l : Nat) (d : Line) :
    (setMemLine s l d).reclaims = s.reclaims := by
  simp only [setMemLine]
@[simp] theorem setMemLine_sseq (s : State) (l : Nat) (d : Line) :
    (setMemLine s l d).sseq = s.sseq := by
  simp only [setMemLine]
@[simp] theorem setMemLine_outbox (s : State) (l : Nat) (d : Line) :
    (setMemLine s l d).outbox = s.outbox := by
  simp only [setMemLine]
@[simp] theorem setMemLine_fab (s : State) (l : Nat) (d : Line) :
    (setMemLine s l d).fab = s.fab := by
  simp only [setMemLine]
@[simp] theorem setMemLine_winUse (s : State) (l : Nat) (d : Line) :
    (setMemLine s l d).winUse = s.winUse := by
  simp only [setMemLine]
@[simp] theorem setMemLine_missQ (s : State) (l : Nat) (d : Line) :
    (setMemLine s l d).missQ = s.missQ := by
  simp only [setMemLine]
@[simp] theorem setMemLine_missOvf (s : State) (l : Nat) (d : Line) :
    (setMemLine s l d).missOvf = s.missOvf := by
  simp only [setMemLine]
@[simp] theorem setMemLine_vps (s : State) (l : Nat) (d : Line) :
    (setMemLine s l d).vps = s.vps := by
  simp only [setMemLine]
@[simp] theorem setMemLine_vjobs (s : State) (l : Nat) (d : Line) :
    (setMemLine s l d).vjobs = s.vjobs := by
  simp only [setMemLine]
@[simp] theorem setMemLine_vmsgs (s : State) (l : Nat) (d : Line) :
    (setMemLine s l d).vmsgs = s.vmsgs := by
  simp only [setMemLine]
@[simp] theorem setMemLine_chans (s : State) (l : Nat) (d : Line) :
    (setMemLine s l d).chans = s.chans := by
  simp only [setMemLine]
@[simp] theorem setMemLine_etlb (s : State) (l : Nat) (d : Line) :
    (setMemLine s l d).etlb = s.etlb := by
  simp only [setMemLine]
@[simp] theorem setMemLine_time (s : State) (l : Nat) (d : Line) :
    (setMemLine s l d).time = s.time := by
  simp only [setMemLine]
@[simp] theorem setMemLine_keep (s : State) (l : Nat) (d : Line) :
    (setMemLine s l d).keep = s.keep := by
  simp only [setMemLine]
@[simp] theorem setMemLine_svc (s : State) (l : Nat) (d : Line) :
    (setMemLine s l d).svc = s.svc := by
  simp only [setMemLine]
@[simp] theorem setMemLine_dev (s : State) (l : Nat) (d : Line) :
    (setMemLine s l d).dev = s.dev := by
  simp only [setMemLine]
@[simp] theorem setMemLine_out (s : State) (l : Nat) (d : Line) :
    (setMemLine s l d).out = s.out := by
  simp only [setMemLine]
@[simp] theorem setMemLine_replays (s : State) (l : Nat) (d : Line) :
    (setMemLine s l d).replays = s.replays := by
  simp only [setMemLine]
@[simp] theorem setMemLine_moves (s : State) (l : Nat) (d : Line) :
    (setMemLine s l d).moves = s.moves := by
  simp only [setMemLine]
@[simp] theorem setMemLine_migrating (s : State) (l : Nat) (d : Line) :
    (setMemLine s l d).migrating = s.migrating := by
  simp only [setMemLine]
@[simp] theorem setMemLine_needSpare (s : State) (l : Nat) (d : Line) :
    (setMemLine s l d).needSpare = s.needSpare := by
  simp only [setMemLine]
@[simp] theorem setMemLine_rebuildAt (s : State) (l : Nat) (d : Line) :
    (setMemLine s l d).rebuildAt = s.rebuildAt := by
  simp only [setMemLine]
@[simp] theorem setMemLine_copying (s : State) (l : Nat) (d : Line) :
    (setMemLine s l d).copying = s.copying := by
  simp only [setMemLine]
@[simp] theorem setMemLine_calBad (s : State) (l : Nat) (d : Line) :
    (setMemLine s l d).calBad = s.calBad := by
  simp only [setMemLine]
@[simp] theorem setMemLine_resets (s : State) (l : Nat) (d : Line) :
    (setMemLine s l d).resets = s.resets := by
  simp only [setMemLine]
@[simp] theorem setMemLine_logHeld (s : State) (l : Nat) (d : Line) :
    (setMemLine s l d).logHeld = s.logHeld := by
  simp only [setMemLine]
@[simp] theorem setMemLine_logSeq (s : State) (l : Nat) (d : Line) :
    (setMemLine s l d).logSeq = s.logSeq := by
  simp only [setMemLine]

/-! `setLrec`. -/

@[simp] theorem setLrec_pending (s : State) (l : Nat) (r : LineRec) :
    (setLrec s l r).pending = s.pending := rfl
@[simp] theorem setLrec_free (s : State) (l : Nat) (r : LineRec) :
    (setLrec s l r).free = s.free := rfl
@[simp] theorem setLrec_regs (s : State) (l : Nat) (r : LineRec) :
    (setLrec s l r).regs = s.regs := rfl
@[simp] theorem setLrec_warmed (s : State) (l : Nat) (r : LineRec) :
    (setLrec s l r).warmed = s.warmed := rfl
@[simp] theorem setLrec_cores (s : State) (l : Nat) (r : LineRec) :
    (setLrec s l r).cores = s.cores := rfl
@[simp] theorem setLrec_mem (s : State) (l : Nat) (r : LineRec) : (setLrec s l r).mem = s.mem := rfl
@[simp] theorem setLrec_poison (s : State) (l : Nat) (r : LineRec) :
    (setLrec s l r).poison = s.poison := rfl
@[simp] theorem setLrec_bulk (s : State) (l : Nat) (r : LineRec) :
    (setLrec s l r).bulk = s.bulk := rfl
@[simp] theorem setLrec_deadCh (s : State) (l : Nat) (r : LineRec) :
    (setLrec s l r).deadCh = s.deadCh := rfl
@[simp] theorem setLrec_twin (s : State) (l : Nat) (r : LineRec) :
    (setLrec s l r).twin = s.twin := rfl
@[simp] theorem setLrec_degraded (s : State) (l : Nat) (r : LineRec) :
    (setLrec s l r).degraded = s.degraded := rfl
@[simp] theorem setLrec_bad (s : State) (l : Nat) (r : LineRec) : (setLrec s l r).bad = s.bad := rfl
@[simp] theorem setLrec_ccache (s : State) (l : Nat) (r : LineRec) :
    (setLrec s l r).ccache = s.ccache := rfl
@[simp] theorem setLrec_fixes (s : State) (l : Nat) (r : LineRec) :
    (setLrec s l r).fixes = s.fixes := rfl
@[simp] theorem setLrec_rebuilt (s : State) (l : Nat) (r : LineRec) :
    (setLrec s l r).rebuilt = s.rebuilt := rfl
@[simp] theorem setLrec_spdBad (s : State) (l : Nat) (r : LineRec) :
    (setLrec s l r).spdBad = s.spdBad := rfl
@[simp] theorem setLrec_spdFix (s : State) (l : Nat) (r : LineRec) :
    (setLrec s l r).spdFix = s.spdFix := rfl
@[simp] theorem setLrec_wayOut (s : State) (l : Nat) (r : LineRec) :
    (setLrec s l r).wayOut = s.wayOut := rfl
@[simp] theorem setLrec_homeQ (s : State) (l : Nat) (r : LineRec) :
    (setLrec s l r).homeQ = s.homeQ := rfl
@[simp] theorem setLrec_homeDone (s : State) (l : Nat) (r : LineRec) :
    (setLrec s l r).homeDone = s.homeDone := rfl
@[simp] theorem setLrec_proxyQ (s : State) (l : Nat) (r : LineRec) :
    (setLrec s l r).proxyQ = s.proxyQ := rfl
@[simp] theorem setLrec_copies (s : State) (l : Nat) (r : LineRec) :
    (setLrec s l r).copies = s.copies := rfl
@[simp] theorem setLrec_snoops (s : State) (l : Nat) (r : LineRec) :
    (setLrec s l r).snoops = s.snoops := rfl
@[simp] theorem setLrec_txs (s : State) (l : Nat) (r : LineRec) : (setLrec s l r).txs = s.txs := rfl
@[simp] theorem setLrec_reclaims (s : State) (l : Nat) (r : LineRec) :
    (setLrec s l r).reclaims = s.reclaims := rfl
@[simp] theorem setLrec_sseq (s : State) (l : Nat) (r : LineRec) :
    (setLrec s l r).sseq = s.sseq := rfl
@[simp] theorem setLrec_outbox (s : State) (l : Nat) (r : LineRec) :
    (setLrec s l r).outbox = s.outbox := rfl
@[simp] theorem setLrec_fab (s : State) (l : Nat) (r : LineRec) : (setLrec s l r).fab = s.fab := rfl
@[simp] theorem setLrec_winUse (s : State) (l : Nat) (r : LineRec) :
    (setLrec s l r).winUse = s.winUse := rfl
@[simp] theorem setLrec_missQ (s : State) (l : Nat) (r : LineRec) :
    (setLrec s l r).missQ = s.missQ := rfl
@[simp] theorem setLrec_missOvf (s : State) (l : Nat) (r : LineRec) :
    (setLrec s l r).missOvf = s.missOvf := rfl
@[simp] theorem setLrec_vps (s : State) (l : Nat) (r : LineRec) : (setLrec s l r).vps = s.vps := rfl
@[simp] theorem setLrec_vjobs (s : State) (l : Nat) (r : LineRec) :
    (setLrec s l r).vjobs = s.vjobs := rfl
@[simp] theorem setLrec_vmsgs (s : State) (l : Nat) (r : LineRec) :
    (setLrec s l r).vmsgs = s.vmsgs := rfl
@[simp] theorem setLrec_chans (s : State) (l : Nat) (r : LineRec) :
    (setLrec s l r).chans = s.chans := rfl
@[simp] theorem setLrec_etlb (s : State) (l : Nat) (r : LineRec) :
    (setLrec s l r).etlb = s.etlb := rfl
@[simp] theorem setLrec_time (s : State) (l : Nat) (r : LineRec) :
    (setLrec s l r).time = s.time := rfl
@[simp] theorem setLrec_keep (s : State) (l : Nat) (r : LineRec) :
    (setLrec s l r).keep = s.keep := rfl
@[simp] theorem setLrec_svc (s : State) (l : Nat) (r : LineRec) : (setLrec s l r).svc = s.svc := rfl
@[simp] theorem setLrec_dev (s : State) (l : Nat) (r : LineRec) : (setLrec s l r).dev = s.dev := rfl
@[simp] theorem setLrec_out (s : State) (l : Nat) (r : LineRec) : (setLrec s l r).out = s.out := rfl
@[simp] theorem setLrec_replays (s : State) (l : Nat) (r : LineRec) :
    (setLrec s l r).replays = s.replays := rfl
@[simp] theorem setLrec_moves (s : State) (l : Nat) (r : LineRec) :
    (setLrec s l r).moves = s.moves := rfl
@[simp] theorem setLrec_migrating (s : State) (l : Nat) (r : LineRec) :
    (setLrec s l r).migrating = s.migrating := rfl
@[simp] theorem setLrec_needSpare (s : State) (l : Nat) (r : LineRec) :
    (setLrec s l r).needSpare = s.needSpare := rfl
@[simp] theorem setLrec_rebuildAt (s : State) (l : Nat) (r : LineRec) :
    (setLrec s l r).rebuildAt = s.rebuildAt := rfl
@[simp] theorem setLrec_copying (s : State) (l : Nat) (r : LineRec) :
    (setLrec s l r).copying = s.copying := rfl
@[simp] theorem setLrec_calBad (s : State) (l : Nat) (r : LineRec) :
    (setLrec s l r).calBad = s.calBad := rfl
@[simp] theorem setLrec_resets (s : State) (l : Nat) (r : LineRec) :
    (setLrec s l r).resets = s.resets := rfl
@[simp] theorem setLrec_logHeld (s : State) (l : Nat) (r : LineRec) :
    (setLrec s l r).logHeld = s.logHeld := rfl
@[simp] theorem setLrec_logSeq (s : State) (l : Nat) (r : LineRec) :
    (setLrec s l r).logSeq = s.logSeq := rfl

end Sys2Proof.Machine
end

