-- ==== Sys2Proof/Laws/Core.lean ====
section
/-! SUPPORT. Laws of the shared operations over registers and cores, and of an instruction that a core
executes: what counting, retiring and issuing can change. -/

namespace Sys2Proof.Machine

/-! Registers. -/

theorem rd_wr (s : State) (r q : Reg) (i j : Nat) (v : Word) :
    rd (wr s r i v) q j = if q = r ∧ j = i then v else rd s q j := by
  simp only [rd, wr, Tab.get_set, Prod.mk.injEq]

@[simp] theorem rd_wr_same (s : State) (r : Reg) (i : Nat) (v : Word) : rd (wr s r i v) r i = v := by
  simp [rd_wr]

theorem rd_wr_reg (s : State) {r q : Reg} (ne : q ≠ r) (i j : Nat) (v : Word) :
    rd (wr s r i v) q j = rd s q j := by simp [rd_wr, ne]

theorem rd_fput_reg (s : State) (f : FRef) {q : Reg} (ne : q ≠ f.reg) (i j v : Nat) :
    rd (fput s f i v) q j = rd s q j := rd_wr_reg s ne i j _

@[simp] theorem rd_setCore (s : State) (c : Nat) (k : Core) (r : Reg) (i : Nat) :
    rd (setCore s c k) r i = rd s r i := rfl
@[simp] theorem rd_modCore (s : State) (c : Nat) (f : Core → Core) (r : Reg) (i : Nat) :
    rd (modCore s c f) r i = rd s r i := rfl
@[simp] theorem rd_setG (s : State) (c : CoreNo) (d : GReg) (v : Word) (r : Reg) (i : Nat) :
    rd (setG s c d v) r i = rd s r i := rfl
@[simp] theorem rd_setPc (s : State) (c : Nat) (v : Word) (r : Reg) (i : Nat) :
    rd (setPc s c v) r i = rd s r i := rfl

/-! Cores. -/

theorem core_setCore (s : State) (c n : Nat) (k : Core) :
    coreOf (setCore s c k) n = if n = c then k else coreOf s n := by
  simp only [coreOf, setCore, Tab.get_set]

@[simp] theorem core_setCore_same (s : State) (c : Nat) (k : Core) : coreOf (setCore s c k) c = k := by
  simp [core_setCore]

theorem core_modCore (s : State) (c n : Nat) (f : Core → Core) :
    coreOf (modCore s c f) n = if n = c then f (coreOf s c) else coreOf s n := core_setCore ..

@[simp] theorem core_modCore_same (s : State) (c : Nat) (f : Core → Core) :
    coreOf (modCore s c f) c = f (coreOf s c) := by simp [core_modCore]

@[simp] theorem core_wr (s : State) (r : Reg) (i : Nat) (v : Word) (n : Nat) :
    coreOf (wr s r i v) n = coreOf s n := rfl
@[simp] theorem core_fput (s : State) (f : FRef) (i v n : Nat) : coreOf (fput s f i v) n = coreOf s n := rfl

@[simp] theorem getPc_setPc_same (s : State) (c : Nat) (v : Word) : getPc (setPc s c v) c = v := by
  simp [getPc, setPc]

@[simp] theorem getPc_setG (s : State) (c : CoreNo) (r : GReg) (v : Word) (n : Nat) :
    getPc (setG s c r v) n = getPc s n := by
  unfold getPc setG
  by_cases h : n = c.val
  · simp [h]
  · simp [core_modCore, h]

@[simp] theorem getG_setG_same (s : State) (c : CoreNo) (r : GReg) (v : Word) :
    getG (setG s c r v) c r = v := by
  simp only [getG, setG, core_modCore_same]
  show ((coreOf s c).g.set r v)[r.val] = v
  simp

/-! Counting (R411–R417). -/

/-- `b` is `a` but for the counters of core `c`, the sample that an overflow arms, and what the predictors
hold. -/
structure Counted (a b : State) (c : Nat) : Prop where
  rest : b = { a with regs := b.regs, cores := b.cores }
  regs : ∀ (r : Reg) (n : Nat), r ≠ .pmc → r ≠ .pmsel → rd b r n = rd a r n
  cores : ∀ n : Nat, n ≠ c → coreOf b n = coreOf a n
  own : coreOf b c = { coreOf a c with
    sample := (coreOf b c).sample, ring := (coreOf b c).ring, pred := (coreOf b c).pred }

theorem Counted.refl (s : State) (c : Nat) : Counted s s c := ⟨rfl, fun _ _ _ _ => rfl, fun _ _ => rfl, rfl⟩

theorem Counted.trans {x y z : State} {c : Nat} (h : Counted x y c) (k : Counted y z c) :
    Counted x z c := by
  refine ⟨?_, fun r n a b => (k.regs r n a b).trans (h.regs r n a b),
    fun n ne => (k.cores n ne).trans (h.cores n ne), ?_⟩
  · rw [k.rest, h.rest]
  · rw [k.own, h.own]

theorem counted_fput (s : State) (f : FRef) (i v c : Nat) (h : f.reg = .pmc ∨ f.reg = .pmsel) :
    Counted s (fput s f i v) c := by
  refine ⟨rfl, fun r n a b => rd_fput_reg s f ?_ i n v, fun _ _ => rfl, rfl⟩
  rintro rfl
  rcases h with h | h
  · exact a h
  · exact b h

/-- A core replaced by itself but for its sample, its ring and its predictors. -/
theorem counted_setCore (s : State) (c : Nat) (k : Core)
    (h : k = { coreOf s c with sample := k.sample, ring := k.ring, pred := k.pred }) : Counted s (setCore s c k) c := by
  refine ⟨rfl, fun _ _ _ _ => rfl, fun m ne => ?_, ?_⟩
  · simp [core_setCore, ne]
  · simpa using h

theorem counted_armSample (s : State) (c n : Nat) : Counted s (armSample s c n) c := by
  unfold armSample
  dsimp only
  split <;> exact counted_setCore _ _ _ rfl

theorem counted_ite {s a b : State} {c : Nat} {p : Prop} [Decidable p] (h : Counted s a c)
    (k : Counted s b c) : Counted s (if p then a else b) c := by
  split
  · exact h
  · exact k

theorem counted_overflow (s : State) (c n : Nat) : Counted s (overflowCtr s c n) c := by
  unfold overflowCtr
  refine (counted_fput s F.pmsel_OVF (pmIdx c n) 1 c (.inr rfl)).trans ?_
  refine Counted.trans (counted_ite (p := fbit (fput s F.pmsel_OVF (pmIdx c n) 1) F.pmsel_SMP
    (pmIdx c n) = true) (counted_armSample _ c n) (.refl ..)) ?_
  exact counted_ite (counted_fput _ _ _ _ _ (.inl rfl)) (.refl ..)

theorem counted_addCtr (c pl : Nat) (fuel : Nat) :
    ∀ (s : State) (n d : Nat), Counted s (addCtr s c pl n d fuel) c := by
  induction fuel with
  | zero => exact fun s n d => .refl ..
  | succ k ih =>
    intro s n d
    unfold addCtr
    split
    · exact .refl ..
    have h1 := counted_fput s F.pmc_COUNT (pmIdx c n) (fget s F.pmc_COUNT (pmIdx c n) + d) c (.inl rfl)
    dsimp only
    split
    · exact h1
    · have h2 := counted_overflow (fput s F.pmc_COUNT (pmIdx c n)
        (fget s F.pmc_COUNT (pmIdx c n) + d)) c n
      split
      · exact h1.trans (h2.trans (ih _ _ _))
      · exact h1.trans h2

theorem counted_countOne (ev d c pl : Nat) (s : State) (n : Nat) :
    Counted s (countOne ev d c pl s n) c := by
  unfold countOne
  split
  · exact counted_addCtr ..
  · exact .refl ..

theorem counted_foldl {α : Type} (c : Nat) (f : State → α → State)
    (h : ∀ s x, Counted s (f s x) c) (xs : List α) : ∀ s, Counted s (xs.foldl f s) c := by
  induction xs with
  | nil => exact fun s => .refl s c
  | cons x xs ih => exact fun s => (h s x).trans (ih _)

/-- Events are counted in counters of their core only. -/
theorem counted_count (s : State) (c pl ev d : Nat) : Counted s (count s c pl ev d) c :=
  counted_ite (.refl ..) (counted_foldl c _ (fun s n => counted_countOne ev d c pl s n) _ s)

theorem counted_countAll (s : State) (c pl : Nat) (evs : List Nat) :
    Counted s (countAll s c pl evs) c :=
  counted_foldl c _ (fun s ev => counted_count s c pl ev 1) _ s

theorem counted_takeSample (s : State) (c : CoreNo) (pc : Word) (pl : Nat) (ctl : Bool) :
    Counted s (takeSample s c pc pl ctl) c := by
  unfold takeSample
  dsimp only
  split
  · exact counted_setCore _ _ _ rfl
  · exact .refl ..

theorem counted_train (s : State) (c : CoreNo) (pc : Word) (pl : Nat) (evs : List Nat) :
    Counted s (train s c pc pl evs) c := by
  unfold train
  split
  · exact counted_setCore _ _ _ rfl
  · exact .refl ..

/-! Retiring and issuing. -/

theorem Retired.intro {x y : State} {c : CoreNo} (h : Counted x y c) :
    Retired x (modCore (dropSwaps y c) c (fun k => k.idle.stepped)) c := by
  have hr := h.rest
  refine ⟨?_, h.regs, fun n ne => ?_, ?_⟩
  · conv => rhs; rw [show x = { y with regs := x.regs, cores := x.cores } by rw [hr]]
    rfl
  · rw [core_modCore, if_neg ne]
    exact h.cores n ne
  · have e : coreOf (dropSwaps y c) c = coreOf y c := rfl
    rw [core_modCore_same, e, h.own]
    rfl

/-- An instruction retires: `Retired` says what changes. -/
theorem retire_retired (s : State) (c : CoreNo) (pc : Word) (pl : Nat) (evs : List Nat) :
    Retired s (retire s c pc pl evs) c := by
  unfold retire
  dsimp only
  refine Retired.intro ?_
  refine (counted_ite (p := (coreOf s c).skip = some 9) (.refl ..) (counted_countAll s c pl (evInst :: evs ++ (coreOf s c).evs))).trans ?_
  generalize (if (coreOf s c).skip = some 9 then s else _) = y
  exact (counted_ite (p := (coreOf y c).acc.fab = 0) (.refl ..) (counted_count ..)).trans ((counted_takeSample ..).trans (counted_train ..))

/-- Retiring leaves the pc. -/
theorem Retired.pc {x t : State} {c : CoreNo} (h : Retired x t c) : getPc t c = getPc x c := by
  unfold getPc
  rw [h.own]
  rfl

/-- A computation of a core that answers goes on with the next one. -/
theorem CpuM.bind_ok {α β : Type} {x : CpuM α} {f : α → CpuM β} {s u : State} {a : α}
    (h : x s = .ok a u) : (x >>= f) s = f a u := by
  show EStateM.bind x f s = f a u
  simp only [EStateM.bind, h]

/-- A computation of a core that only changes the state answers the changed state. -/
theorem CpuM.modify_ok (f : State → State) (s : State) :
    (modify f : CpuM Unit) s = .ok () (f s) := rfl

/-- A computation of a core that reads the state goes on with it. -/
theorem CpuM.get_bind {β : Type} (f : State → CpuM β) (s : State) :
    ((get : CpuM State) >>= f) s = f s s := rfl

/-- The checks and the body of an instruction whose checks pass. -/
theorem Runs.body {s u : State} {c : CoreNo} {len lvl : Nat} (h : Runs s c len lvl u)
    (m : CpuM Unit) :
    (do fetchCheck c len
        if !true then raise { code := 0x01 }
        else if plOf s c < lvl then raise { code := 0x02 }
        else
          modify (fun t => setPc t c (getPc s c + BitVec.ofNat 64 len))
          m : CpuM Unit) (fresh s c) = m (past s u c len) := by
  rw [CpuM.bind_ok h.fetch]
  simp only [Bool.not_true, Bool.false_eq_true, if_false, Nat.not_lt.mpr h.level]
  exact CpuM.bind_ok rfl

/-- With no vector pending, no interrupt is accepted. -/
theorem acceptInt_quiet {s : State} {c : CoreNo} (h : pendingVecs s c = []) :
    acceptInt c s = .ok false s := by
  unfold acceptInt
  rw [CpuM.get_bind]
  simp only [h, List.isEmpty_nil, Bool.true_or, if_true]
  rfl

/-- The instruction that a running core issues is run, where no interrupt is accepted before it. -/
theorem issue_runs {s : State} {c : CoreNo} {i : Instr} {len lvl : Nat} {wf : Bool} {evs : List Nat}
    {m : CpuM Unit} (ha : (coreOf s c).active = true) (hw : (coreOf s c).wait = none)
    (hm : fenced s c = false) (hq : acceptInt c s = .ok false s) :
    issue c i len lvl wf evs m s = .next (runBody c i len lvl wf evs m s) := by
  unfold issue
  simp only [ha, hw, hm, Bool.not_true, Bool.false_eq_true, if_false, Option.isSome_none]
  unfold runInstr
  simp only [hq, ite_self]

/-- An instruction whose checks pass, whose body answers `w` and which leaves its pc aligned retires:
its next state is `w` but for what retiring changes. -/
theorem issue_retires {s u w : State} {c : CoreNo} {i : Instr} {len lvl : Nat} {evs : List Nat}
    {m : CpuM Unit} (h : Runs s c len lvl u) (hm : m (past s u c len) = .ok () w)
    (ha : (getPc w c).toNat % 4 = 0) :
    ∃ t, issue c i len lvl true evs m s = .next t ∧ Retired w t c := by
  refine ⟨retire w c (getPc s c) (plOf s c) evs, ?_, retire_retired ..⟩
  have hp := (retire_retired w c (getPc s c) (plOf s c) evs).pc
  have hb := (h.body m).trans hm
  rw [issue_runs h.active h.free h.still h.quiet]
  unfold fresh at hb
  unfold runBody
  simp only [hb]
  unfold alignTarget
  simp [hp, ha]

theorem core_setPc_g (s : State) (c n : Nat) (v : Word) : (coreOf (setPc s c v) n).g = (coreOf s n).g := by
  unfold setPc
  by_cases h : n = c
  · subst h
    simp
  · simp [core_modCore, h]

/-- The operands of an instruction are read in the state that its fetch checks leave. -/
@[simp] theorem getG_past (s u : State) (c k : CoreNo) (len : Nat) (a : GReg) :
    getG (past s u c len) k a = getG u k a := by
  simp [getG, past, core_setPc_g]

@[simp] theorem getPc_past (s u : State) (c : CoreNo) (len : Nat) :
    getPc (past s u c len) c = getPc s c + BitVec.ofNat 64 len := by simp [past]

@[simp] theorem rd_past (s u : State) (c : CoreNo) (len : Nat) (r : Reg) (n : Nat) :
    rd (past s u c len) r n = rd u r n := rfl

/-- An instruction runs only at a pc that is a multiple of 4 (R43). -/
theorem Runs.aligned {s u : State} {c : CoreNo} {len lvl : Nat} (h : Runs s c len lvl u) :
    (getPc s c).toNat % 4 = 0 := by
  refine Decidable.byContradiction fun k => ?_
  have hf := h.fetch
  unfold fetchCheck at hf
  have e : getPc (fresh s c) c = getPc s c := by simp [fresh, getPc]
  rw [CpuM.get_bind] at hf
  simp only [e, ne_eq, k, not_false_eq_true, if_true] at hf
  cases hf

/-- The next instruction's address is a multiple of 4 too. -/
theorem Runs.past_aligned {s u : State} {c : CoreNo} {len lvl : Nat} (h : Runs s c len lvl u)
    (hl : len % 4 = 0) : (getPc (past s u c len) c).toNat % 4 = 0 := by
  have := h.aligned
  rw [getPc_past, BitVec.toNat_add, BitVec.toNat_ofNat]
  omega

/-- A register-only instruction: its body changes the state by `f`, which leaves the pc. -/
theorem issue_modify {s u : State} {c : CoreNo} {i : Instr} {len lvl : Nat} {evs : List Nat}
    (f : State → State) (h : Runs s c len lvl u) (hl : len % 4 = 0)
    (hp : getPc (f (past s u c len)) c = getPc (past s u c len) c) :
    ∃ t, issue c i len lvl true evs (modify f) s = .next t ∧ Retired (f (past s u c len)) t c :=
  issue_retires h (CpuM.modify_ok ..) (by rw [hp]; exact h.past_aligned hl)

end Sys2Proof.Machine
end

