-- ==== Sys2Proof/Laws/Fabric.lean ====
section
/-! SUPPORT. One lemma per field of State and update of a link, a bucket, a comet
channel, the next events of the generators or the engine TLBs. -/

namespace Sys2Proof.Machine

/-! `setLink`. -/

@[simp] theorem setLink_pending (s : State) (p : Nat) (k : Link) :
    (setLink s p k).pending = s.pending := rfl
@[simp] theorem setLink_free (s : State) (p : Nat) (k : Link) : (setLink s p k).free = s.free := rfl
@[simp] theorem setLink_regs (s : State) (p : Nat) (k : Link) : (setLink s p k).regs = s.regs := rfl
@[simp] theorem setLink_warmed (s : State) (p : Nat) (k : Link) :
    (setLink s p k).warmed = s.warmed := rfl
@[simp] theorem setLink_cores (s : State) (p : Nat) (k : Link) :
    (setLink s p k).cores = s.cores := rfl
@[simp] theorem setLink_mem (s : State) (p : Nat) (k : Link) : (setLink s p k).mem = s.mem := rfl
@[simp] theorem setLink_poison (s : State) (p : Nat) (k : Link) :
    (setLink s p k).poison = s.poison := rfl
@[simp] theorem setLink_bulk (s : State) (p : Nat) (k : Link) : (setLink s p k).bulk = s.bulk := rfl
@[simp] theorem setLink_deadCh (s : State) (p : Nat) (k : Link) :
    (setLink s p k).deadCh = s.deadCh := rfl
@[simp] theorem setLink_twin (s : State) (p : Nat) (k : Link) : (setLink s p k).twin = s.twin := rfl
@[simp] theorem setLink_degraded (s : State) (p : Nat) (k : Link) :
    (setLink s p k).degraded = s.degraded := rfl
@[simp] theorem setLink_bad (s : State) (p : Nat) (k : Link) : (setLink s p k).bad = s.bad := rfl
@[simp] theorem setLink_ccache (s : State) (p : Nat) (k : Link) :
    (setLink s p k).ccache = s.ccache := rfl
@[simp] theorem setLink_fixes (s : State) (p : Nat) (k : Link) :
    (setLink s p k).fixes = s.fixes := rfl
@[simp] theorem setLink_rebuilt (s : State) (p : Nat) (k : Link) :
    (setLink s p k).rebuilt = s.rebuilt := rfl
@[simp] theorem setLink_spdBad (s : State) (p : Nat) (k : Link) :
    (setLink s p k).spdBad = s.spdBad := rfl
@[simp] theorem setLink_spdFix (s : State) (p : Nat) (k : Link) :
    (setLink s p k).spdFix = s.spdFix := rfl
@[simp] theorem setLink_wayOut (s : State) (p : Nat) (k : Link) :
    (setLink s p k).wayOut = s.wayOut := rfl
@[simp] theorem setLink_lines (s : State) (p : Nat) (k : Link) :
    (setLink s p k).lines = s.lines := rfl
@[simp] theorem setLink_stamp (s : State) (p : Nat) (k : Link) :
    (setLink s p k).stamp = s.stamp := rfl
@[simp] theorem setLink_homeQ (s : State) (p : Nat) (k : Link) :
    (setLink s p k).homeQ = s.homeQ := rfl
@[simp] theorem setLink_homeDone (s : State) (p : Nat) (k : Link) :
    (setLink s p k).homeDone = s.homeDone := rfl
@[simp] theorem setLink_proxyQ (s : State) (p : Nat) (k : Link) :
    (setLink s p k).proxyQ = s.proxyQ := rfl
@[simp] theorem setLink_copies (s : State) (p : Nat) (k : Link) :
    (setLink s p k).copies = s.copies := rfl
@[simp] theorem setLink_snoops (s : State) (p : Nat) (k : Link) :
    (setLink s p k).snoops = s.snoops := rfl
@[simp] theorem setLink_txs (s : State) (p : Nat) (k : Link) : (setLink s p k).txs = s.txs := rfl
@[simp] theorem setLink_reclaims (s : State) (p : Nat) (k : Link) :
    (setLink s p k).reclaims = s.reclaims := rfl
@[simp] theorem setLink_sseq (s : State) (p : Nat) (k : Link) : (setLink s p k).sseq = s.sseq := rfl
@[simp] theorem setLink_outbox (s : State) (p : Nat) (k : Link) :
    (setLink s p k).outbox = s.outbox := rfl
@[simp] theorem setLink_winUse (s : State) (p : Nat) (k : Link) :
    (setLink s p k).winUse = s.winUse := rfl
@[simp] theorem setLink_missQ (s : State) (p : Nat) (k : Link) :
    (setLink s p k).missQ = s.missQ := rfl
@[simp] theorem setLink_missOvf (s : State) (p : Nat) (k : Link) :
    (setLink s p k).missOvf = s.missOvf := rfl
@[simp] theorem setLink_vps (s : State) (p : Nat) (k : Link) : (setLink s p k).vps = s.vps := rfl
@[simp] theorem setLink_vjobs (s : State) (p : Nat) (k : Link) :
    (setLink s p k).vjobs = s.vjobs := rfl
@[simp] theorem setLink_vmsgs (s : State) (p : Nat) (k : Link) :
    (setLink s p k).vmsgs = s.vmsgs := rfl
@[simp] theorem setLink_chans (s : State) (p : Nat) (k : Link) :
    (setLink s p k).chans = s.chans := rfl
@[simp] theorem setLink_etlb (s : State) (p : Nat) (k : Link) : (setLink s p k).etlb = s.etlb := rfl
@[simp] theorem setLink_time (s : State) (p : Nat) (k : Link) : (setLink s p k).time = s.time := rfl
@[simp] theorem setLink_keep (s : State) (p : Nat) (k : Link) : (setLink s p k).keep = s.keep := rfl
@[simp] theorem setLink_svc (s : State) (p : Nat) (k : Link) : (setLink s p k).svc = s.svc := rfl
@[simp] theorem setLink_dev (s : State) (p : Nat) (k : Link) : (setLink s p k).dev = s.dev := rfl
@[simp] theorem setLink_out (s : State) (p : Nat) (k : Link) : (setLink s p k).out = s.out := rfl
@[simp] theorem setLink_replays (s : State) (p : Nat) (k : Link) :
    (setLink s p k).replays = s.replays := rfl
@[simp] theorem setLink_moves (s : State) (p : Nat) (k : Link) :
    (setLink s p k).moves = s.moves := rfl
@[simp] theorem setLink_migrating (s : State) (p : Nat) (k : Link) :
    (setLink s p k).migrating = s.migrating := rfl
@[simp] theorem setLink_needSpare (s : State) (p : Nat) (k : Link) :
    (setLink s p k).needSpare = s.needSpare := rfl
@[simp] theorem setLink_rebuildAt (s : State) (p : Nat) (k : Link) :
    (setLink s p k).rebuildAt = s.rebuildAt := rfl
@[simp] theorem setLink_copying (s : State) (p : Nat) (k : Link) :
    (setLink s p k).copying = s.copying := rfl
@[simp] theorem setLink_calBad (s : State) (p : Nat) (k : Link) :
    (setLink s p k).calBad = s.calBad := rfl
@[simp] theorem setLink_resets (s : State) (p : Nat) (k : Link) :
    (setLink s p k).resets = s.resets := rfl
@[simp] theorem setLink_logHeld (s : State) (p : Nat) (k : Link) :
    (setLink s p k).logHeld = s.logHeld := rfl
@[simp] theorem setLink_logSeq (s : State) (p : Nat) (k : Link) :
    (setLink s p k).logSeq = s.logSeq := rfl

/-! `setBucket`. -/

@[simp] theorem setBucket_pending (s : State) (f : Nat) (b : Bucket) :
    (setBucket s f b).pending = s.pending := rfl
@[simp] theorem setBucket_free (s : State) (f : Nat) (b : Bucket) :
    (setBucket s f b).free = s.free := rfl
@[simp] theorem setBucket_regs (s : State) (f : Nat) (b : Bucket) :
    (setBucket s f b).regs = s.regs := rfl
@[simp] theorem setBucket_warmed (s : State) (f : Nat) (b : Bucket) :
    (setBucket s f b).warmed = s.warmed := rfl
@[simp] theorem setBucket_cores (s : State) (f : Nat) (b : Bucket) :
    (setBucket s f b).cores = s.cores := rfl
@[simp] theorem setBucket_mem (s : State) (f : Nat) (b : Bucket) :
    (setBucket s f b).mem = s.mem := rfl
@[simp] theorem setBucket_poison (s : State) (f : Nat) (b : Bucket) :
    (setBucket s f b).poison = s.poison := rfl
@[simp] theorem setBucket_bulk (s : State) (f : Nat) (b : Bucket) :
    (setBucket s f b).bulk = s.bulk := rfl
@[simp] theorem setBucket_deadCh (s : State) (f : Nat) (b : Bucket) :
    (setBucket s f b).deadCh = s.deadCh := rfl
@[simp] theorem setBucket_twin (s : State) (f : Nat) (b : Bucket) :
    (setBucket s f b).twin = s.twin := rfl
@[simp] theorem setBucket_degraded (s : State) (f : Nat) (b : Bucket) :
    (setBucket s f b).degraded = s.degraded := rfl
@[simp] theorem setBucket_bad (s : State) (f : Nat) (b : Bucket) :
    (setBucket s f b).bad = s.bad := rfl
@[simp] theorem setBucket_ccache (s : State) (f : Nat) (b : Bucket) :
    (setBucket s f b).ccache = s.ccache := rfl
@[simp] theorem setBucket_fixes (s : State) (f : Nat) (b : Bucket) :
    (setBucket s f b).fixes = s.fixes := rfl
@[simp] theorem setBucket_rebuilt (s : State) (f : Nat) (b : Bucket) :
    (setBucket s f b).rebuilt = s.rebuilt := rfl
@[simp] theorem setBucket_spdBad (s : State) (f : Nat) (b : Bucket) :
    (setBucket s f b).spdBad = s.spdBad := rfl
@[simp] theorem setBucket_spdFix (s : State) (f : Nat) (b : Bucket) :
    (setBucket s f b).spdFix = s.spdFix := rfl
@[simp] theorem setBucket_wayOut (s : State) (f : Nat) (b : Bucket) :
    (setBucket s f b).wayOut = s.wayOut := rfl
@[simp] theorem setBucket_lines (s : State) (f : Nat) (b : Bucket) :
    (setBucket s f b).lines = s.lines := rfl
@[simp] theorem setBucket_stamp (s : State) (f : Nat) (b : Bucket) :
    (setBucket s f b).stamp = s.stamp := rfl
@[simp] theorem setBucket_homeQ (s : State) (f : Nat) (b : Bucket) :
    (setBucket s f b).homeQ = s.homeQ := rfl
@[simp] theorem setBucket_homeDone (s : State) (f : Nat) (b : Bucket) :
    (setBucket s f b).homeDone = s.homeDone := rfl
@[simp] theorem setBucket_proxyQ (s : State) (f : Nat) (b : Bucket) :
    (setBucket s f b).proxyQ = s.proxyQ := rfl
@[simp] theorem setBucket_copies (s : State) (f : Nat) (b : Bucket) :
    (setBucket s f b).copies = s.copies := rfl
@[simp] theorem setBucket_snoops (s : State) (f : Nat) (b : Bucket) :
    (setBucket s f b).snoops = s.snoops := rfl
@[simp] theorem setBucket_txs (s : State) (f : Nat) (b : Bucket) :
    (setBucket s f b).txs = s.txs := rfl
@[simp] theorem setBucket_reclaims (s : State) (f : Nat) (b : Bucket) :
    (setBucket s f b).reclaims = s.reclaims := rfl
@[simp] theorem setBucket_sseq (s : State) (f : Nat) (b : Bucket) :
    (setBucket s f b).sseq = s.sseq := rfl
@[simp] theorem setBucket_outbox (s : State) (f : Nat) (b : Bucket) :
    (setBucket s f b).outbox = s.outbox := rfl
@[simp] theorem setBucket_winUse (s : State) (f : Nat) (b : Bucket) :
    (setBucket s f b).winUse = s.winUse := rfl
@[simp] theorem setBucket_missQ (s : State) (f : Nat) (b : Bucket) :
    (setBucket s f b).missQ = s.missQ := rfl
@[simp] theorem setBucket_missOvf (s : State) (f : Nat) (b : Bucket) :
    (setBucket s f b).missOvf = s.missOvf := rfl
@[simp] theorem setBucket_vps (s : State) (f : Nat) (b : Bucket) :
    (setBucket s f b).vps = s.vps := rfl
@[simp] theorem setBucket_vjobs (s : State) (f : Nat) (b : Bucket) :
    (setBucket s f b).vjobs = s.vjobs := rfl
@[simp] theorem setBucket_vmsgs (s : State) (f : Nat) (b : Bucket) :
    (setBucket s f b).vmsgs = s.vmsgs := rfl
@[simp] theorem setBucket_chans (s : State) (f : Nat) (b : Bucket) :
    (setBucket s f b).chans = s.chans := rfl
@[simp] theorem setBucket_etlb (s : State) (f : Nat) (b : Bucket) :
    (setBucket s f b).etlb = s.etlb := rfl
@[simp] theorem setBucket_time (s : State) (f : Nat) (b : Bucket) :
    (setBucket s f b).time = s.time := rfl
@[simp] theorem setBucket_keep (s : State) (f : Nat) (b : Bucket) :
    (setBucket s f b).keep = s.keep := rfl
@[simp] theorem setBucket_svc (s : State) (f : Nat) (b : Bucket) :
    (setBucket s f b).svc = s.svc := rfl
@[simp] theorem setBucket_dev (s : State) (f : Nat) (b : Bucket) :
    (setBucket s f b).dev = s.dev := rfl
@[simp] theorem setBucket_out (s : State) (f : Nat) (b : Bucket) :
    (setBucket s f b).out = s.out := rfl
@[simp] theorem setBucket_replays (s : State) (f : Nat) (b : Bucket) :
    (setBucket s f b).replays = s.replays := rfl
@[simp] theorem setBucket_moves (s : State) (f : Nat) (b : Bucket) :
    (setBucket s f b).moves = s.moves := rfl
@[simp] theorem setBucket_migrating (s : State) (f : Nat) (b : Bucket) :
    (setBucket s f b).migrating = s.migrating := rfl
@[simp] theorem setBucket_needSpare (s : State) (f : Nat) (b : Bucket) :
    (setBucket s f b).needSpare = s.needSpare := rfl
@[simp] theorem setBucket_rebuildAt (s : State) (f : Nat) (b : Bucket) :
    (setBucket s f b).rebuildAt = s.rebuildAt := rfl
@[simp] theorem setBucket_copying (s : State) (f : Nat) (b : Bucket) :
    (setBucket s f b).copying = s.copying := rfl
@[simp] theorem setBucket_calBad (s : State) (f : Nat) (b : Bucket) :
    (setBucket s f b).calBad = s.calBad := rfl
@[simp] theorem setBucket_resets (s : State) (f : Nat) (b : Bucket) :
    (setBucket s f b).resets = s.resets := rfl
@[simp] theorem setBucket_logHeld (s : State) (f : Nat) (b : Bucket) :
    (setBucket s f b).logHeld = s.logHeld := rfl
@[simp] theorem setBucket_logSeq (s : State) (f : Nat) (b : Bucket) :
    (setBucket s f b).logSeq = s.logSeq := rfl

/-! `setChan`. -/

@[simp] theorem setChan_pending (s : State) (n : Nat) (k : Chan) :
    (setChan s n k).pending = s.pending := rfl
@[simp] theorem setChan_free (s : State) (n : Nat) (k : Chan) : (setChan s n k).free = s.free := rfl
@[simp] theorem setChan_regs (s : State) (n : Nat) (k : Chan) : (setChan s n k).regs = s.regs := rfl
@[simp] theorem setChan_warmed (s : State) (n : Nat) (k : Chan) :
    (setChan s n k).warmed = s.warmed := rfl
@[simp] theorem setChan_cores (s : State) (n : Nat) (k : Chan) :
    (setChan s n k).cores = s.cores := rfl
@[simp] theorem setChan_mem (s : State) (n : Nat) (k : Chan) : (setChan s n k).mem = s.mem := rfl
@[simp] theorem setChan_poison (s : State) (n : Nat) (k : Chan) :
    (setChan s n k).poison = s.poison := rfl
@[simp] theorem setChan_bulk (s : State) (n : Nat) (k : Chan) : (setChan s n k).bulk = s.bulk := rfl
@[simp] theorem setChan_deadCh (s : State) (n : Nat) (k : Chan) :
    (setChan s n k).deadCh = s.deadCh := rfl
@[simp] theorem setChan_twin (s : State) (n : Nat) (k : Chan) : (setChan s n k).twin = s.twin := rfl
@[simp] theorem setChan_degraded (s : State) (n : Nat) (k : Chan) :
    (setChan s n k).degraded = s.degraded := rfl
@[simp] theorem setChan_bad (s : State) (n : Nat) (k : Chan) : (setChan s n k).bad = s.bad := rfl
@[simp] theorem setChan_ccache (s : State) (n : Nat) (k : Chan) :
    (setChan s n k).ccache = s.ccache := rfl
@[simp] theorem setChan_fixes (s : State) (n : Nat) (k : Chan) :
    (setChan s n k).fixes = s.fixes := rfl
@[simp] theorem setChan_rebuilt (s : State) (n : Nat) (k : Chan) :
    (setChan s n k).rebuilt = s.rebuilt := rfl
@[simp] theorem setChan_spdBad (s : State) (n : Nat) (k : Chan) :
    (setChan s n k).spdBad = s.spdBad := rfl
@[simp] theorem setChan_spdFix (s : State) (n : Nat) (k : Chan) :
    (setChan s n k).spdFix = s.spdFix := rfl
@[simp] theorem setChan_wayOut (s : State) (n : Nat) (k : Chan) :
    (setChan s n k).wayOut = s.wayOut := rfl
@[simp] theorem setChan_lines (s : State) (n : Nat) (k : Chan) :
    (setChan s n k).lines = s.lines := rfl
@[simp] theorem setChan_stamp (s : State) (n : Nat) (k : Chan) :
    (setChan s n k).stamp = s.stamp := rfl
@[simp] theorem setChan_homeQ (s : State) (n : Nat) (k : Chan) :
    (setChan s n k).homeQ = s.homeQ := rfl
@[simp] theorem setChan_homeDone (s : State) (n : Nat) (k : Chan) :
    (setChan s n k).homeDone = s.homeDone := rfl
@[simp] theorem setChan_proxyQ (s : State) (n : Nat) (k : Chan) :
    (setChan s n k).proxyQ = s.proxyQ := rfl
@[simp] theorem setChan_copies (s : State) (n : Nat) (k : Chan) :
    (setChan s n k).copies = s.copies := rfl
@[simp] theorem setChan_snoops (s : State) (n : Nat) (k : Chan) :
    (setChan s n k).snoops = s.snoops := rfl
@[simp] theorem setChan_txs (s : State) (n : Nat) (k : Chan) : (setChan s n k).txs = s.txs := rfl
@[simp] theorem setChan_reclaims (s : State) (n : Nat) (k : Chan) :
    (setChan s n k).reclaims = s.reclaims := rfl
@[simp] theorem setChan_sseq (s : State) (n : Nat) (k : Chan) : (setChan s n k).sseq = s.sseq := rfl
@[simp] theorem setChan_outbox (s : State) (n : Nat) (k : Chan) :
    (setChan s n k).outbox = s.outbox := rfl
@[simp] theorem setChan_fab (s : State) (n : Nat) (k : Chan) : (setChan s n k).fab = s.fab := rfl
@[simp] theorem setChan_winUse (s : State) (n : Nat) (k : Chan) :
    (setChan s n k).winUse = s.winUse := rfl
@[simp] theorem setChan_missQ (s : State) (n : Nat) (k : Chan) :
    (setChan s n k).missQ = s.missQ := rfl
@[simp] theorem setChan_missOvf (s : State) (n : Nat) (k : Chan) :
    (setChan s n k).missOvf = s.missOvf := rfl
@[simp] theorem setChan_vps (s : State) (n : Nat) (k : Chan) : (setChan s n k).vps = s.vps := rfl
@[simp] theorem setChan_vjobs (s : State) (n : Nat) (k : Chan) :
    (setChan s n k).vjobs = s.vjobs := rfl
@[simp] theorem setChan_vmsgs (s : State) (n : Nat) (k : Chan) :
    (setChan s n k).vmsgs = s.vmsgs := rfl
@[simp] theorem setChan_etlb (s : State) (n : Nat) (k : Chan) : (setChan s n k).etlb = s.etlb := rfl
@[simp] theorem setChan_time (s : State) (n : Nat) (k : Chan) : (setChan s n k).time = s.time := rfl
@[simp] theorem setChan_keep (s : State) (n : Nat) (k : Chan) : (setChan s n k).keep = s.keep := rfl
@[simp] theorem setChan_svc (s : State) (n : Nat) (k : Chan) : (setChan s n k).svc = s.svc := rfl
@[simp] theorem setChan_dev (s : State) (n : Nat) (k : Chan) : (setChan s n k).dev = s.dev := rfl
@[simp] theorem setChan_out (s : State) (n : Nat) (k : Chan) : (setChan s n k).out = s.out := rfl
@[simp] theorem setChan_replays (s : State) (n : Nat) (k : Chan) :
    (setChan s n k).replays = s.replays := rfl
@[simp] theorem setChan_moves (s : State) (n : Nat) (k : Chan) :
    (setChan s n k).moves = s.moves := rfl
@[simp] theorem setChan_migrating (s : State) (n : Nat) (k : Chan) :
    (setChan s n k).migrating = s.migrating := rfl
@[simp] theorem setChan_needSpare (s : State) (n : Nat) (k : Chan) :
    (setChan s n k).needSpare = s.needSpare := rfl
@[simp] theorem setChan_rebuildAt (s : State) (n : Nat) (k : Chan) :
    (setChan s n k).rebuildAt = s.rebuildAt := rfl
@[simp] theorem setChan_copying (s : State) (n : Nat) (k : Chan) :
    (setChan s n k).copying = s.copying := rfl
@[simp] theorem setChan_calBad (s : State) (n : Nat) (k : Chan) :
    (setChan s n k).calBad = s.calBad := rfl
@[simp] theorem setChan_resets (s : State) (n : Nat) (k : Chan) :
    (setChan s n k).resets = s.resets := rfl
@[simp] theorem setChan_logHeld (s : State) (n : Nat) (k : Chan) :
    (setChan s n k).logHeld = s.logHeld := rfl
@[simp] theorem setChan_logSeq (s : State) (n : Nat) (k : Chan) :
    (setChan s n k).logSeq = s.logSeq := rfl

/-! `setDues`. -/

@[simp] theorem setDues_pending (s : State) (ks : Nat → Bool) :
    (setDues s ks).pending = s.pending := rfl
@[simp] theorem setDues_free (s : State) (ks : Nat → Bool) : (setDues s ks).free = s.free := rfl
@[simp] theorem setDues_regs (s : State) (ks : Nat → Bool) : (setDues s ks).regs = s.regs := rfl
@[simp] theorem setDues_warmed (s : State) (ks : Nat → Bool) :
    (setDues s ks).warmed = s.warmed := rfl
@[simp] theorem setDues_cores (s : State) (ks : Nat → Bool) : (setDues s ks).cores = s.cores := rfl
@[simp] theorem setDues_mem (s : State) (ks : Nat → Bool) : (setDues s ks).mem = s.mem := rfl
@[simp] theorem setDues_poison (s : State) (ks : Nat → Bool) :
    (setDues s ks).poison = s.poison := rfl
@[simp] theorem setDues_bulk (s : State) (ks : Nat → Bool) : (setDues s ks).bulk = s.bulk := rfl
@[simp] theorem setDues_deadCh (s : State) (ks : Nat → Bool) :
    (setDues s ks).deadCh = s.deadCh := rfl
@[simp] theorem setDues_twin (s : State) (ks : Nat → Bool) : (setDues s ks).twin = s.twin := rfl
@[simp] theorem setDues_degraded (s : State) (ks : Nat → Bool) :
    (setDues s ks).degraded = s.degraded := rfl
@[simp] theorem setDues_bad (s : State) (ks : Nat → Bool) : (setDues s ks).bad = s.bad := rfl
@[simp] theorem setDues_ccache (s : State) (ks : Nat → Bool) :
    (setDues s ks).ccache = s.ccache := rfl
@[simp] theorem setDues_fixes (s : State) (ks : Nat → Bool) : (setDues s ks).fixes = s.fixes := rfl
@[simp] theorem setDues_rebuilt (s : State) (ks : Nat → Bool) :
    (setDues s ks).rebuilt = s.rebuilt := rfl
@[simp] theorem setDues_spdBad (s : State) (ks : Nat → Bool) :
    (setDues s ks).spdBad = s.spdBad := rfl
@[simp] theorem setDues_spdFix (s : State) (ks : Nat → Bool) :
    (setDues s ks).spdFix = s.spdFix := rfl
@[simp] theorem setDues_wayOut (s : State) (ks : Nat → Bool) :
    (setDues s ks).wayOut = s.wayOut := rfl
@[simp] theorem setDues_lines (s : State) (ks : Nat → Bool) : (setDues s ks).lines = s.lines := rfl
@[simp] theorem setDues_stamp (s : State) (ks : Nat → Bool) : (setDues s ks).stamp = s.stamp := rfl
@[simp] theorem setDues_homeQ (s : State) (ks : Nat → Bool) : (setDues s ks).homeQ = s.homeQ := rfl
@[simp] theorem setDues_homeDone (s : State) (ks : Nat → Bool) :
    (setDues s ks).homeDone = s.homeDone := rfl
@[simp] theorem setDues_proxyQ (s : State) (ks : Nat → Bool) :
    (setDues s ks).proxyQ = s.proxyQ := rfl
@[simp] theorem setDues_copies (s : State) (ks : Nat → Bool) :
    (setDues s ks).copies = s.copies := rfl
@[simp] theorem setDues_snoops (s : State) (ks : Nat → Bool) :
    (setDues s ks).snoops = s.snoops := rfl
@[simp] theorem setDues_txs (s : State) (ks : Nat → Bool) : (setDues s ks).txs = s.txs := rfl
@[simp] theorem setDues_reclaims (s : State) (ks : Nat → Bool) :
    (setDues s ks).reclaims = s.reclaims := rfl
@[simp] theorem setDues_sseq (s : State) (ks : Nat → Bool) : (setDues s ks).sseq = s.sseq := rfl
@[simp] theorem setDues_outbox (s : State) (ks : Nat → Bool) :
    (setDues s ks).outbox = s.outbox := rfl
@[simp] theorem setDues_fab (s : State) (ks : Nat → Bool) : (setDues s ks).fab = s.fab := rfl
@[simp] theorem setDues_winUse (s : State) (ks : Nat → Bool) :
    (setDues s ks).winUse = s.winUse := rfl
@[simp] theorem setDues_missQ (s : State) (ks : Nat → Bool) : (setDues s ks).missQ = s.missQ := rfl
@[simp] theorem setDues_missOvf (s : State) (ks : Nat → Bool) :
    (setDues s ks).missOvf = s.missOvf := rfl
@[simp] theorem setDues_vps (s : State) (ks : Nat → Bool) : (setDues s ks).vps = s.vps := rfl
@[simp] theorem setDues_vjobs (s : State) (ks : Nat → Bool) : (setDues s ks).vjobs = s.vjobs := rfl
@[simp] theorem setDues_vmsgs (s : State) (ks : Nat → Bool) : (setDues s ks).vmsgs = s.vmsgs := rfl
@[simp] theorem setDues_chans (s : State) (ks : Nat → Bool) : (setDues s ks).chans = s.chans := rfl
@[simp] theorem setDues_etlb (s : State) (ks : Nat → Bool) : (setDues s ks).etlb = s.etlb := rfl
@[simp] theorem setDues_keep (s : State) (ks : Nat → Bool) : (setDues s ks).keep = s.keep := rfl
@[simp] theorem setDues_svc (s : State) (ks : Nat → Bool) : (setDues s ks).svc = s.svc := rfl
@[simp] theorem setDues_dev (s : State) (ks : Nat → Bool) : (setDues s ks).dev = s.dev := rfl
@[simp] theorem setDues_out (s : State) (ks : Nat → Bool) : (setDues s ks).out = s.out := rfl
@[simp] theorem setDues_replays (s : State) (ks : Nat → Bool) :
    (setDues s ks).replays = s.replays := rfl
@[simp] theorem setDues_moves (s : State) (ks : Nat → Bool) : (setDues s ks).moves = s.moves := rfl
@[simp] theorem setDues_migrating (s : State) (ks : Nat → Bool) :
    (setDues s ks).migrating = s.migrating := rfl
@[simp] theorem setDues_needSpare (s : State) (ks : Nat → Bool) :
    (setDues s ks).needSpare = s.needSpare := rfl
@[simp] theorem setDues_rebuildAt (s : State) (ks : Nat → Bool) :
    (setDues s ks).rebuildAt = s.rebuildAt := rfl
@[simp] theorem setDues_copying (s : State) (ks : Nat → Bool) :
    (setDues s ks).copying = s.copying := rfl
@[simp] theorem setDues_calBad (s : State) (ks : Nat → Bool) :
    (setDues s ks).calBad = s.calBad := rfl
@[simp] theorem setDues_resets (s : State) (ks : Nat → Bool) :
    (setDues s ks).resets = s.resets := rfl
@[simp] theorem setDues_logHeld (s : State) (ks : Nat → Bool) :
    (setDues s ks).logHeld = s.logHeld := rfl
@[simp] theorem setDues_logSeq (s : State) (ks : Nat → Bool) :
    (setDues s ks).logSeq = s.logSeq := rfl

/-! `dropEngines`. -/

@[simp] theorem dropEngines_pending (s : State) (p : TlbTag → Bool) :
    (dropEngines s p).pending = s.pending := rfl
@[simp] theorem dropEngines_free (s : State) (p : TlbTag → Bool) :
    (dropEngines s p).free = s.free := rfl
@[simp] theorem dropEngines_regs (s : State) (p : TlbTag → Bool) :
    (dropEngines s p).regs = s.regs := rfl
@[simp] theorem dropEngines_warmed (s : State) (p : TlbTag → Bool) :
    (dropEngines s p).warmed = s.warmed := rfl
@[simp] theorem dropEngines_cores (s : State) (p : TlbTag → Bool) :
    (dropEngines s p).cores = s.cores := rfl
@[simp] theorem dropEngines_mem (s : State) (p : TlbTag → Bool) :
    (dropEngines s p).mem = s.mem := rfl
@[simp] theorem dropEngines_poison (s : State) (p : TlbTag → Bool) :
    (dropEngines s p).poison = s.poison := rfl
@[simp] theorem dropEngines_bulk (s : State) (p : TlbTag → Bool) :
    (dropEngines s p).bulk = s.bulk := rfl
@[simp] theorem dropEngines_deadCh (s : State) (p : TlbTag → Bool) :
    (dropEngines s p).deadCh = s.deadCh := rfl
@[simp] theorem dropEngines_twin (s : State) (p : TlbTag → Bool) :
    (dropEngines s p).twin = s.twin := rfl
@[simp] theorem dropEngines_degraded (s : State) (p : TlbTag → Bool) :
    (dropEngines s p).degraded = s.degraded := rfl
@[simp] theorem dropEngines_bad (s : State) (p : TlbTag → Bool) :
    (dropEngines s p).bad = s.bad := rfl
@[simp] theorem dropEngines_ccache (s : State) (p : TlbTag → Bool) :
    (dropEngines s p).ccache = s.ccache := rfl
@[simp] theorem dropEngines_fixes (s : State) (p : TlbTag → Bool) :
    (dropEngines s p).fixes = s.fixes := rfl
@[simp] theorem dropEngines_rebuilt (s : State) (p : TlbTag → Bool) :
    (dropEngines s p).rebuilt = s.rebuilt := rfl
@[simp] theorem dropEngines_spdBad (s : State) (p : TlbTag → Bool) :
    (dropEngines s p).spdBad = s.spdBad := rfl
@[simp] theorem dropEngines_spdFix (s : State) (p : TlbTag → Bool) :
    (dropEngines s p).spdFix = s.spdFix := rfl
@[simp] theorem dropEngines_wayOut (s : State) (p : TlbTag → Bool) :
    (dropEngines s p).wayOut = s.wayOut := rfl
@[simp] theorem dropEngines_lines (s : State) (p : TlbTag → Bool) :
    (dropEngines s p).lines = s.lines := rfl
@[simp] theorem dropEngines_stamp (s : State) (p : TlbTag → Bool) :
    (dropEngines s p).stamp = s.stamp := rfl
@[simp] theorem dropEngines_homeQ (s : State) (p : TlbTag → Bool) :
    (dropEngines s p).homeQ = s.homeQ := rfl
@[simp] theorem dropEngines_proxyQ (s : State) (p : TlbTag → Bool) :
    (dropEngines s p).proxyQ = s.proxyQ := rfl
@[simp] theorem dropEngines_copies (s : State) (p : TlbTag → Bool) :
    (dropEngines s p).copies = s.copies := rfl
@[simp] theorem dropEngines_snoops (s : State) (p : TlbTag → Bool) :
    (dropEngines s p).snoops = s.snoops := rfl
@[simp] theorem dropEngines_txs (s : State) (p : TlbTag → Bool) :
    (dropEngines s p).txs = s.txs := rfl
@[simp] theorem dropEngines_reclaims (s : State) (p : TlbTag → Bool) :
    (dropEngines s p).reclaims = s.reclaims := rfl
@[simp] theorem dropEngines_sseq (s : State) (p : TlbTag → Bool) :
    (dropEngines s p).sseq = s.sseq := rfl
@[simp] theorem dropEngines_outbox (s : State) (p : TlbTag → Bool) :
    (dropEngines s p).outbox = s.outbox := rfl
@[simp] theorem dropEngines_fab (s : State) (p : TlbTag → Bool) :
    (dropEngines s p).fab = s.fab := rfl
@[simp] theorem dropEngines_winUse (s : State) (p : TlbTag → Bool) :
    (dropEngines s p).winUse = s.winUse := rfl
@[simp] theorem dropEngines_missQ (s : State) (p : TlbTag → Bool) :
    (dropEngines s p).missQ = s.missQ := rfl
@[simp] theorem dropEngines_missOvf (s : State) (p : TlbTag → Bool) :
    (dropEngines s p).missOvf = s.missOvf := rfl
@[simp] theorem dropEngines_vps (s : State) (p : TlbTag → Bool) :
    (dropEngines s p).vps = s.vps := rfl
@[simp] theorem dropEngines_vjobs (s : State) (p : TlbTag → Bool) :
    (dropEngines s p).vjobs = s.vjobs := rfl
@[simp] theorem dropEngines_vmsgs (s : State) (p : TlbTag → Bool) :
    (dropEngines s p).vmsgs = s.vmsgs := rfl
@[simp] theorem dropEngines_time (s : State) (p : TlbTag → Bool) :
    (dropEngines s p).time = s.time := rfl
@[simp] theorem dropEngines_keep (s : State) (p : TlbTag → Bool) :
    (dropEngines s p).keep = s.keep := rfl
@[simp] theorem dropEngines_svc (s : State) (p : TlbTag → Bool) :
    (dropEngines s p).svc = s.svc := rfl
@[simp] theorem dropEngines_dev (s : State) (p : TlbTag → Bool) :
    (dropEngines s p).dev = s.dev := rfl
@[simp] theorem dropEngines_out (s : State) (p : TlbTag → Bool) :
    (dropEngines s p).out = s.out := rfl
@[simp] theorem dropEngines_replays (s : State) (p : TlbTag → Bool) :
    (dropEngines s p).replays = s.replays := rfl
@[simp] theorem dropEngines_moves (s : State) (p : TlbTag → Bool) :
    (dropEngines s p).moves = s.moves := rfl
@[simp] theorem dropEngines_migrating (s : State) (p : TlbTag → Bool) :
    (dropEngines s p).migrating = s.migrating := rfl
@[simp] theorem dropEngines_needSpare (s : State) (p : TlbTag → Bool) :
    (dropEngines s p).needSpare = s.needSpare := rfl
@[simp] theorem dropEngines_rebuildAt (s : State) (p : TlbTag → Bool) :
    (dropEngines s p).rebuildAt = s.rebuildAt := rfl
@[simp] theorem dropEngines_copying (s : State) (p : TlbTag → Bool) :
    (dropEngines s p).copying = s.copying := rfl
@[simp] theorem dropEngines_calBad (s : State) (p : TlbTag → Bool) :
    (dropEngines s p).calBad = s.calBad := rfl
@[simp] theorem dropEngines_resets (s : State) (p : TlbTag → Bool) :
    (dropEngines s p).resets = s.resets := rfl
@[simp] theorem dropEngines_logHeld (s : State) (p : TlbTag → Bool) :
    (dropEngines s p).logHeld = s.logHeld := rfl
@[simp] theorem dropEngines_logSeq (s : State) (p : TlbTag → Bool) :
    (dropEngines s p).logSeq = s.logSeq := rfl

end Sys2Proof.Machine
end

