-- ==== Sys2Proof/Laws/Issue.lean ====
section
/-! SUPPORT. Laws of an instruction that does not retire at once: it raises an exception, stalls, is
ill-formed or below its level, or its core executes nothing. -/

namespace Sys2Proof.Machine

/-- An instruction whose body raises an exception takes it. -/
theorem issue_raises {s u w : State} {c : CoreNo} {i : Instr} {len lvl : Nat} {evs : List Nat}
    {m : CpuM Unit} {e : Exc} (h : Runs s c len lvl u)
    (hm : m (past s u c len) = .error (.exc e) w) :
    issue c i len lvl true evs m s = .next (takeExc w c i (getPc s c) e) := by
  rw [issue_runs h.active h.free h.still h.quiet]
  have hb := (h.body m).trans hm
  unfold fresh at hb
  unfold runBody
  simp only [hb]

/-- An instruction whose body stalls waits, with its pc not advanced. -/
theorem issue_stalls {s u w : State} {c : CoreNo} {i : Instr} {len lvl : Nat} {evs : List Nat}
    {m : CpuM Unit} (h : Runs s c len lvl u) (hm : m (past s u c len) = .error .stall w) :
    issue c i len lvl true evs m s =
      .next (modCore (setPc w c (getPc s c)) c (fun k => { k with wait := some i })) := by
  rw [issue_runs h.active h.free h.still h.quiet]
  have hb := (h.body m).trans hm
  unfold fresh at hb
  unfold runBody
  simp only [hb]

/-- An ill-formed instruction takes ILLEGAL_INSTR after its fetch checks (R47). -/
theorem issue_ill {s u : State} {c : CoreNo} {i : Instr} {len lvl : Nat} {evs : List Nat}
    {m : CpuM Unit} (h : Runs s c len 0 u) :
    issue c i len lvl false evs m s = .next (takeExc u c i (getPc s c) { code := 0x01 }) := by
  rw [issue_runs h.active h.free h.still h.quiet]
  have hb : (do fetchCheck c len
                if !false then raise { code := 0x01 }
                else if plOf s c < lvl then raise { code := 0x02 }
                else
                  modify (fun t => setPc t c (getPc s c + BitVec.ofNat 64 len))
                  m : CpuM Unit) (fresh s c) = .error (.exc { code := 0x01 }) u := by
    rw [CpuM.bind_ok h.fetch]
    rfl
  unfold fresh at hb
  unfold runBody
  simp only [hb]

/-- An instruction below its lowest level takes PRIV_INSTR after its fetch checks (R37). -/
theorem issue_below {s u : State} {c : CoreNo} {i : Instr} {len lvl : Nat} {evs : List Nat}
    {m : CpuM Unit} (h : Runs s c len 0 u) (lt : plOf s c < lvl) :
    issue c i len lvl true evs m s = .next (takeExc u c i (getPc s c) { code := 0x02 }) := by
  rw [issue_runs h.active h.free h.still h.quiet]
  have hb : (do fetchCheck c len
                if !true then raise { code := 0x01 }
                else if plOf s c < lvl then raise { code := 0x02 }
                else
                  modify (fun t => setPc t c (getPc s c + BitVec.ofNat 64 len))
                  m : CpuM Unit) (fresh s c) = .error (.exc { code := 0x02 }) u := by
    rw [CpuM.bind_ok h.fetch]
    simp only [Bool.not_true, Bool.false_eq_true, if_false, lt, if_true]
    rfl
  unfold fresh at hb
  unfold runBody
  simp only [hb]

/-- A core that does not execute ignores the instruction (R96, R128, R432). -/
theorem issue_idle {s : State} {c : CoreNo} {i : Instr} {len lvl : Nat} {wf : Bool} {evs : List Nat}
    {m : CpuM Unit} (h : (coreOf s c).active = false) : issue c i len lvl wf evs m s = .next s := by
  unfold issue
  simp only [h, Bool.not_false, if_true]

/-- Behind an instruction that waits the next one waits its turn. -/
theorem issue_queues {s : State} {c : CoreNo} {i : Instr} {len lvl : Nat} {wf : Bool} {evs : List Nat}
    {m : CpuM Unit} (ha : (coreOf s c).active = true) (h : (coreOf s c).wait ≠ none) :
    issue c i len lvl wf evs m s =
      .next (setCore s c { coreOf s c with later := (coreOf s c).later ++ [i] }) := by
  unfold issue
  cases w : (coreOf s c).wait with
  | none => exact absurd w h
  | some j => simp only [ha, w, Bool.not_true, Bool.false_eq_true, if_false, Option.isSome_some, if_true]

/-- Issuing answers a next state always. -/
theorem issue_goes_on (s : State) (c : CoreNo) (i : Instr) (len lvl : Nat) (wf : Bool)
    (evs : List Nat) (m : CpuM Unit) : goesOn (issue c i len lvl wf evs m s) := by
  unfold issue
  dsimp only
  split
  · exact ⟨_, rfl⟩
  · split
    · exact ⟨_, rfl⟩
    · split <;> exact ⟨_, rfl⟩

end Sys2Proof.Machine
end

