-- ==== Sys2Proof/Laws/Line.lean ====
section
/-! SUPPORT. Laws of lines of memory, fuses and flash: what a write of a line, a burn, an erase and a
program change, and that each keeps the canonical form. -/

namespace Sys2Proof.Machine

/-! The bytes of a line. -/

/-- A power of 256 as one of 2. -/
theorem pow_256 (n : Nat) : 256 ^ n = 2 ^ (8 * n) := by rw [Nat.pow_mul]

/-- Each byte of the line that bytes make is the byte at its place. -/
theorem bytesLine_byte (bs : List Byte) (h : bs.length = 64) (i : Nat) (lt : i < 64) :
    (bytesLine bs).extractLsb' (8 * i) 8 = bs[i]'(by omega) := by
  have nat : ∀ (l : List Byte) (i : Nat) (lt : i < l.length),
      leNat l / 256 ^ i % 256 = (l[i]).toNat := by
    intro l
    induction l with
    | nil => exact fun _ lt => absurd lt (Nat.not_lt_zero _)
    | cons b l ih =>
      intro i lt
      have hb := b.isLt
      cases i with
      | zero =>
        simp only [leNat, Nat.pow_zero, Nat.div_one, List.getElem_cons_zero]
        omega
      | succ i =>
        have e : (b.toNat + 256 * leNat l) / 256 ^ (i + 1) = leNat l / 256 ^ i := by
          rw [Nat.pow_succ, Nat.mul_comm (256 ^ i) 256, ← Nat.div_div_eq_div_mul]
          congr 1
          omega
        simp only [leNat, List.getElem_cons_succ]
        rw [e]
        exact ih i (by simpa using lt)
  have small : ∀ l : List Byte, leNat l < 256 ^ l.length := by
    intro l
    induction l with
    | nil => exact Nat.one_pos
    | cons b l ih =>
      have hb := b.isLt
      simp only [leNat, List.length_cons, Nat.pow_succ]
      omega
  apply BitVec.eq_of_toNat_eq
  have s := small bs
  rw [h, pow_256] at s
  have q := (pow_256 i).symm
  rw [BitVec.extractLsb'_toNat, Nat.shiftRight_eq_div_pow, q]
  simp only [bytesLine, BitVec.toNat_ofNat]
  rw [Nat.mod_eq_of_lt s]
  exact nat bs i (by omega)

/-- A number from its little-endian bytes. -/
theorem leNat_natLe (n : Nat) : ∀ v : Nat, leNat (natLe v n) = v % 256 ^ n := by
  induction n with
  | zero => exact fun v => (Nat.mod_one v).symm
  | succ n ih =>
    intro v
    have e : (BitVec.ofNat 8 v).toNat = v % 256 := BitVec.toNat_ofNat ..
    rw [natLe, leNat, ih, e, Nat.pow_succ, Nat.mul_comm (256 ^ n) 256, Nat.mod_mul]

@[simp] theorem natLe_length (n : Nat) : ∀ v : Nat, (natLe v n).length = n := by
  induction n with
  | zero => exact fun _ => rfl
  | succ n ih => exact fun v => by simp [natLe, ih]

/-- A line from its bytes. -/
@[simp] theorem bytesLine_lineBytes (d : Line) : bytesLine (lineBytes d) = d := by
  apply BitVec.eq_of_toNat_eq
  have h := d.isLt
  simp only [bytesLine, lineBytes, leNat_natLe, BitVec.toNat_ofNat]
  rw [pow_256, Nat.mod_mod, Nat.mod_eq_of_lt h]

/-! Lines in memory. -/

/-- The state with a line written differs in memory only. -/
theorem setMemLine_rest (s : State) (l : Nat) (d : Line) :
    setMemLine s l d = { s with mem := (setMemLine s l d).mem } := by simp only [setMemLine]

/-- A line written reads as written; any other line reads as before. -/
theorem memLine_setMemLine (s : State) (h : s.mem.wf = true) (l q : Nat) (d : Line) :
    memLine (setMemLine s l d) q = if q = l then d else memLine s q := by
  have len : (lineBytes d).length = 64 := natLe_length 64 _
  by_cases e : q = l
  · subst e
    have r := Memory.readBytes_writeBytes (lineBytes d) s.mem (64 * q) h
    rw [len] at r
    simp only [memLine, setMemLine, r, bytesLine_lineBytes, if_true]
  · have r := Memory.readBytes_writeBytes_apart (lineBytes d) s.mem (64 * l) h 64 (64 * q)
      (by rw [len]; omega)
    simp only [memLine, setMemLine, r, if_neg e]

/-- Writing a line keeps every memory in canonical form. -/
theorem setMemLine_memOk {s : State} (h : s.memOk) (l : Nat) (d : Line) :
    (setMemLine s l d).memOk := by
  have w := Memory.writeBytes_wf (lineBytes d) s.mem (64 * l) h.1
  have e : (setMemLine s l d).mem = Memory.writeBytes s.mem (64 * l) (lineBytes d) := by
    simp only [setMemLine]
  have k : (setMemLine s l d).keep = s.keep := by simp only [setMemLine]
  unfold State.memOk
  rw [e, k]
  exact ⟨w, h.2⟩

/-- The canonical form speaks of three fields: a state that keeps them keeps it. -/
theorem memOk_of_eq {s t : State} (h : s.memOk) (m : t.mem = s.mem)
    (f : t.keep.fuses = s.keep.fuses) (g : t.keep.flash = s.keep.flash) : t.memOk :=
  ⟨m ▸ h.1, f ▸ h.2.1, g ▸ h.2.2⟩

/-! The current value of a byte. -/

/-- States with the same memory and the same line records have the same current lines. -/
theorem curLine_of_eq {s t : State} (m : t.mem = s.mem) (l : t.lines = s.lines) (n : Nat) :
    curLine t n = curLine s n := by
  simp only [curLine, homeData, memLine, lrec, m, l]

/-- The same of bytes: what changes neither memory nor a line record changes no byte. -/
theorem curByte_of_eq {s t : State} (m : t.mem = s.mem) (l : t.lines = s.lines) (a : Nat) :
    curByte t a = curByte s a := by
  simp only [curByte, curLine_of_eq m l]

/-- The record of a line that is set, and that of any other line. -/
theorem lrec_setLrec (s : State) (l q : Nat) (r : LineRec) :
    lrec (setLrec s l r) q = if q = l then { r with stamp := s.stamp } else lrec s q :=
  Tab.get_set ..

/-- A record set with the same data as before changes no byte. -/
theorem curLine_setLrec (s : State) (l q : Nat) (r : LineRec) (d : r.data = (lrec s l).data)
    (m : r.msc = (lrec s l).msc) : curLine (setLrec s l r) q = curLine s q := by
  have e : memLine (setLrec s l r) q = memLine s q := rfl
  simp only [curLine, homeData, lrec_setLrec, e]
  split
  · next h => simp only [h, d, m]
  · rfl

/-! Fuses and flash. -/

/-- Burning fuses keeps the canonical form. -/
theorem burn_memOk {s : State} (h : s.memOk) (o : Nat) (bs : List Byte) : (burn s o bs).memOk :=
  ⟨h.1, Memory.writeBytes_wf _ _ _ h.2.1, h.2.2⟩

/-- Erasing flash keeps the canonical form. -/
theorem flashErase_memOk {s : State} (h : s.memOk) (a n : Nat) : (flashErase s a n).memOk :=
  ⟨h.1, h.2.1, Memory.filter_wf _ _ 0 h.2.2⟩

/-- Programming flash keeps the canonical form. -/
theorem flashProgram_memOk {s : State} (h : s.memOk) (a : Nat) (bs : List Byte) :
    (flashProgram s a bs).2.memOk :=
  ⟨h.1, h.2.1, Memory.writeBytes_wf _ _ _ h.2.2⟩

/-- A filtered list of bytes reads zero where the filter lets nothing through. -/
theorem Memory.read_filter (p : Host.Cell → Bool) (m : Memory) : ∀ (lo : Nat) (x : Nat),
    Memory.wfFrom lo m = true → (∀ b, p (x, b) = p (x, 0)) →
    Memory.read (m.filter p) x = if p (x, 0) = true then Memory.read m x else 0 := by
  induction m with
  | nil => exact fun _ x _ _ => by simp [Memory.read]
  | cons e m ih =>
    obtain ⟨a, b⟩ := e
    intro lo x h hp
    simp only [Memory.wfFrom, Bool.and_eq_true, decide_eq_true_eq] at h
    have r := ih (a + 1) x h.2 hp
    by_cases k : p (a, b) = true
    · rw [List.filter_cons_of_pos k]
      simp only [Memory.read]
      by_cases e : a = x
      · subst e
        have k0 : p (a, 0) = true := by rw [← hp b]; exact k
        simp only [if_true]
        rw [if_pos k0]
      · simp only [if_neg e, r]
        by_cases lt : x < a
        · simp only [if_pos lt]
          split <;> rfl
        · simp only [if_neg lt]
    · rw [List.filter_cons_of_neg k]
      refine r.trans ?_
      by_cases e : a = x
      · subst e
        have k0 : ¬ p (a, 0) = true := by rw [← hp b]; exact k
        rw [if_neg k0, if_neg k0]
      · simp only [Memory.read, if_neg e]
        by_cases lt : x < a
        · have z := Memory.read_below h.2 (Nat.lt_succ_of_lt lt)
          simp [lt, z]
        · simp only [if_neg lt]

/-- Erased flash reads as ones, and flash outside the erased range as before. -/
theorem flashRead_flashErase {s : State} (h : s.keep.flash.wf = true) (a n : Nat) :
    ∀ (k x : Nat), (a ≤ x ∧ x + k ≤ a + n → flashRead (flashErase s a n) x k =
        List.replicate k 0xFF#8) ∧
      (x + k ≤ a ∨ a + n ≤ x → flashRead (flashErase s a n) x k = flashRead s x k) := by
  intro k
  induction k with
  | zero => exact fun _ => ⟨fun _ => rfl, fun _ => rfl⟩
  | succ k ih =>
    intro x
    have r := Memory.read_filter (fun e => decide (e.1 < a) || decide (a + n ≤ e.1)) s.keep.flash 0 x
      h (fun _ => rfl)
    have c : flashRead (flashErase s a n) x (k + 1) =
        ~~~(Memory.read (flashErase s a n).keep.flash x) ::
          flashRead (flashErase s a n) (x + 1) k := rfl
    have d : flashRead s x (k + 1) = ~~~(Memory.read s.keep.flash x) :: flashRead s (x + 1) k := rfl
    have e : Memory.read (flashErase s a n).keep.flash x =
        if x < a ∨ a + n ≤ x then Memory.read s.keep.flash x else 0 := by
      refine Eq.trans r ?_
      simp only [Bool.or_eq_true, decide_eq_true_eq]
    refine ⟨fun g => ?_, fun g => ?_⟩
    · rw [c, (ih (x + 1)).1 (by omega), e, if_neg (by omega)]
      rfl
    · rw [c, d, (ih (x + 1)).2 (by omega), e, if_pos (by omega)]

/-- A noted change of flash is noted for power that is lost only: what the flash holds and which of its
sectors fail stay. -/
@[simp] theorem noteFlash_keep (s : State) (op : FlashOp) : (noteFlash s op).keep = s.keep := rfl

@[simp] theorem flashFails_noteFlash (s : State) (op : FlashOp) (a n : Nat) :
    flashFails (noteFlash s op) a n = flashFails s a n := rfl

/-- Flash apart from what is programmed reads as before. -/
theorem flashRead_flashProgram_apart {s : State} (h : s.keep.flash.wf = true) (a : Nat)
    (bs : List Byte) (n x : Nat) (ap : x + n ≤ a ∨ a + bs.length ≤ x) :
    flashRead (flashProgram s a bs).2 x n = flashRead s x n := by
  have len : ∀ k x, (flashRead s x k).length = k := by
    intro k
    induction k with
    | zero => exact fun _ => rfl
    | succ k ih =>
      intro x
      show ((flashRead s (x + 1) k).length + 1) = k + 1
      rw [ih]
  have e : (flashProgram s a bs).2.keep.flash = Memory.writeBytes s.keep.flash a
      ((List.zipWith (fun x y => x &&& y) (flashRead s a bs.length) bs).map (fun b => ~~~b)) := rfl
  rw [flashRead, e, Memory.readBytes_writeBytes_apart _ _ _ h n x
    (by simp only [List.length_map, List.length_zipWith, len, Nat.min_self]; exact ap)]
  rfl

/-- Flash programmed where it is erased reads as the bytes given, and the readback matches. -/
theorem flashRead_flashProgram {s : State} (h : s.keep.flash.wf = true) (a : Nat)
    (bs : List Byte) (er : flashRead s a bs.length = List.replicate bs.length 0xFF#8)
    (fl : flashFails s a bs.length = false) :
    (flashProgram s a bs).1 = true ∧ flashRead (flashProgram s a bs).2 a bs.length = bs := by
  have z : ∀ l : List Byte,
      List.zipWith (fun x y => x &&& y) (List.replicate l.length 0xFF#8) l = l := by
    intro l
    induction l with
    | nil => rfl
    | cons b l ih =>
      have : (255#8 : Byte) &&& b = b := BitVec.allOnes_and
      simp only [List.length_cons, List.replicate_succ, List.zipWith_cons_cons, ih, this]
  have n : List.zipWith (fun x y => x &&& y) (flashRead s a bs.length) bs = bs := by rw [er, z]
  refine ⟨by simp [flashProgram, n, fl], ?_⟩
  have e : (flashProgram s a bs).2.keep.flash = Memory.writeBytes s.keep.flash a
      (bs.map (fun b => ~~~b)) := by
    show Memory.writeBytes s.keep.flash a ((List.zipWith (fun x y => x &&& y)
      (flashRead s a bs.length) bs).map (fun b => ~~~b)) = _
    rw [n]
  have r := Memory.readBytes_writeBytes (bs.map (fun b => ~~~b)) s.keep.flash a h
  rw [List.length_map] at r
  rw [flashRead, e, r]
  simp [Function.comp_def]

end Sys2Proof.Machine
end

