-- ==== Sys2Proof/Tests/Slice0.lean ====
section
/-! SUPPORT. Small tests, each of one step, whose expected results are worked out from the spec by
hand, and for each statement with hypotheses, or for each part of a merged one, a state and operands
that meet them: `witness_` and the name of the statement or part. -/

namespace Sys2Proof.Tests

set_option Elab.async false

open Sys2Proof.Machine Sys2Proof.Claims

/-- A command answers a next state that passes `p`. -/
def runs (i : Instr) (s : State) (p : State → Bool) : Bool :=
  match exec i s with
  | .next t => p t
  | _ => false

/-- The state that a command answers. -/
def after (i : Instr) (s : State) : State :=
  match exec i s with
  | .next t => t
  | _ => s

/-- The state after a check that passes, or the given one. -/
def okState {α : Type} (r : EStateM.Result Stop State α) (s : State) : State :=
  match r with
  | .ok _ t => t
  | .error _ _ => s

/-- Whether a check passes. -/
def isOk {α : Type} (r : EStateM.Result Stop State α) : Bool :=
  match r with
  | .ok _ _ => true
  | .error _ _ => false

theorem ok_unit {r : EStateM.Result Stop State Unit} {s : State} (h : isOk r = true) :
    r = .ok () (okState r s) := by
  unfold isOk at h
  split at h
  · rfl
  · exact nomatch h

theorem ok_val {α : Type} [DecidableEq α] {r : EStateM.Result Stop State α} {s : State} {a : α}
    (h : (match r with | .ok b _ => decide (b = a) | .error _ _ => false) = true) :
    r = .ok a (okState r s) := by
  split at h
  · rw [of_decide_eq_true h]; rfl
  · exact nomatch h

theorem ok_some {α : Type} {r : EStateM.Result Stop State α} {s : State} (h : isOk r = true) :
    ∃ a, r = .ok a (okState r s) := by
  unfold isOk at h
  split at h
  · exact ⟨_, rfl⟩
  · exact nomatch h

/-- A machine whose DRAM is initialised and whose core 0 runs at address 0, with three registers. -/
def base (x y z : Word) : State :=
  let s := fput State.reset F.memqMode_INIT 0 1
  let s := setCore s 0 { Core.reset with run := .run }
  setG (setG (setG s 0 1 x) 0 2 y) 0 3 z

/-- Core 0 executes an instruction of `len` bytes at level `lvl` in `s`. -/
abbrev CanRun (s : State) (len lvl : Nat) : Prop :=
  (coreOf s 0).active = true ∧ (coreOf s 0).wait = none ∧ fenced s 0 = false ∧ lvl ≤ plOf s 0 ∧
    pendingVecs s 0 = [] ∧ isOk (fetchCheck 0 len (fresh s 0)) = true

theorem CanRun.runs {s : State} {len lvl : Nat} (h : CanRun s len lvl) :
    Runs s 0 len lvl (okState (fetchCheck 0 len (fresh s 0)) s) :=
  ⟨h.1, h.2.1, h.2.2.1, acceptInt_quiet h.2.2.2.2.1, h.2.2.2.1, ok_unit h.2.2.2.2.2⟩

/-- The state in which an instruction of `len` bytes of core 0 works. -/
def ustate (s : State) (len : Nat) : State := okState (fetchCheck 0 len (fresh s 0)) s

/-- The bytes that the newest buffered store holds, at their address. -/
def newest (t : State) : Option (Nat × List Byte) :=
  ((coreOf t 0).sb.getLast?).map (fun e => (e.pa, e.bytes))

/-- Every channel of DRAM is in service, whole and with no bad bit. -/
abbrev Sound (s : State) : Prop := s.deadCh = [] ∧ s.degraded = [] ∧ s.twin = [] ∧ s.bad = []

theorem home_ready (s : State) (c : CoreNo) (l : Nat) (h : 64 * l + 64 ≤ visTop s ∧
    lineOpen s l = true ∧ s.homeQ = [] ∧ s.homeDone = [] ∧ (lrec s l).partners = [] ∧
    (lrec s l).powner = none ∧ (lrec s l).hold = false ∧ Sound s) : HomeReady s c l := by
  obtain ⟨a, b, d, e, f, g, i, j⟩ := h
  exact ⟨a, b, by simp [d], e, f, g, by simp [i], by simp [onChan, j.1], j.2.1, j.2.2.1, j.2.2.2⟩

/-- The fields of a list are given values. -/
def sets (s : State) (l : List (FRef × Nat × Nat)) : State :=
  l.foldl (fun t e => fput t e.1 e.2.1 e.2.2) s

/-- A message from a node, with every optional field zero. -/
def mk (src op : Nat) : Msg :=
  { src := BitVec.ofNat 16 src, dst := 1, sepoch := 0, cls := 0, vc := true, flow := 0,
    op := BitVec.ofNat 6 op, spec := false, pois := false, tag := 0, stat := 0, first := false,
    stream := 0, sseq := 0, addr := 0, sub := 0, data := [], port := 0 }

/-- Node 1, with memory at line 4, that holds window 0 (node 2 may read) over its first page, and
reach 0 to node 3. -/
def fabS : State :=
  sets { base 0 0 0 with mem := [(0x100, 7), (0x107, 1)] }
    [(F.nodeSelf_ID, 0, 1), (F.winA_V, 0, 1), (F.winA_R, 0, 1), (F.winA_LOG2, 0, 12), (F.winB_SRC, 0, 2),
     (F.reachA_V, 0, 1), (F.reachA_LOG2, 0, 21), (F.reachB_NODE, 0, 3), (F.reachC_COH, 0, 1)]

/-- Bytes at an address as memory cells. -/
def cellsAt (a : Nat) (bs : List Byte) : List Host.Cell :=
  ((upto bs.length).map (fun i => (a + i, bs.getD i 0))).filter (fun c => c.2 ≠ 0)

/-- Node 1 with port 0 and port 16, both x16 and UP with a credit of each pool, and node 3 behind port
16. -/
def linkS : State :=
  let k : Link := { Link.reset with credits := (upto 16).map (fun i => (i, 1)) }
  let s := sets (base 0 0 0) [(F.nodeSelf_ID, 0, 1), (F.fabGcfg_W, 0, 5), (F.fabGcfg_W, 1, 5),
    (F.fabPstat_ST, 0, 3), (F.fabPstat_AW, 0, 5), (F.fabPstat_ST, 16, 3), (F.fabPstat_AW, 16, 5),
    (F.nodeEnt_PRI, 3, 16), (F.nodeEnt_PV, 3, 1), (F.nodeEnt_LIVE, 3, 1)]
  setLink (setLink s 0 k) 16 k

/-- `linkS` while commands run and the rack key is held, with fields set. -/
def keyed : Keep := { Keep.blank with key := some (natLe 5 32) }
def cmdS (l : List (FRef × Nat × Nat)) : State :=
  { sets (fput linkS F.svcKey_HELD 0 1) l with dev := { Dev.reset with service := true }, keep := keyed }
/-- A request of the mailbox with parameters of the given widths. -/
def req (ps : List (Nat × Nat)) : Command := ⟨.mailbox, 7, 9, ps.flatMap (fun x => natLe x.1 x.2)⟩
/-- The status of the newest reply held for the mailbox, and its parameters. -/
def st (t : State) : Option Nat := t.svc.rspHeld.getLast?.map (fun r => fieldAt r 26 2)
def par (t : State) (o n : Nat) : Option Nat := t.svc.rspHeld.getLast?.map (fun r => fieldAt r (48 + o) n)

theorem dev_ready (s : State) (l : Nat) (h : (64 * l + 64 ≤ visTop s ∧
    lineOpen s l = true ∧ s.homeQ = [] ∧ s.homeDone = [] ∧ (lrec s l).partners = [] ∧
    (lrec s l).powner = none ∧ (lrec s l).hold = false ∧ Sound s) ∧ poisonOf s l = none) :
    DevReady s l := ⟨home_ready s 0 l h.1, h.1.2.2.2.2.2.2.1, h.2⟩

/-- Commands run in a state, and request `req` of any parameters is a new one. -/
theorem served (s : State) (h : serving s = true ∧ s.svc.main = [] ∧ s.svc.flash = [] ∧
    moving s = false ∧ (s.dev.off = false ∧ s.dev.ps1 = false) ∧ (rackKey s).isSome = true ∧
    fget s F.svcCstat_HSEQ 0 < 9 ∧ s.svc.cache = []) (ps : List (Nat × Nat))
    (n : (req ps).params.length ≤ 192) : Serves s (req ps) := by
  obtain ⟨a, b, c, d, ⟨e, f⟩, g, i, j⟩ := h
  exact ⟨a, b, c, d, ⟨e, fun x => nomatch f.symm.trans x⟩, g, n, i, by simp [j]⟩

theorem can_run : CanRun (base 5 3 2) 8 3 ∧ CanRun (base 5 3 2) 4 3 := by decide +kernel

/-! The queue, reset, and running. -/

theorem witness_StepRunsFront :
    { State.reset with pending := [.idcode, .ps1] }.pending = .idcode :: [.ps1] ∧
    goesOn (step { State.reset with pending := [.idcode, .ps1] }) := ⟨rfl, _, rfl⟩

theorem witness_EmptyQueueTicks : State.reset.pending = [] ∧
    (after .pwrGoodFall State.reset).dev.off = true ∧
    (after .pwrGoodFall State.reset).pending = [] := by decide +kernel

theorem witness_StepKeepsMemOk : State.reset.memOk ∧ goesOn (step State.reset) :=
  ⟨by decide, _, rfl⟩

theorem witness_ResetValues : Reg.tbSync ≠ .coreId ∧ Reg.tbSync ≠ .lcState ∧ Reg.tbSync ≠ .cmtCfg ∧
    (Reg.tbSync.fields.any (fun f => decide (f.cold = .val 255))) = true := by decide +kernel

theorem witness_PlainFetchRuns :
    Plain (setLrec (base 5 3 2) 0 { LineRec.none with present := [0] }) 0 8 3 := by
  constructor <;> decide +kernel

/-! Well-formedness: each check refuses an ill-formed term, which then raises ILLEGAL_INSTR. -/

theorem test_ill_formed : [Instr.ld16 0 3 (.disp 1 0), .st16 0 5 (.disp 1 0), .bc 0 0 12 (.short 0),
    .csel 0 1 2 3 0 14, .movi 0 1 (.long 2 0), .cmpM 0 8 1 (.short 2 0), .fcmp 0 .b 0 1 2,
    .fcmp 0 .w 8 1 2, .vand 0 .h 1 2 3, .vor 0 .w 1 2 3, .vxor 0 .d 1 2 3, .fadd 0 true .b 1 2 3,
    .fsub 0 true .b 1 2 3, .fmul 0 true .b 1 2 3, .fdiv 0 true .b 1 2 3, .fma 0 true .b 1 2 3,
    .fmin 0 true .b 1 2 3, .fmax 0 true .b 1 2 3, .fsqrt 0 true .b 1 2, .cvtFpSigned 0 .b 1 2,
    .cvtSignedFp 0 .b 1 2, .cvtFpUnsigned 0 .b 1 2, .cvtFpFp 0 .b .w 1 2,
    .cvtFpFp 0 .w .b 1 2].all (fun i => !i.wellFormed) = true := by decide

theorem test_well_formed : [Instr.ld16 0 2 (.disp 1 0), .bc 0 0 15 (.short 0), .csel 0 1 2 3 0 11,
    .movi 0 1 (.long 1 0), .cmpM 0 7 1 (.short 2 0), .fcmp 0 .w 7 1 2, .vand 0 .b 1 2 3,
    .fadd 0 true .h 1 2 3, .cvtFpFp 0 .w .d 1 2].all Instr.wellFormed = true := by decide

theorem test_no_word : decodeTableWord 32 0 = none := rfl

/-! Integer instructions. -/

/-- Rows with the value of g4 that they leave. -/
def leaves (s : State) (rows : List (Instr × Word)) : Bool :=
  rows.all (fun r => runs r.1 s (fun t => decide (getG t 0 4 = r.2) &&
    decide (getPc t 0 = 4 ∨ getPc t 0 = 8) && decide (getG t 0 1 = getG s 0 1)))

theorem test_alu : leaves (base 0xFFFFFFFFFFFFFFFE 3 0x8000000000000000)
    [(.add 0 4 1 2, 1), (.sub 0 4 2 1, 5), (.and 0 4 1 2, 2), (.or 0 4 1 2, 0xFFFFFFFFFFFFFFFF),
     (.xor 0 4 1 2, 0xFFFFFFFFFFFFFFFD), (.andn 0 4 2 1, 1), (.shl 0 4 2 2, 24),
     (.shr 0 4 1 2, 0x1FFFFFFFFFFFFFFF), (.sar 0 4 3 2, 0xF000000000000000),
     (.ror 0 4 2 2, 0x6000000000000000), (.mul 0 4 1 2, 0xFFFFFFFFFFFFFFFA),
     (.mulh 0 4 1 2, 0xFFFFFFFFFFFFFFFF), (.mulhu 0 4 1 2, 2), (.min 0 4 1 2, 0xFFFFFFFFFFFFFFFE),
     (.max 0 4 1 2, 3), (.minu 0 4 1 2, 3), (.maxu 0 4 1 2, 0xFFFFFFFFFFFFFFFE), (.clz 0 4 2, 62),
     (.ctz 0 4 3, 63), (.popc 0 4 1, 63), (.sext 0 .b 4 1, 0xFFFFFFFFFFFFFFFE),
     (.bswap 0 4 2, 0x0300000000000000)] = true := by decide +kernel

theorem test_divide : leaves (base 0x8000000000000000 0xFFFFFFFFFFFFFFFF 0)
    [(.div 0 4 1 2, 0x8000000000000000), (.rem 0 4 1 2, 0), (.div 0 4 1 3, 0),
     (.divu 0 4 1 3, 0), (.rem 0 4 1 3, 0x8000000000000000), (.remu 0 4 1 3, 0x8000000000000000),
     (.divu 0 4 2 1, 1), (.remu 0 4 2 1, 0x7FFFFFFFFFFFFFFF)] = true := by decide +kernel

theorem test_immediates : leaves (base 7 0x0C04 0)
    [(.addi 0 4 1 (.short 0x7FFF), 6), (.andi 0 4 1 (.short 5), 5),
     (.ori 0 4 1 (.long 0xFFFFFFFF), 0xFFFFFFFF), (.xori 0 4 1 (.short 1), 6),
     (.shi 0 4 1 .ror 1, 0x8000000000000003), (.muli 0 4 1 (.short 0x7FFF), 0xFFFFFFFFFFFFFFF9),
     (.movi 0 4 (.short 0x4000), 0xFFFFFFFFFFFFC000), (.movi 0 4 (.long 1 5), 0x500000000),
     (.extu 0 4 2 1, 0), (.csel 0 4 1 2 0 0, 0x0C04), (.csel 0 4 1 2 0 1, 7),
     (.rdtb 0 4, 0), (.rdpkr 0 4, 0)] = true := by decide +kernel

/-- EXTS and INS of the field that starts at bit 4 and is 8 bits wide. -/
theorem test_fields : leaves (base 0xFF0 0x704 0)
    [(.exts 0 4 1 2, 0xFFFFFFFFFFFFFFFF), (.extu 0 4 1 2, 0xFF), (.ins 0 4 1 2, 0xF00)] = true := by
  decide +kernel

theorem witness_IntegerResults : ∃ u, WritesG u (.add 0 31 1 2) 0 4 31 (getG u 0 1 + getG u 0 2) ∧
    Runs (base 5 3 2) 0 4 0 u := ⟨_, .add .., (show CanRun _ 4 0 by decide +kernel).runs⟩

theorem witness_DivisionResults : ∃ s u, Runs s 0 4 0 u ∧
    s = base 0x8000000000000000 0xFFFFFFFFFFFFFFFF 0 ∧
    getG u 0 1 = BitVec.intMin 64 ∧ getG u 0 2 = -1 ∧ getG u 0 3 = 0 :=
  ⟨_, _, (show CanRun (base 0x8000000000000000 0xFFFFFFFFFFFFFFFF 0) 4 0 by decide +kernel).runs,
    rfl, by decide +kernel, by decide +kernel, by decide +kernel⟩

/-- The flags of condition register 0 that rows leave: Z 1, N 2, B 4, U 8. -/
def flagsOf (s : State) (rows : List (Instr × Nat)) : Bool :=
  rows.all (fun r => runs r.1 s (fun t => decide (getC t 0 0 = r.2)))

theorem test_compare : mkFlags true true true true = 15 ∧ flagsOf (base 0xFFFFFFFF00000003 3 0)
    [(.cmp 0 0 1 2, mkFlags false true false false), (.cmpW 0 0 1 2, mkFlags true false false false),
     (.tst 0 0 1 3, mkFlags true false false false),
     (.cmpi 0 0 2 (.short 0x7FFF), mkFlags false false true false),
     (.cmpui 0 0 2 (.short 4), mkFlags false true true false)] = true := by decide +kernel

theorem witness_CompareResults : ∃ u v, WritesC u (.cmp 0 7 1 2) 0 4 7 v ∧
    Runs (base 5 3 2) 0 4 0 u := ⟨_, _, .cmp .., (show CanRun _ 4 0 by decide +kernel).runs⟩

theorem witness_ConditionCodes : 12 ≤ (12 : BitVec 4).toNat ∧ (14 : BitVec 4).toNat ≤ 14 ∧
    CanRun (base 5 3 2) (bLen (.long 0)) 0 ∧ CanRun (base 5 3 2) 4 0 := by decide +kernel

theorem witness_BitOperations : ((0x3F3F : Word).extractLsb' 0 6).toNat = 63 ∧
    Min.min (((0x3F3F : Word).extractLsb' 8 6).toNat + 1) (64 - 63) = 1 := by decide

theorem witness_BranchTargets : condOk 15 = true ∧ CanRun (base 6 4 0) (bLen (.long 1)) 0 ∧
    CanRun (base 6 4 0) (jLen (.short 1)) 0 ∧
    (getG (okState (fetchCheck 0 4 (fresh (base 6 4 0) 0)) (base 6 4 0)) 0 2).toNat % 4 = 0 ∧
    (getG (okState (fetchCheck 0 4 (fresh (base 6 4 0) 0)) (base 6 4 0)) 0 1).toNat % 4 ≠ 0 ∧
    (coreOf (okState (fetchCheck 0 4 (fresh (base 6 4 0) 0)) (base 6 4 0)) 0).run = .run := by
  decide +kernel

/-- Branch displacements count words from the branch itself (R46, R69). -/
theorem test_branches : runs (.bc 0 0 15 (.short 3)) (base 0 0 0) (fun t => getPc t 0 = 12) = true ∧
    runs (.bc 0 0 0 (.short 3)) (base 0 0 0) (fun t => getPc t 0 = 4) = true ∧
    runs (.jmp 0 (.short 0x1FFFFFF)) (setPc (base 0 0 0) 0 8) (fun t => getPc t 0 = 4) = true ∧
    runs (.jmpr 0 2) (base 0 64 0) (fun t => getPc t 0 = 64) = true := by decide +kernel

/-! Memory instructions. -/

/-- A machine with six bytes of memory at 0x100, whose core 0 has g1 = 0x100, g2 = 0x200 and
sp = 0x1000. -/
def memS : State :=
  setG { base 0x100 0x200 9 with mem := [(0x100, 0x88), (0x101, 0xFF), (0x108, 1), (0x10F, 0x80),
    (0xFF8, 0x40), (0x1000, 0x80)] } 0 31 0x1000

theorem test_loads : leaves memS
    [(.ldB 0 4 (.disp 1 0), 0x88), (.ldBs 0 4 (.disp 1 0), 0xFFFFFFFFFFFFFF88),
     (.ldH 0 4 (.disp 1 0), 0xFF88), (.ldHs 0 4 (.disp 1 0), 0xFFFFFFFFFFFFFF88),
     (.ldW 0 4 (.disp 1 12), 0x80000000), (.ldWs 0 4 (.dispX 1 12), 0xFFFFFFFF80000000),
     (.ldD 0 4 (.disp 2 0x1F08), 0x8000000000000001), (.ld16 0 4 (.disp 1 0), 0xFF88),
     (.lda 0 4 (.disp 1 8), 0x8000000000000001), (.addM 0 4 2 (.short 1 0), 0x10188),
     (.subM 0 4 2 (.short 1 0), 0xFFFFFFFFFFFF0278), (.andM 0 4 2 (.short 1 0), 0x200),
     (.orM 0 4 2 (.long 1 0), 0xFF88), (.xorM 0 4 2 (.short 1 0), 0xFD88),
     (.mulM 0 4 2 (.short 1 0), 0x1FF1000)] = true := by decide +kernel

theorem test_load_others : runs (.ld16 0 4 (.disp 1 0)) memS
      (fun t => decide (getG t 0 5 = 0x8000000000000001)) = true ∧
    runs (.cmpM 0 3 2 (.short 1 0)) memS (fun t => decide (getC t 0 3 = 6)) = true ∧
    runs (.vldl 0 .h 4 1) memS (fun t => decide (getV t 0 4 = 0xFF88)) = true ∧
    runs (.vld 0 4 (.disp 1 0)) memS
      (fun t => decide ((getV t 0 4).toNat = 0xFF88 + 2 ^ 64 + 2 ^ 127)) = true ∧
    runs (.lda 0 4 (.disp 1 4)) memS (fun t => decide ((coreOf t 0).pc = 4)) = false := by
  decide +kernel

theorem test_stores :
    [(Instr.stB 0 2 (.disp 1 1), (0x101, [0x00#8])), (.stH 0 2 (.disp 1 1), (0x101, [0x00, 0x02])),
     (.stW 0 2 (.disp 1 0), (0x100, [0, 2, 0, 0])),
     (.stD 0 2 (.disp 1 8), (0x108, [0, 2, 0, 0, 0, 0, 0, 0])),
     (.st16 0 2 (.disp 1 0), (0x100, [0, 2, 0, 0, 0, 0, 0, 0, 9, 0, 0, 0, 0, 0, 0, 0])),
     (.stl 0 3 (.disp 1 0), (0x100, [9, 0, 0, 0, 0, 0, 0, 0])),
     (.vstl 0 .b 0 1, (0x100, [0]))].all
      (fun r => runs r.1 memS (fun t => decide (newest t = some r.2))) = true ∧
    runs (.stnt 0 3 (.disp 1 0)) memS
      (fun t => decide ((coreOf t 0).cb.map (fun b => (b.line, b.mask)) = [(4, 0xFF#64)])) = true ∧
    runs (.vst 0 1 1) memS (fun t => decide (newest t = some (0x100, List.replicate 32 0))) = true := by
  decide +kernel

/-- `memS` with line 4 held by core 0, and with one older store in its buffer. -/
def heldS : State :=
  { memS with lines := [(4, { LineRec.none with present := [0], owner := some 0 })] }
def storeS : State := modCore heldS 0 (fun k => { k with
  sb := [{ pa := 0x13C, bytes := [1, 2, 3, 4], mt := .cached, va := 0x13C, tag := none,
           fence := false, rel := false }] })

theorem witness_Loads : CanRun memS 4 0 ∧ CanRun memS 8 0 ∧
    isOk (loadData 0 0x10F 1 (past memS (ustate memS 4) 0 4)) = true ∧
    isOk (loadData 0 0x108 8 (past memS (ustate memS 8) 0 8)) = true ∧
    (0x108 : Word).toNat % 8 = 0 ∧ (0x104 : Word).toNat % 8 ≠ 0 := by decide +kernel

theorem witness_PlainLoad : PhysLine heldS 0 0x138 8 ∧ 0 ∈ (lrec heldS (0x138 / 64)).present ∧
    poisonOf heldS (0x138 / 64) = none ∧
    (∀ e ∈ (coreOf storeS 0).sb, e.pa + e.bytes.length ≤ 0x108 ∨ 0x108 + 8 ≤ e.pa) ∧
    (∀ b ∈ (coreOf heldS 0).cb, b.line ≠ 0x138 / 64) ∧
    postedCoh heldS 0 (fun _ => true) = false :=
  ⟨⟨by decide +kernel, by decide, by decide, by decide +kernel⟩, by decide +kernel⟩

theorem witness_Stores : CanRun memS 4 0 ∧
    isOk (storeData 0 0x13F [1] false false (past memS (ustate memS 4) 0 4)) = true ∧
    isOk (storeData 0 0x138 (natLe 5 8) true false (past memS (ustate memS 4) 0 4)) = true ∧
    (0x138 : Word).toNat % (natLe 5 8).length = 0 ∧
    (0x13C : Word).toNat % (natLe 5 8).length ≠ 0 := by decide +kernel

theorem witness_PlainStore : PhysLine memS 0 0x13C [1#8, 2, 3, 4].length ∧
    (coreOf memS 0).cb = [] ∧ (coreOf memS 0).sb = [] ∧ PhysLine memS 0 0x138 8 ∧
    (coreOf memS 0).sb.length < 96 :=
  ⟨⟨by decide +kernel, by decide, by decide, by decide +kernel⟩, by decide +kernel,
    by decide +kernel, ⟨by decide +kernel, by decide, by decide, by decide +kernel⟩, by decide +kernel⟩

theorem witness_StorePerformed : ∃ e, (coreOf storeS 0).sb = [e] ∧ e.mt = .cached ∧
    0 < e.bytes.length ∧ e.pa % 64 + e.bytes.length ≤ 64 ∧ e.pa + e.bytes.length ≤ visTop storeS ∧
    (lrec storeS (e.pa / 64)).owner = some (0 : CoreNo).val ∧
    postedCoh storeS 0 (fun _ => true) = false :=
  ⟨_, rfl, by decide +kernel, by decide +kernel, by decide +kernel, by decide +kernel, by decide +kernel,
    by decide +kernel⟩

/-- Performing the oldest store puts its four bytes into memory's current value. -/
theorem test_store_performed : curByte (okState (performHead 0 storeS) storeS) 0x13D = 2 ∧
    (coreOf (okState (performHead 0 storeS) storeS) 0).sb = [] := by decide +kernel

/-! Calls and returns. -/

/-- `memS` with a return stack of one entry, that of the address stored at sp. -/
def retS : State := setHrsAt (fput memS F.hrsctl_DEPTH 0 1) 0 0 0x80

theorem test_calls : runs (.call 0 (.short 4)) memS (fun t => decide (getPc t 0 = 16 ∧
      getG t 0 31 = 0xFF8 ∧ hrsDepth t 0 = 1 ∧ hrsAt t 0 0 = 4 ∧
      newest t = some (0xFF8, natLe 4 8))) = true ∧
    runs (.callr 0 2) memS (fun t => decide (getPc t 0 = 0x200 ∧ hrsAt t 0 0 = 4)) = true ∧
    runs (.ret 0) retS (fun t => decide (getPc t 0 = 0x80 ∧ getG t 0 31 = 0x1008 ∧
      hrsDepth t 0 = 0)) = true := by decide +kernel

theorem witness_ReturnStackPush : hrsDepth memS 0 < 32 ∧ hrsDepth (fput memS F.hrsctl_DEPTH 0 31) 0 = 31 ∧
    hrsDepth (fput memS F.hrsctl_DEPTH 0 32) 0 = 32 := by decide +kernel

theorem witness_Calls : ∃ ps, CanRun memS 4 0 ∧ getG (ustate memS 4) 0 spReg - 8 = 0xFF8 ∧
    transl 0 0xFF8 8 3 false .store (past memS (ustate memS 4) 0 4) =
      .ok ps (okState (transl 0 0xFF8 8 3 false .store (past memS (ustate memS 4) 0 4)) memS) ∧
    isOk (bufferPieces 0 3 false false (natLe 4 8) [⟨0xFF8, 0xFF8, 8, .cached, none⟩]
      (past memS (ustate memS 4) 0 4)) = true ∧
    hrsDepth (fput (fput memS F.hrsctl_DEPTH 0 32) F.hrsctl_OVF 0 1) 0 = 32 ∧
    fbit (fput memS F.hrsctl_OVF 0 1) F.hrsctl_OVF 0 = true := by
  obtain ⟨ps, h⟩ := ok_some (s := memS)
    (show isOk (transl 0 0xFF8 8 3 false .store (past memS (ustate memS 4) 0 4)) = true by
      decide +kernel)
  exact ⟨ps, by decide +kernel, by decide +kernel, h, by decide +kernel, by decide +kernel,
    by decide +kernel⟩

theorem witness_Returns : CanRun retS 4 0 ∧
    isOk (loadData 0 0x1000 8 (past retS (ustate retS 4) 0 4)) = true ∧
    hrsDepth retS 0 ≠ 0 ∧ fbit retS F.hrsctl_SKIP 0 = false ∧ hrsAt retS 0 0 = 0x80 ∧
    hrsDepth memS 0 = 0 ∧ fbit (fput memS F.hrsctl_SKIP 0 1) F.hrsctl_SKIP 0 = true ∧
    fbit (fput memS F.hrsctl_UNF 0 1) F.hrsctl_UNF 0 = true ∧
    hrsDepth (fput memS F.hrsctl_DEPTH 0 32) 0 = 32 := by decide +kernel

/-! Vector and floating-point instructions. -/

/-- A core with v1 and v2 set. -/
def vecS (x y : Vec) : State := setV (setV (base 5 3 2) 0 1 x) 0 2 y

/-- Rows with the value of v4 that they leave. -/
def vleaves (s : State) (rows : List (Instr × Vec)) : Bool :=
  rows.all (fun r => runs r.1 s (fun t => decide (getV t 0 4 = r.2)))

theorem test_vector : vleaves (vecS 0xFF03 0x0102)
    [(.vadd 0 .b 4 1 2, 0x0005), (.vadd 0 .h 4 1 2, 0x0005), (.vsub 0 .b 4 1 2, 0xFE01),
     (.vmul 0 .h 4 1 2, 0x0106), (.vand 0 .b 4 1 2, 0x0102), (.vor 0 .b 4 1 2, 0xFF03),
     (.vxor 0 .b 4 1 2, 0xFE01), (.vshl 0 .b 4 1 2, 0xFE0C), (.vshr 0 .b 4 1 2, 0x7F00),
     (.vsar 0 .b 4 1 2, 0xFF00), (.vmin 0 .b 4 1 2, 0xFF02), (.vmax 0 .b 4 1 2, 0x0103),
     (.vminu 0 .b 4 1 2, 0x0102), (.vmaxu 0 .b 4 1 2, 0xFF03)] = true := by decide +kernel

theorem test_lanes : runs (.vext 0 .b 4 1 1) (vecS 0xFF03 0) (fun t => decide (getG t 0 4 = 0xFF)) ∧
    runs (.vins 0 .b 4 1 1) (vecS 0 0) (fun t => decide (getV t 0 4 = 0x0500)) ∧
    runs (.vbcast 0 .d 4 1) (vecS 0 0) (fun t => decide ((getV t 0 4).extractLsb' 192 64 = 5)) := by
  decide +kernel

/-- 1.5 and 2.0 in binary32, and −3.0. -/
theorem test_float : vleaves (vecS 0x3FC00000 0x40000000)
    [(.fadd 0 true .w 4 1 2, 0x40600000), (.fsub 0 true .w 4 1 2, 0xBF000000),
     (.fmul 0 true .w 4 1 2, 0x40400000), (.fdiv 0 true .w 4 1 2, 0x3F400000),
     (.fsqrt 0 true .w 4 2, 0x3FB504F3), (.fma 0 true .w 4 1 2, 0x40400000),
     (.fmin 0 true .w 4 1 2, 0x3FC00000), (.fmax 0 true .w 4 1 2, 0x40000000),
     (.cvtFpFp 0 .d .w 4 2, 0x4000000000000000), (.cvtFpSigned 0 .w 4 2, 2),
     (.cvtFpUnsigned 0 .w 4 2, 2)] = true ∧
    vleaves (vecS 3 0) [(.cvtSignedFp 0 .w 4 1, 0x40400000)] = true ∧
    runs (.fcmp 0 .w 3 1 2) (vecS 0x3FC00000 0x40000000)
      (fun t => decide (getC t 0 3 = 2)) = true := by decide +kernel

theorem witness_VectorOperations : ∃ f, VecRow (.vadd 0 .d 4 1 2) 0 .d 4 1 2 f ∧
    Runs (vecS 1 2) 0 4 0 (ustate (vecS 1 2) 4) ∧ 31 < 256 / Lane.b.bits ∧ ¬31 < 256 / Lane.h.bits :=
  ⟨_, .vadd .., (show CanRun (vecS 1 2) 4 0 by decide +kernel).runs, by decide, by decide⟩

/-- A division by zero raises a flag, which is enabled in the second state. -/
theorem witness_FloatResults : ∃ f, FpRow (vecS 0x3FC00000 0) (.fdiv 0 true .w 4 1 2) 0 true .w 4 f ∧
    CanRun (vecS 0x3FC00000 0) 4 0 ∧
    lanesFlags f 1 &&& fget (vecS 0x3FC00000 0) F.fpcs_TEN 0 = 0 ∧
    lanesFlags f 1 &&& fget (fput (vecS 0x3FC00000 0) F.fpcs_TEN 0 31) F.fpcs_TEN 0 ≠ 0 ∧
    CanRun (fput (vecS 0x3FC00000 0) F.fpcs_TEN 0 31) 4 0 :=
  ⟨_, .fdiv _ _ _ _ _ _ (by decide), by decide +kernel⟩

theorem witness_FloatConversions : Lane.w ≠ .b ∧ (7 : VReg).val < 8 ∧
    (unpackF (fmtOf 32) (fpCtl (base 0 0 0) 0) 0x7FC00000).isNan = true ∧
    unpackF (fmtOf 32) (fpCtl (base 0 0 0) 0) 0x7F800000 = .inf false ∧
    unpackF (fmtOf 32) (fpCtl (base 0 0 0) 0) 0xFF800000 = .inf true ∧
    (fpCtl (base 0 0 0) 0).fz = false ∧ 0x00800001 % 2 ^ (Lane.w.bits - 1) ≠ 0 ∧
    bitsOf 0x00800001 ((fmtOf 32).eb + (fmtOf 32).mb - 1) (fmtOf 32).mb ≠
      2 ^ (fmtOf 32).eb - 1 := by decide +kernel

/-! Block instructions, atomics, barriers and maintenance. -/

/-- Two lines of memory; core 0 has g1 = 0x100, g2 = 0x180 and g3 = `n`. -/
def blkS (n : Word) : State :=
  { base 0x100 0x180 n with mem := [(0x100, 7), (0x101, 8), (0x102, 9), (0x180, 7), (0x181, 8),
    (0x182, 5)] }

theorem test_block : runs (.bcmp 0) (blkS 4) (fun t => decide (getG t 0 1 = 0x102 ∧
      getG t 0 2 = 0x182 ∧ getG t 0 3 = 0 ∧ getC t 0 0 = 0)) = true ∧
    runs (.bscn 0) (setG (blkS 4) 0 2 9) (fun t => decide (getG t 0 1 = 0x102 ∧
      getC t 0 0 = 1)) = true ∧
    runs (.bset 0) (blkS 2) (fun t => decide (getG t 0 1 = 0x102 ∧ getG t 0 2 = 0x180 ∧
      newest t = some (0x100, [0x80, 0x01]))) = true ∧
    runs (.bcpy 0) (blkS 3) (fun t => decide (getG t 0 1 = 0x103 ∧ getG t 0 2 = 0x183 ∧
      newest t = some (0x100, [7, 8, 5]))) = true := by decide +kernel

theorem witness_BlockOperations : BlockRow (blkS 0) (.bcpy 0) 0 true (endCopy 0 (getPc (blkS 0) 0)) ∧
    (getG (ustate (blkS 0) 4) 0 3 = 0 ∧ CanRun (blkS 0) 4 0) ∧
    ((getG (ustate (blkS 64) 4) 0 3).toNat = 64 ∧ (0x100 : Word).toNat % 64 + 64 ≤ 64) ∧
    isOk (storeElem 0 0x100 [1] (inBlock (ustate (blkS 1) 4) 0)) = true ∧
    isOk (loadData 0 0x180 64 (inBlock (ustate (blkS 64) 4) 0)) = true ∧
    undefCopy (past (blkS 64) (ustate (blkS 64) 4) 0 4) 0 0 = false ∧ 64 - (0x100 : Word).toNat % 64 < 65 :=
  ⟨.bcpy 0, by decide +kernel⟩

/-- A pending vector 0xF5 that is eligible, but that waits for what the core has issued. -/
def pendS : State :=
  modCore (setPend { fput (fput (fput (blkS 65) F.pstate_PL 0 0) F.pstate_ML 0 0) F.vdtb_BASE 0 1 with
      mem := [(0x3EA1, 0x40), (0x3EA8, 0x15), (0x3EA9, 0xB9)] } 0 0xF5 true) 0 (fun k => { k with must := true })

/-- A core whose g1 and g2 lie at no address of DRAM, and one that compares two bytes of line 5 and two
of line 6 with those at 0x100. -/
def badS : State := base (BitVec.ofNat 64 (2 ^ 56)) 0 4
def splitS (x : Byte) : State :=
  { base 0x100 0x17E 4 with mem := cellsAt 0x100 [1, 2, 3, 4] ++ cellsAt 0x17E [1, 2, 3, x] }

theorem test_block_stops : runs (.bscn 0) badS (fun t => decide (getG t 0 1 = BitVec.ofNat 64 (2 ^ 56) ∧
      getG t 0 3 = 4 ∧ getPc t 0 = 0)) = true ∧
    runs (.bscn 0) (setG pendS 0 2 9) (fun t => decide (getG t 0 1 = 0x140 ∧ getG t 0 3 = 1 ∧
      (coreOf t 0).wait = some (.bscn 0))) = true ∧
    runs (.bcmp 0) (splitS 4) (fun t => decide (getG t 0 3 = 0 ∧ getC t 0 0 = 1)) = true ∧
    runs (.bcmp 0) (splitS 5) (fun t => decide (getG t 0 1 = 0x103 ∧ getC t 0 0 = 6)) = true := by
  decide +kernel

theorem witness_BlockStops : CanRun badS 4 0 ∧ (getG (ustate badS 4) 0 3).toNat = 4 ∧
    (match loadData 0 (getG badS 0 1) 4 (inBlock (ustate badS 4) 0) with
      | .error (.exc _) _ => true | _ => false) = true ∧
    (match acceptInt 0 pendS with | .ok b t => decide (b = false ∧ t = pendS) | _ => false) = true ∧
    isOk (fetchCheck 0 4 (fresh pendS 0)) = true ∧ 64 - (0x100 : Word).toNat % 64 < 65 ∧
    (match loadData 0 0x100 64 (inBlock (ustate pendS 4) 0) with
      | .ok xs w =>
        (match eligible 0 (elemDone (advance w 0 false 64) 0) with
          | .ok v _ => decide (v = some 0xF5 ∧ xs.length = 64) | _ => false)
      | _ => false) = true := by decide +kernel

theorem witness_BlockElement : CanRun (splitS 4) 4 0 ∧ getG (ustate (splitS 4) 4) 0 2 = 0x17E ∧
    (getG (ustate (splitS 4) 4) 0 3).toNat = 4 ∧ Min.min 4 (64 - (0x17E : Word).toNat % 64) = 2 ∧
    (match loadData 0 0x100 4 (inBlock (ustate (splitS 4) 4) 0) with
      | .ok xs w =>
        (match loadData 0 0x17E 2 w with
          | .ok ys y =>
            (match loadData 0 (0x17E + BitVec.ofNat 64 2) 2 y with
              | .ok zs _ => decide (xs.take 2 = ys ∧ xs.drop 2 = zs) | _ => false)
          | _ => false)
      | _ => false) = true := by decide +kernel

theorem test_atomics : runs (.aadd 0 4 1 2 true true) (blkS 0) (fun t => decide (
      getG t 0 4 = 0x090807 ∧ curByte t 0x100 = 0x87 ∧ curByte t 0x101 = 0x09)) = true ∧
    runs (.aswp 0 4 1 3 false false) (blkS 5) (fun t => decide (
      getG t 0 4 = 0x090807 ∧ curByte t 0x100 = 5 ∧ curByte t 0x102 = 0)) = true ∧
    runs (.acas 0 4 1 3 false true) (setG (blkS 5) 0 4 0x090807) (fun t => decide (
      getG t 0 4 = 0x090807 ∧ curByte t 0x100 = 5)) = true ∧
    runs (.acas 0 4 1 3 false true) (blkS 5) (fun t => decide (
      getG t 0 4 = 0x090807 ∧ curByte t 0x100 = 7)) = true := by decide +kernel

theorem witness_Atomics : HomeReady (blkS 0) 0 (0x138 / 64) ∧ PhysLine (blkS 0) 0 0x138 8 ∧
    CanRun (blkS 0) 4 0 ∧ AtomRow (blkS 0) (.aadd 0 4 1 2 true true) 0 4 1 true
      (.add (getG (blkS 0) 0 2)) ∧
    isOk (atomicAt 0 0x138 (.add 1) true (past (blkS 0) (ustate (blkS 0) 4) 0 4)) = true ∧
    (coreOf (blkS 0) 0).sb = [] ∧ (coreOf (blkS 0) 0).cb = [] ∧ poisonOf (blkS 0) 4 = none ∧
    postedCoh (blkS 0) 0 (fun _ => true) = false :=
  ⟨home_ready _ _ _ (by decide +kernel), ⟨by decide +kernel, by decide, by decide,
    by decide +kernel⟩, by decide +kernel, .aadd .., by decide +kernel⟩

theorem test_barriers : [Instr.sync 0, .lsync 0, .ssync 0, .isync 0, .fsync 0, .drain 0,
    .specbar 0].all (fun i => runs i (blkS 0) (fun t => decide (getPc t 0 = 4))) = true := by
  decide +kernel

theorem witness_Barriers : CanRun (blkS 0) 4 0 ∧
    isOk (drainSb 0 (past (blkS 0) (ustate (blkS 0) 4) 0 4)) = true ∧
    isOk (leaveFor 0 (fun _ => true) (past (blkS 0) (ustate (blkS 0) 4) 0 4)) = true ∧
    isOk (drainFor 0 (fun e => toFabric (blkS 0) e.pa) (past (blkS 0) (ustate (blkS 0) 4) 0 4)) = true ∧
    maintOut (blkS 0) 0 = false ∧ storeOut (blkS 0) 0 true = false ∧ (coreOf (blkS 0) 0).latch = none := by
  decide +kernel

theorem test_maintenance : [Instr.cinv 0 1, .ccln 0 1, .cfls 0 1, .icinv 0 1, .tlbinv 0 1 3,
    .tlbinvb 0 1 3, .tlbinva 0 1 3].all
      (fun i => runs i (blkS 0) (fun t => decide (getPc t 0 = 4))) = true := by decide +kernel

theorem witness_CacheMaintenance : CacheRow (.cinv 0 1) 0 1 1 .cinv .cinv ∧ CanRun (blkS 0) 4 1 ∧
    isOk (transl1 0 0x100 1 3 false .cinv (past (blkS 0) (ustate (blkS 0) 4) 0 4)) = true ∧
    isOk (drainFor 0 (sbHits [⟨0x100, 0x100, 64, .cached, none⟩])
      (past (blkS 0) (ustate (blkS 0) 4) 0 4)) = true ∧
    region (blkS 0) 0x100 = .dram ∧ region (blkS 0) (visTop (blkS 0)) = .absent ∧
    HomeReady (blkS 0) 0 4 :=
  ⟨.cinv .., by decide +kernel, by decide +kernel, by decide +kernel, by decide +kernel,
    by decide +kernel, home_ready _ _ _ (by decide +kernel)⟩

/-- A TLB entry of a 4 KiB page, and the first `n` pages after page 0 locked ones. -/
def tlbEnt (lock : Bool) (p : Nat) : TlbEnt :=
  { tag := ⟨0, 0, true, 0, p⟩, frame := p, mt := 0, key := 0, rights := 7, d := true, locked := lock }
def lockS (n : Nat) : State :=
  modCore (blkS 0) 0 (fun k => { k with tlb := (upto n).map (fun i => tlbEnt true (i + 1)) })

/-- The same with a frame table of one bucket at 0x400, which maps page 0 to frame 5; and with all eight
ways of that page's set locked. -/
def walkS (l : List TlbEnt) : State :=
  let s := sets (blkS 0) [(F.ftb_BASE, 0, 8), (F.ftmask_SZEN, 0, 1)]
  modCore { s with mem := s.mem ++ cellsAt 0x400 (natLe (0x61 + 0x3F * 2 ^ 13 + 5 * 2 ^ 24) 8) } 0
    (fun k => { k with tlb := l })
def fullSet : List TlbEnt := (upto 8).map (fun i => tlbEnt true (512 * (i + 1)))

theorem test_tlb_lock : runs (.tlblock 0 4 1) (walkS []) (fun t => decide (getG t 0 4 = 0 ∧
      (coreOf t 0).tlb.map (fun e => (e.frame, e.locked)) = [(5, true)])) = true ∧
    runs (.tlblock 0 4 1) (walkS fullSet) (fun t => decide (getG t 0 4 = 1)) = true := by decide +kernel

theorem witness_TlbLocks : CanRun (walkS []) 4 2 ∧ CanRun (walkS fullSet) 4 2 ∧
    (coreOf (walkS fullSet) 0).tlb.any (lockedHit (walkS fullSet) 0 0x100) = false ∧
    ((coreOf (walkS fullSet) 0).tlb.filter (fun e => e.locked)).length < 32 ∧
    [walkS [], walkS fullSet].map (fun s =>
      match walk 0 0x100 (plOf s 0) .load true none 4 (past s (ustate s 4) 0 4) with
      | .ok e w => ((coreOf w 0).tlb.filter (fun x => x.locked && tlbSet x == tlbSet e)).length
      | .error _ _ => 99) = [0, 8] := by decide +kernel

/-- An access of an ordinary channel waits at its home: a TLBINVB waits for it where the engine's TLB
holds a matching entry (R313), and then removes the entry. -/
def engS (busy : Bool) : State :=
  { blkS 0 with
    etlb := [(2, [{ tag := { vmid := 1, asid := 2, g := false, sz := 0, vpn := 3 }, frame := 0, mt := 0, key := 0,
                    rights := 0, d := true, locked := false }])]
    homeQ := if busy then [{ who := .req (.comet 70), line := 9, ra := 576, snooped := [],
                             req := .wrLine 1 0 false }] else [] }

theorem test_engine_invalidation :
    engineOut (engS true) (fun t => decide (t.vmid = 1)) = true ∧
    engineOut (engS true) (fun t => decide (t.vmid = 2)) = false ∧
    engineOut (engS false) (fun _ => true) = false ∧
    Tab.get [] (dropEngines (engS false) (fun t => decide (t.vmid = 1))).etlb 2 = [] := by decide +kernel

theorem witness_TlbMaintenance : CanRun (blkS 0) 4 2 ∧
    isOk (invOn (fun _ => true) 0 (past (blkS 0) (ustate (blkS 0) 4) 0 4)) = true ∧
    isOk (invEach (fun _ => true) (coreKeys (blkS 0)) (past (blkS 0) (ustate (blkS 0) 4) 0 4)) = true ∧
    canonical (0x100 : Word).toNat = true ∧
    (coreOf (lockS 32) 0).tlb.any (lockedHit (lockS 32) 0 0x100) = false ∧
    ((coreOf (lockS 32) 0).tlb.filter (fun e => e.locked)).length = 32 ∧
    (coreOf (lockS 1) 0).tlb.any (lockedHit (lockS 1) 0 0x1100) = true ∧ CanRun (lockS 32) 4 2 := by
  decide +kernel

theorem test_tlb_lock_full : runs (.tlblock 0 4 1) (lockS 32)
      (fun t => decide (getG t 0 4 = 1)) = true ∧
    runs (.tlbunlock 0 4 1) (lockS 1) (fun t => decide (getG t 0 4 = 1)) = true := by decide +kernel

/-! Levels, ports and system registers. -/

/-- Core 0 at a level. -/
def atLevel (s : State) (l : Nat) : State := fput s F.pstate_PL 0 l

theorem witness_PrivilegeAndIdle : CanRun (atLevel (blkS 0) 0) 4 0 ∧
    plOf (atLevel (blkS 0) 0) 0 < 1 ∧ plOf (atLevel (blkS 0) 1) 0 < 2 ∧
    (coreOf State.reset 0).active = false ∧
    (coreOf (modCore (blkS 0) 0 (fun k => { k with wait := some (.sync 0) })) 0).wait ≠ none := by
  decide +kernel

/-- PIN and POUT of PPBASE-free level 3: a read of CORE_ID's port gives its value. -/
theorem test_ports : runs (.pout 0 2 1 true (.long 0x4F0008)) (base 0xFFFFFFFFFFFFFF00 0x05001002 0)
      (fun t => decide (getPc t 0 = 8)) = true ∧
    runs (.pin 0 4 0 true (.long 0x4F0010)) (base 0 0 0)
      (fun t => decide (getG t 0 4 = 0)) = true := by decide +kernel

theorem witness_PortAccesses : CanRun (base 0 0 0) (pLen (.long 0x4F0008)) 0 ∧
    portNo (base 0 0 0) 0 0 (.long 0x4F0008) = 0x4F0008 ∧ 0x1000 ≤ 0x4F0008 ∧
    isOk (portChecks 0 0x4F0008 true true (past (base 0 0 0) (ustate (base 0 0 0) 8) 0 8)) = true ∧
    mayTimeOut (base 0 0 0) 0 0x10 true = false ∧ portAssigned (base 0 0 0) (some 0) 0x4F0008 = true ∧
    isOk (portOk 0 3 0x4F000C true true (past (base 0 0 0) (ustate (base 0 0 0) 8) 0 8)) = true ∧
    0x4F000C % 8 ≠ 0 ∧ (0 : Nat) < 2 ∧ pl3Port 0 0x4F0008 = false ∧ fuseAt 0x4F0008 = none ∧
    isOk (bitmapBits 0 (0x4F0008 / 4096) (base 0 0 0)) = true ∧
    fbit (fput (base 0 0 0) F.ppbase_EN 0 1) F.ppbase_EN 0 = true := by decide +kernel

theorem test_system_registers : runs (.mts 0 1 0x014) (base 0xFFFFFFFF12345678 0 0)
      (fun t => decide (fget t F.pkr_KR 0 = 0x12345678)) = true ∧
    runs (.mtsPkr 0 1) (base 5 0 0) (fun t => decide (fget t F.pkr_KR 0 = 5)) = true ∧
    runs (.wrpkr 0 1) (base 0x123456789 0 0)
      (fun t => decide (fget t F.pkr_KR 0 = 0x23456789)) = true ∧
    runs (.mfs 0 4 0) (base 0 0 0) (fun t => decide (getG t 0 4 = rd t .pstate 0)) = true ∧
    runs (.mtsPstate 0 1) (atLevel (base 0x2F3 0 0) 2)
      (fun t => decide (plOf t 0 = 2 ∧ mlOf t 0 = 13 ∧ fbit t F.pstate_TE 0 = true)) = true := by
  decide +kernel

theorem witness_SystemRegisters : CanRun (base 0 0 0) 4 0 ∧ MtsRow (.mts 0 1 0x014) 0 1 0x014 ∧
    (sysRegOf 0xFFF).isNone = true ∧ (sysRegOf 0x014).isSome = true ∧
    isOk (sysWrite 0 ⟨.pkr, 0, 0, 0⟩ 5 (past (base 0 0 0) (ustate (base 0 0 0) 4) 0 4)) = true ∧
    hrsDepth (fput (base 0 0 0) F.hrsctl_DEPTH 0 32) 0 ≤ 32 ∧ 1 ≤ plOf (base 0 0 0) 0 ∧
    plOf (atLevel (base 0 0 0) 0) 0 = 0 ∧ CanRun (atLevel (base 0 0 0) 0) 4 0 :=
  ⟨by decide +kernel, .mts 0 1 0x014, by decide +kernel⟩

theorem witness_WritePstate : CanRun (atLevel (base 0x2F3 0 0) 1) 4 0 ∧
    CanRun (atLevel (base 0x2F3 0 0) 0) 4 0 ∧ 1 ≤ plOf (atLevel (base 0x2F3 0 0) 1) 0 := by
  decide +kernel

theorem witness_RegisterFields : (⟨31, 24, .rw, .val 4, .val 4, false⟩ : Fld) ∈ Reg.nodeLctl.fields ∧
    regAt (base 0 0 0) (some 0) 0xFFFFFF00 = none ∧ regAt (base 0 0 0) (some 0) 0xFFFFFF04 = none ∧
    (∃ p, regAt (base 0 0 0) (some 0) p = some (.cmtProg, 0, 0)) ∧
    chanSt (base 0 0 0) 0 ≠ csRun ∧ chanSt (base 0 0 0) 0 ≠ csWait :=
  ⟨by decide, by decide +kernel, by decide +kernel, ⟨0x600010, by decide +kernel⟩,
    by decide +kernel⟩

/-! Exceptions, waits and the events of a core. -/

/-- Core 0 at level 0 and mask 0, the VDT at 0x2000 with descriptors of SCALL, BREAK, HCALL, MCALL
and vector 0xF5 (handler 0x4000, target level 2, stack 2 at 0x3000, EL 9, EML 11). -/
def excS : State :=
  let d : Nat → List Host.Cell := fun k => [(0x2001 + 32 * k, 0x40), (0x2008 + 32 * k, 0x15),
    (0x2009 + 32 * k, 0xB9)]
  let m := [(0x100, 0x80), (0x108, 0x30), (0x111, 0x05)] ++ d 0x14 ++ d 0x15 ++ d 0x16 ++ d 0x17 ++ d 0xF5
  let s := setG { base 0x100 0 0 with mem := m } 0 31 0x5000
  wr (fput (fput (atLevel s 0) F.pstate_ML 0 0) F.vdtb_BASE 0 1) .stk 2 0x3000

theorem test_calls_to_levels :
    [(Instr.scall 0, 0, (4 : Word), 0x14), (.hcall 0, 1, 4, 0x15), (.mcall 0, 2, 4, 0x16),
     (.brk 0, 0, 0, 0x17)].all (fun r => runs r.1 (atLevel excS r.2.1) (fun t =>
      decide (getPc t 0 = 0x4000 ∧ plOf t 0 = 2 ∧ mlOf t 0 = 11 ∧ rd t .epc 0 = r.2.2.1 ∧
        fget t F.ecause_CODE 0 = r.2.2.2 ∧ rd t .eaddr 0 = 0 ∧
        getG t 0 31 = if r.2.1 = 2 then 0x4FC0 else 0x2FC0))) = true := by
  decide +kernel

/-- The same with the descriptor of PRIV_INSTR only. -/
def privS : State := atLevel { excS with mem := [(0x2041, 0x40), (0x2048, 0x15), (0x2049, 0xB9)] } 0

theorem test_privilege : [Instr.cinv 0 1, .tlbinv 0 1 2, .tlbinvb 0 1 2, .hcall 0, .xret 0,
    .tlbinva 0 1 2, .tlblock 0 4 1, .tlbunlock 0 4 1, .mcall 0].all
      (fun i => runs i privS
        (fun t => decide (getPc t 0 = 0x4000 ∧ fget t F.ecause_CODE 0 = 2))) = true := by
  decide +kernel

/-- The exception of `SCALL`, and the descriptor that it finds. -/
def excX : Exc := { code := 0x14, epc := some (getPc excS 0 + 4) }
def excP : State := past excS (ustate excS 4) 0 4
def excH : Desc := ⟨0x2280, true, 0x4000, 2, 2, false, 9, 11, false⟩
def excL : State := okState (lookupDesc 0 0x14 (setPc excP 0 (getPc excS 0))) excP
def excQ : State := okState (pushCheck 0 0x2FC0 2 2 excL) excL
def excI : Piece :=
  match pushCheck 0 0x2FC0 2 2 excL with
  | .ok (_, p) _ => p
  | .error _ _ => ⟨0, 0, 0, .cached, none⟩

def excR : State := okState (sbRoom 0 1 97 excQ) excQ

theorem excF : frameAt excP 0 excH 2 (plOf excP 0) = 0x2FC0 := by decide +kernel

theorem witness_enters : Enters excP 0 (getPc excS 0) excX excH 2 excI
    (issueFor 0 (fun _ => true) excR) :=
  ⟨by decide, by decide +kernel, by decide +kernel,
    ⟨0x2280, excL, excQ, ok_val (by decide +kernel), excF ▸ ok_val (by decide +kernel), excR,
      ok_unit (by decide +kernel), rfl⟩⟩

theorem witness_ExceptionsTaken : CallRow (.scall 0) 0 0 0x14 true ∧ CanRun excS 4 0 ∧
    ∃ x, Enters (past excS (ustate excS 4) 0 4) 0 (getPc excS 0)
      { code := 0x14, epc := some (getPc excS 0 + 4) } excH 2 excI x :=
  ⟨.scall 0, by decide +kernel, _, witness_enters⟩

/-- An XRET at level 2 returns to level 0 (pc 0x80, ML 3) or, where the frame's level is above its
own, takes PRIV_INSTR. -/
def retX (n : Nat) : State :=
  setG (atLevel { excS with mem := [(0x100, 0x80), (0x108, BitVec.ofNat 8 n), (0x111, 0x05)] } 2)
    0 31 0x100

theorem test_exception_return : runs (.xret 0) (retX 0x30) (fun t => decide (getPc t 0 = 0x80 ∧
    plOf t 0 = 0 ∧ mlOf t 0 = 3 ∧ getG t 0 31 = 0x500 ∧ fbit t F.pstate_BIP 0 = false)) = true := by
  decide +kernel

theorem witness_ExceptionReturn : CanRun (retX 0x30) 4 1 ∧ CanRun (retX 3) 4 1 ∧
    isOk (loadData 0 (getG (retX 0x30) 0 spReg) 64 (past (retX 0x30) (ustate (retX 0x30) 4) 0 4))
      = true ∧
    (match loadData 0 (getG (retX 3) 0 spReg) 64 (past (retX 3) (ustate (retX 3) 4) 0 4) with
      | .ok bs _ => decide (plOf (retX 3) 0 < leNat ((bs.drop 8).take 8) % 4)
      | .error _ _ => false) = true ∧
    (match loadData 0 (getG (retX 0x30) 0 spReg) 64 (past (retX 0x30) (ustate (retX 0x30) 4) 0 4) with
      | .ok bs _ => decide (leNat ((bs.drop 8).take 8) % 4 ≤ 2 ∧ leNat (bs.take 8) % 4 = 0)
      | .error _ _ => false) = true := by decide +kernel

/-- Core 0 asleep in C1 with a WAITT deadline, and with vector 0xF5 pending. -/
def sleepS (a : Word) : State :=
  modCore excS 0 (fun k => { k with run := .c1, waitt := some (a, 4) })
def intS (s : State) : State := setPend s 0 0xF5 true

theorem test_waits : runs (.wait 0) excS (fun t => decide ((coreOf t 0).run = .c1)) = true ∧
    runs (.wait 0) (intS excS) (fun t => decide ((coreOf t 0).run = .run ∧ getPc t 0 = 4)) = true ∧
    runs (.waitt 0 4 1) (intS excS) (fun t => decide (getG t 0 4 = 1)) = true ∧
    runs (.waitt 0 4 2) (setG excS 0 4 7) (fun t => decide (getG t 0 4 = 0)) = true ∧
    runs (.waittDeadline 0) (sleepS 0) (fun t => decide ((coreOf t 0).run = .run ∧
      getG t 0 4 = 0)) = true ∧
    runs (.interrupt 0) (intS (sleepS 5)) (fun t => decide ((coreOf t 0).run = .run ∧
      getG t 0 4 = 1 ∧ getPc t 0 = 0x4000 ∧ fget t F.ecause_CODE 0 = 0xF5 ∧
      pendBit t 0 0xF5 = false)) = true := by decide +kernel

theorem witness_WaitsAndInterrupts : CanRun excS 4 0 ∧
    isOk (eligible 0 (past excS (ustate excS 4) 0 4)) = true ∧
    bit (fget (okState (eligible 0 (past excS (ustate excS 4) 0 4)) excS) F.coreClctl_C6EN 0) 0
      = false ∧
    (coreOf (sleepS 0) 0).run = .c1 ∧ (coreOf (sleepS 0) 0).waitt = some (0, 4) ∧
    (tbOf (sleepS 0) + 2 ^ 64 - (0 : Word).toNat) % 2 ^ 64 < 2 ^ 63 ∧
    undiscardable (intS (sleepS 5)) 0 = false ∧ (coreOf State.reset 0).active = false ∧
    (match eligible 0 (sleepS 0) with | .ok v _ => v.isNone | .error _ _ => false) = true ∧
    (match eligible 0 (intS (sleepS 5)) with
      | .ok v t => decide (v = some 0xF5) && isOk (deliver 0 0xF5 (getPc t 0) { code := 0xF5 }
          (modCore (setG t 0 4 1) 0 (fun k => { k with
            run := if k.run = .c1 then .run else k.run, waitt := none, c6due := false, wait := none,
            later := [] })))
      | .error _ _ => false) = true := by decide +kernel

/-- Core 0 may sleep in C6. -/
def c6En : State := fput excS F.coreClctl_C6EN 0 1

theorem test_interrupts : runs (.add 0 5 1 2) (intS excS) (fun t => decide (getG t 0 5 = 0 ∧
      getPc t 0 = 0x4000 ∧ rd t .epc 0 = 0 ∧ fget t F.ecause_CODE 0 = 0xF5)) = true ∧
    runs (.waittDeadline 0) (intS (sleepS 0)) (fun t => decide (getG t 0 4 = 1 ∧ getPc t 0 = 0x4000)) = true ∧
    runs (.interrupt 0) (fput (intS excS) F.pstate_ML 0 15) (fun t => decide (getPc t 0 = 0)) = true ∧
    runs (.wait 0) c6En (fun t => decide ((coreOf t 0).run = .c6)) = true := by decide +kernel

theorem witness_Begins : Begins excS 0 4 (okState (fetchCheck 0 4 (fresh excS 0)) excS) ∧
    Begins (intS excS) 0 4 (okState (fetchCheck 0 4 (fresh (intS excS) 0)) (intS excS)) :=
  ⟨⟨by decide +kernel, by decide +kernel, by decide +kernel, ok_unit (by decide +kernel)⟩,
    ⟨by decide +kernel, by decide +kernel, by decide +kernel, ok_unit (by decide +kernel)⟩⟩

theorem witness_Interrupts : (coreOf (intS excS) 0).active = true ∧ (coreOf (intS excS) 0).wait = none ∧
    fenced (intS excS) 0 = false ∧
    (match acceptInt 0 (intS excS) with | .ok b _ => b | .error _ _ => false) = true ∧
    (match acceptInt 0 (intS (sleepS 0)) with | .ok b _ => b | .error _ _ => false) = true ∧
    (match acceptInt 0 (sleepS 0) with | .ok b _ => !b | .error _ _ => false) = true ∧
    pendingVecs excS 0 = [] ∧ pendingVecs (intS excS) 0 ≠ [] ∧ undiscardable pendS 0 = true ∧
    (match eligible 0 (fput (intS excS) F.pstate_ML 0 15) with | .ok v _ => v.isNone | .error _ _ => false) = true ∧
    isOk (enterC6 0 (modCore (lapse c6En 0) 0 (fun k => { k with run := .c1, c6due := true }))) = true ∧
    (match acceptInt 0 (sleepS 0) with | .ok b _ => !b | .error _ _ => false) = true ∧ (fget c6En F.coreClctl_C6EN 0).testBit 0 = true := by decide +kernel

/-- A counter of core 0 of cache misses, which the model does not see, at every level. -/
def unseenS : State :=
  sets (base 0 0 0) [(F.pmsel_EN, 1, 1), (F.pmsel_PLF, 1, 15), (F.pmsel_EVENT, 1, 0x024)]

/-- A core with an enabled ring of 16 records below 0x2000 and a sample of counter 0 to write. -/
def ringS : State :=
  modCore (sets (base 5 3 2) [(F.psbbase_EN, 0, 1), (F.psbbase_BASE, 0, 1)]) 0
    (fun k => { k with sample := some ⟨0, 1, some ⟨0x40, 0, 7, 0, 0, 0, 3, 0x44, false⟩⟩ })

/-- A core whose third check fails, one that is moved, and one with a sample due. -/
def replayS (n : Nat) : State := modCore (base 5 3 2) 0 (fun k => { k with fails := n })
def movedS : State := { base 5 3 2 with moves := [(0, (0, 0))] }
def sampS : State := modCore (base 5 3 2) 0 (fun k => { k with sample := some ⟨0, 1, some ⟨0, 0, 0, 0, 0, 0, 0, 0, false⟩⟩ })

theorem test_core_events : runs (.coreIpi 1 0x50) (base 0 0 0)
      (fun t => pendBit t 0 0x50 && !(pendBit t 1 0x50)) = true ∧
    runs (.coreIpi 1 0x800060) (base 0 0 0)
      (fun t => pendBit t 0 0x60 && !(pendBit t 1 0x60) && pendBit t 127 0x60) = true ∧
    runs (.coreTimer 0) (fput (base 0 0 0) F.tbCmp_CMP 0 9) (fun t => pendBit t 0 0x40) = true ∧
    runs (.counterOverflow 0 1) unseenS
      (fun t => fbit t F.pmsel_OVF 1 && decide (fget t F.pmc_COUNT 1 = 0)) = true ∧
    runs (.coreMdtbWrite 0 0x8000000000000001) (base 0 0 0)
      (fun t => decide (t ≠ base 0 0 0)) = true ∧
    runs (.coreReplay 0) (replayS 0) (fun t => decide ((coreOf t 0).fails = 1)) = true ∧
    runs (.coreReplay 0) (replayS 2) (fun t => decide (fget t F.fltClspare_SST 0 = 1)) = true ∧
    runs (.eclipseResume 0) movedS (fun t => decide (fget t F.fltClspare_SST 0 = 2)) = true := by
  decide +kernel

theorem witness_CoreRows : (coreOf (replayS 2) 0).active = true ∧ Tab.find (replayS 2).moves 0 = none ∧
    fget (replayS 2) F.fltClspare_SST 0 = 0 ∧ 2 ≤ (coreOf (replayS 2) 0).fails ∧
    (coreOf (replayS 1) 0).fails < 2 ∧ (recentReplays (replayS 1) 0).length < 15 ∧
    (coreOf (replayS 1) 0).active = true ∧ fenced (replayS 1) 0 = false ∧
    Tab.find movedS.moves 0 = some (0, 0) ∧ (coreOf movedS 0).sb = [] ∧ (coreOf movedS 0).cb = [] ∧
    timerCond (fput (base 0 0 0) F.tbCmp_CMP 0 9) 0 = false ∧ timerCond (fput (base 0 0 0) F.tbCmp_CMP 0 0) 0 = true ∧
    tbOf (fput (base 0 0 0) F.tbCmp_CMP 0 9) < fget (fput (base 0 0 0) F.tbCmp_CMP 0 9) F.tbCmp_CMP 0 ∧
    overflows (base 0 0 0) 0 1 = false ∧ overflows unseenS 0 1 = true ∧ (coreOf unseenS 0).skip = none ∧
    fget unseenS F.pmsel_EVENT 1 ∉ cycleEvents ∧ fbit unseenS F.pmsel_SMP 1 = false ∧
    (coreOf (base 5 3 2) 0).sample = none ∧ fbit sampS F.psbbase_EN 0 = false ∧
    fbit ringS F.pstate_TE 0 = false ∧ fget ringS F.psbbase_BASE 0 * 4096 = 0x1000 ∧
    0x1000 + 64 * (ringSize ringS 0 + 1) ≤ visTop ringS ∧
    fbit ringS F.psbbase_EN 0 = true ∧ fbit ringS F.psbbase_STOP 0 = false ∧
    ((coreOf ringS 0).ring.widx + 2 ^ 64 - (coreOf ringS 0).ring.ridx) % 2 ^ 64 ≠ ringSize ringS 0 ∧
    ((coreOf ringS 0).ring.widx + 1 + 2 ^ 64 - (coreOf ringS 0).ring.ridx) % 2 ^ 64 < ringThr ringS 0 := by decide +kernel

/-! Homes, fabric messages and partners. -/

/-- A line's record for a state. -/
def withLine (s : State) (l : Nat) (r : LineRec) : State := { s with lines := [(l, r)] }

theorem test_copies : runs (.rdS (.core 0) 4 false) fabS (fun t => decide (
      (lrec t 4).present = [0] ∧ (lrec t 4).owner = some 0 ∧ (lrec t 4).hold = true)) = true ∧
    runs (.rdS (.core 1) 4 false) (withLine fabS 4 { LineRec.none with present := [0] })
      (fun t => decide ((lrec t 4).owner = none ∧ 0 ∈ (lrec t 4).present ∧ 1 ∈ (lrec t 4).present)) = true ∧
    [Instr.rdX (.core 1) 4, .upg (.core 1) 4].all (fun i =>
      runs i (withLine fabS 4 { LineRec.none with present := [0] }) (fun t => decide (
        (lrec t 4).present = [1] ∧ (lrec t 4).owner = some 1))) = true := by decide +kernel

theorem witness_HomeRequests : HomeReady fabS 0 4 ∧ (lrec fabS 4).present = [] ∧
    (setMates fabS 4 LineRec.inSf).length < 16 ∧ (lrec fabS 4).owner = none ∧
    HomeReady (withLine fabS 4 { LineRec.none with present := [0], owner := some 0 }) 0 4 ∧
    0 ∈ (lrec (withLine fabS 4 { LineRec.none with present := [0], owner := some 0 }) 4).present ∧
    (lrec (withLine fabS 4 { LineRec.none with present := [0], owner := some 0 }) 4).data = none ∧
    PlainRow (.wrLine (.core 0) 4 3 5) (.core 0) 4 (.wrLine 3 5 false) ∧
    poisonOf fabS 4 = none ∧
    (∀ i < 8, (0x0100000000000007 : Word).extractLsb' (8 * i) 8 = curByte fabS (0x100 + i)) :=
  ⟨home_ready _ _ _ (by decide +kernel), by decide +kernel, by decide +kernel, by decide +kernel,
    home_ready _ _ _ (by decide +kernel), by decide +kernel, by decide +kernel, .wrLine .., by decide +kernel,
    by decide +kernel⟩

theorem test_home_requests :
    runs (.wb (.core 0) 4 9) (withLine fabS 4 { LineRec.none with present := [0], owner := some 0 })
      (fun t => decide (curByte t 0x100 = 9 ∧ curByte t 0x107 = 0 ∧ (lrec t 4).present = [])) = true ∧
    runs (.evc (.core 0) 4) (withLine fabS 4 { LineRec.none with present := [0] })
      (fun t => decide (curByte t 0x100 = 7 ∧ (lrec t 4).present = [])) = true ∧
    runs (.rdCur (.core 0) 4) fabS (fun t => decide (t = { fabS with ccache := t.ccache })) = true ∧
    runs (.wrLine (.core 0) 4 3 0x0505) fabS
      (fun t => decide (curByte t 0x100 = 5 ∧ curByte t 0x101 = 5 ∧ curByte t 0x107 = 1)) = true ∧
    runs (.atom (.core 0) 0x100 (.swap 0x22)) fabS
      (fun t => decide (curByte t 0x100 = 0x22 ∧ curByte t 0x107 = 0)) = true ∧
    runs (.homeCinv (.core 0) 4) (withLine fabS 4 { LineRec.none with present := [0], owner := some 0, data := some 9 })
      (fun t => decide (curByte t 0x100 = 7)) = true ∧
    [Instr.homeCcln (.core 0) 4, .homeCfls (.core 0) 4].all (fun i =>
      runs i (withLine fabS 4 { LineRec.none with present := [0], owner := some 0, data := some 9 })
        (fun t => decide (memLine t 4 = 9))) = true := by decide +kernel

theorem witness_PartnerRequests :
    findWindow fabS 3 0x100 = none ∧ findWindow fabS 2 0x1000 = none ∧
    findWindow fabS 2 0xFC0 = some 0 ∧ fbit fabS F.winA_C 0 = false ∧ fabS.missQ = [] := by
  decide +kernel

theorem test_partner_requests :
    runs (.rdX (.node 3 5 6 7 1) 4) fabS (fun t => decide (t.missQ.length = 1 ∧
      t.outbox.map (fun m => (m.op, m.stat, m.tag, m.stream, m.sseq, m.cls)) =
        [(0x1B, 1, 5, 6, 7, 1)])) = true ∧
    runs (.rdX (.node 2 5 6 7 1) 4) fabS (fun t => decide (
      t.outbox.map (fun m => (m.op, m.stat)) = [(0x1B, 2)])) = true ∧
    runs (.rdCur (.node 2 5 6 7 1) 4) fabS (fun t => decide (
      t.outbox.map (fun m => (m.op, m.stat, m.data.head?)) = [(0x18, 0, some 0x0100000000000007)])) = true := by
  decide +kernel

/-- `fabS` with one request outstanding at node 3. -/
def txS (who : TxWho) (op : Nat) (busy : Bool) : State :=
  { fabS with txs := [⟨4, who, 2 ^ 51 + 64, 0, { mk 1 op with dst := 3, tag := 4 }, busy⟩] }
/-- Node 3's answer to it. -/
def ans (op stat : Nat) : Msg := { mk 3 op with tag := 4, stat := BitVec.ofNat 4 stat, data := [9] }

theorem test_responses :
    runs (.data (ans opData 0)) (txS (.load 0) opRdCur false) (fun t => decide (t.txs = [] ∧
      Tab.find (coreOf t 0).got (2 ^ 45 + 1) = some (.value 9))) = true ∧
    runs (.nak (ans opNak 1)) (txS (.load 0) opRdCur false) (fun t => decide (t.txs = [] ∧
      Tab.find (coreOf t 0).got (2 ^ 45 + 1) = some (.nak true))) = true ∧
    runs (.nak (ans opNak 4)) (txS (.load 0) opRdCur false)
      (fun t => decide (t.txs.map (fun x => x.busy) = [true])) = true ∧
    runs (.fabricTimeout 4) (txS (.load 0) opRdCur false) (fun t => decide (t.txs = [] ∧
      Tab.find (coreOf t 0).got (2 ^ 45 + 1) = some .timeout)) = true ∧
    runs (.retryBusyResend 4) (txS (.load 0) opRdCur true) (fun t => decide (
      t.txs.map (fun x => x.busy) = [false] ∧ t.outbox.length = 1)) = true ∧
    runs (.cmpResponse (ans opCmp 0)) (txS (.row 0) opWrLine false)
      (fun t => decide (t.txs = [])) = true := by decide +kernel

/-- `fabS` with a write-back to node 3 sent, which no transaction stands for. -/
def postedS : State :=
  { fabS with fab := { fabS.fab with posted := [⟨{ mk 1 opWb with dst := 3, stream := 2, sseq := 7 }, 0, none⟩] } }
def busyAns : Msg := { mk 3 opNak with tag := 4, stat := 4, stream := 2, sseq := 7 }

theorem test_posted_resend : runs (.nak busyAns) postedS (fun t => decide (
    t.fab.posted.map (fun x => x.again) = [some 1000])) = true := by decide +kernel

theorem witness_Responses : (∀ x ∈ (txS (.load 0) opRdCur false).txs, x.tag ≠ noTag) ∧
    txFor postedS busyAns = none ∧ (∀ x ∈ postedS.fab.posted, x.msg.dst = busyAns.src ∧
      x.msg.stream = busyAns.stream ∧ x.msg.sseq = busyAns.sseq) ∧ txFor fabS (ans opData 0) = none ∧
    (txFor (txS (.load 0) opRdCur false) (ans opData 0)).any (fun t => decide (t.who = .load 0 ∧
      t.msg.op.toNat = opRdCur) && !t.fills) = true ∧
    (txFor (txS (.row 0) opWrLine false) (ans opCmp 0)).any (fun t => decide (t.who = .row 0 ∧
      t.msg.op.toNat = opWrLine)) = true ∧
    ((txS (.load 0) opRdCur true).txs.find? (fun x => x.tag == 4 && x.busy)).isSome = true := by
  decide +kernel

/-- `fabS` that holds line 1 of node 3 (reached at 2^51) with data, in its hold window or not. -/
def heldF (hold : Bool) (d : Option Line) : State :=
  withLine fabS (2 ^ 45 + 1) { LineRec.none with right := .excl, present := [0], owner := some 0,
                                                 data := d, dirty := d.isSome, hold := hold }
/-- A snoop of node 3 for that line. -/
def snp (op : Nat) : Msg := { mk 3 op with addr := 64, tag := 9 }

theorem test_snoops :
    [Instr.rclS (snp opRclS), .rclI (snp opRclI), .binv (snp opBinv), .snpCur (snp opSnpCur),
     .snpCln (snp opSnpCln)].all (fun i =>
      runs i fabS (fun t => decide (t.outbox.map (fun m => (m.op, m.stat, m.tag)) = [(0x1A, 3, 9)])) &&
      runs i (heldF true none) (fun t => decide (t.fab.deferred.length = 1)) &&
      runs i (heldF false (some 9)) (fun t => decide (
        t.outbox.map (fun m => (m.op, m.stat, m.data.head?)) = [(0x1A, 0, some 9)]))) = true ∧
    runs (.rclI (snp opRclI)) (heldF false none) (fun t => decide (
      (lrec t (2 ^ 45 + 1)).right = .none)) = true ∧
    runs (.rclS (snp opRclS)) (heldF false (some 9)) (fun t => decide (
      (lrec t (2 ^ 45 + 1)).right = .shared ∧ (lrec t (2 ^ 45 + 1)).present = [0])) = true := by
  decide +kernel

/-- The same while this node's own CINV of that line is outstanding. -/
def wantsF : State := { heldF true (some 9) with
  txs := [⟨4, .row 0, 64 * (2 ^ 45 + 1), 0, mk 1 opCinv, false⟩] }

theorem test_own_snoop : runs (.rclI (snp opRclI)) wantsF (fun t => decide (t.fab.deferred = [] ∧
    t.outbox.length = 1 ∧ (lrec t (2 ^ 45 + 1)).right = .none)) = true := by decide +kernel

theorem witness_Snoops : ownWants wantsF .rclI (2 ^ 45 + 1) = true ∧ ownWants wantsF .rclS (2 ^ 45 + 1) = false ∧
    ownWants (heldF true none) .rclI (2 ^ 45 + 1) = false ∧
    fabLine wantsF 3 64 = some (2 ^ 45 + 1) ∧ SnoopRow (snp opRclI) (.rclI (snp opRclI)) .rclI ∧
    fabLine fabS 3 64 = none ∧ fabLine (heldF true none) 3 64 = some (2 ^ 45 + 1) ∧
    (lrec (heldF true none) (2 ^ 45 + 1)).hold = true ∧
    fabLine (heldF false (some 9)) 3 64 = some (2 ^ 45 + 1) ∧
    (lrec (heldF false none) (2 ^ 45 + 1)).hold = false :=
  ⟨by decide +kernel, by decide +kernel, by decide +kernel, by decide +kernel, .rclI, by decide +kernel⟩

/-- `fabS` whose line 4 node 2 shares, with an RCL_I to it unanswered. -/
def homeS : State :=
  { withLine fabS 4 { LineRec.none with partners := [⟨2, 0, 0x100, 0⟩] } with
      snoops := [⟨4, 2, 0x100, .rclI, 6, [8]⟩] }
def snpAns : Msg := { mk 2 opSnpr with tag := 6, sseq := 8, stream := 0xF0#8 }

theorem test_snoop_answers :
    runs (.snpr snpAns) homeS (fun t => decide (t.snoops = [] ∧ (lrec t 4).partners = [])) = true ∧
    runs (.snoopResend 4 2) homeS (fun t => decide (t.outbox.map (fun m => (m.op, m.tag)) = [(0x11, 6)] ∧
      t.snoops.map (fun x => x.sseqs.length) = [2])) = true ∧
    runs (.partnerSlow 4 2) homeS (fun t => decide (t.logHeld.map (fun r => (r.code, r.node)) =
      [(0x21, 2)])) = true ∧
    runs (.holdWindowEnd (2 ^ 45 + 1)) (heldF true none)
      (fun t => decide ((lrec t (2 ^ 45 + 1)).hold = false)) = true := by decide +kernel

/-- The owner of the line waits with a load of it. -/
def waitsF : State := modCore (heldF true none) 0 (fun k => { k with wait := some (.ldD 0 4 (.disp 1 0)) })

theorem test_window_due : runs (.holdWindowEnd (2 ^ 45 + 1)) waitsF (fun t => decide (
    (lrec t (2 ^ 45 + 1)).hold = true ∧ (lrec t (2 ^ 45 + 1)).due = true)) = true := by decide +kernel

theorem witness_SnoopAnswers : ((coreOf waitsF 0).wait ≠ none ∧ (coreOf waitsF 0).active = true ∧
      Tab.find waitsF.moves 0 = none ∧ (lrec waitsF (2 ^ 45 + 1)).owner = some 0 ∧
      (coreOf waitsF 0).sb = [] ∧ (coreOf (heldF true none) 0).wait = none) ∧ (fabS.snoops.find? (fun y => y.tag == snpAns.tag.toNat &&
      y.node == snpAns.src.toNat && y.sseqs.contains snpAns.sseq.toNat)) = none ∧
    (homeS.snoops.find? (fun y => y.tag == snpAns.tag.toNat &&
      y.node == snpAns.src.toNat && y.sseqs.contains snpAns.sseq.toNat)) =
      some ⟨4, 2, 0x100, .rclI, 6, [8]⟩ ∧ (lrec homeS 4).powner = none ∧ snpAns.data = [] ∧
    homeS.homeQ = [] ∧ homeS.logHeld = [] ∧
    (homeS.snoops.find? (fun y => y.line == 4 && y.node == 2)) = some ⟨4, 2, 0x100, .rclI, 6, [8]⟩ ∧
    (lrec (heldF true none) (2 ^ 45 + 1)).hold = true ∧ (heldF true none).fab.deferred = [] ∧
    (coreOf (heldF true none) 0).sb = [] := by decide +kernel

/-- `txS` with a liveness state for node 3 and a number of unanswered PROBEs. -/
def liveS (live probes : Nat) : State :=
  let s := sets (txS (.load 0) opRdCur false) [(F.nodeEnt_LIVE, 3, live), (F.nodeLctl_NPROBE, 0, 2)]
  { s with fab := { s.fab with probes := [(3, probes)], order := [((3, 7), (1, 0))] },
           reclaims := [⟨3, none, 0, [], 0, 0, []⟩] }

theorem test_liveness :
    runs (.suspect 3) (liveS 1 0) (fun t => decide (fget t F.nodeEnt_LIVE 3 = 2 ∧ probesTo t 3 = 1)) = true ∧
    runs (.suspect 3) (liveS 3 0) (fun t => decide (t = liveS 3 0)) = true ∧
    runs (.probeInterval 3) (liveS 2 1) (fun t => decide (fget t F.nodeEnt_LIVE 3 = 2 ∧ probesTo t 3 = 2)) = true ∧
    runs (.probeInterval 3) (liveS 2 2) (fun t => decide (fget t F.nodeEnt_LIVE 3 = 3)) = true ∧
    runs (.probeR (mk 3 opProbeR)) (liveS 2 2) (fun t => decide (fget t F.nodeEnt_LIVE 3 = 1 ∧
      probesTo t 3 = 0)) = true ∧
    runs (.probe (mk 3 opProbe)) fabS (fun t => decide (t.outbox.map (fun m => (m.op, m.dst, m.cls)) =
      [(0x2A, 3, 3)])) = true ∧
    runs (.orderingStateExpiry 3 7) (liveS 1 0) (fun t => decide (t.fab.order = [])) = true ∧
    runs .reclaimComplete (liveS 3 0) (fun t => decide (t.reclaims = [] ∧
      fbit t F.fltRclStat_DONE 0 = true)) = true := by decide +kernel

theorem witness_LivenessAndReclaims : fget (liveS 3 0) F.nodeEnt_LIVE 3 ≠ 1 ∧
    fget (liveS 1 0) F.nodeEnt_LIVE 3 = 1 ∧ waitsFor (liveS 1 0) 3 = true ∧
    fget (liveS 2 2) F.nodeEnt_LIVE 3 = 2 ∧ probesTo (liveS 2 1) 3 < fget (liveS 2 1) F.nodeLctl_NPROBE 0 ∧
    fget (liveS 2 2) F.nodeLctl_NPROBE 0 ≤ probesTo (liveS 2 2) 3 ∧
    (liveS 2 2).reclaims.any (fun r => r.node == 3) = true ∧
    switchOn fabS = true ∧ selfId fabS ≠ 0xFFFF ∧ selfId State.reset = 0xFFFF ∧
    { fabS with reclaims := [⟨3, some 5, 0, [], 0, 0, []⟩] }.reclaims = [⟨3, some 5, 0, [], 0, 0, []⟩] ∧
    fabS.svc.main = [] ∧ fabS.svc.flash = [] := by decide +kernel

/-! Links, lanes and the switch. -/

/-- A flit of TC1 from node 2 to node 3, as it arrives with LSEQ 0 and as it leaves. -/
def inFlit : Flit := { Flit.idle with cls := 1, vc := true, dst := 3, src := 2, payload := [0x18] }
def outFlit : Flit := { inFlit with hops := 1 }
def inBits : BitVec 2048 :=
  flitBits { typ := 1, nak := false, ackv := false, ack := 0, lseq := 0, crp := 0, crn := 0 } inFlit
/-- What changes a word as an error at power 600 would, where no symbol is: x^600 modulo the generator
polynomial (worked out outside the model). -/
def beyond : List Nat :=
  [740, 82, 204, 545, 168, 697, 994, 37, 81, 174, 586, 665, 430, 498, 223, 76, 151, 541, 77, 898, 749,
   417, 659, 482, 153, 557, 892, 893, 966, 356]

/-- A codeword with no symbol in error; and two codewords, with one symbol in error and with 30. -/
def clean : Fec := ⟨false, 0, [[]]⟩
def broken : Fec :=
  ⟨false, 0, [[(543, 1023)], beyond.mapIdx (fun i v => (Fin.ofNat 544 i, BitVec.ofNat 10 v))]⟩

/-- The parity symbols of a codeword are its remainder, so that no syndrome is left; of 2 symbols in error the
decoder finds places and values; a word as far from every codeword as `beyond` is uncorrectable (R211). -/
theorem test_fec : ((syndromes ((rsEncode [7, 1023]).mapIdx (fun i v => (31 - i, v)))).all (fun x => decide (x = 0))) = true ∧
    rsDecode [(5, 7), (543, 1023)] = some [(5, 7), (543, 1023)] ∧
    rsDecode (beyond.mapIdx (fun i v => (i, v))) = none := by decide +kernel
/-- A CTRL flit whose link fields do nothing. -/
def ctrlIn : BitVec 2048 :=
  flitBits { typ := 2, nak := false, ackv := false, ack := 0, lseq := 0, crp := 0, crn := 0 } Flit.idle
/-- An IDLE flit that acknowledges LSEQ 1 and returns 3 credits of pool 5. -/
def idleBits : BitVec 2048 :=
  flitBits { typ := 0, nak := false, ackv := true, ack := 1, lseq := 0, crp := 5, crn := 3 } Flit.idle
/-- `linkS` with three flits of port 0 unacknowledged after some resends in succession. -/
def sentS (n : Nat) : State :=
  setLink linkS 0 { link linkS 0 with replay := [(0, inFlit, none), (1, inFlit, none), (2, outFlit, none)], resends := n,
                                      toAck := 2 }

theorem witness_accepted : Accepted linkS 0 clean inBits := by
  constructor <;> decide +kernel

theorem witness_can_send : CanSend linkS 16 outFlit := by constructor <;> decide +kernel

theorem test_flits :
    runs (.dataFlit 0 clean inBits) linkS (fun t => decide ((link t 0).rxNext = 1 ∧
      (link t 16).wire = [dataBits (link linkS 16) 0 outFlit] ∧
      Tab.get 0 (link t 16).credits 6 = 0)) = true ∧
    runs (.dataFlit 0 broken inBits) linkS (fun t => decide ((link t 0).discard = true ∧
      (link t 0).wire.map (fun f => linkFieldsOf f.toNat) = [⟨0, true, true, 255, 0, 0, 0⟩] ∧
      fget t F.fabPerr_UNCOR 0 = 1 ∧ fget t F.fabPerr_CORR 0 = 1)) = true ∧
    runs (.idleFlit 0 clean idleBits) (sentS 0) (fun t => decide (
      (link t 0).replay = [(2, outFlit, none)] ∧ Tab.get 0 (link t 0).credits 5 = 4)) = true ∧
    runs (.linkNak 0 0) (sentS 0) (fun t => decide ((link t 0).wire.map (fun f =>
      (linkFieldsOf f.toNat).lseq) = [1, 2])) = true ∧
    runs (.replayTimeout 0) (sentS 7) (fun t => decide ((link t 0).resends = 8 ∧
      fget t F.fabPerr_REPLAY 0 = 1)) = true ∧
    runs (.replayTimeout 0) (sentS 8) (fun t => decide (fget t F.fabPstat_ST 0 = 1 ∧
      fget t F.fabPstat_REASON 0 = 4)) = true ∧
    runs (.ackTimer 0) (sentS 0) (fun t => decide ((link t 0).toAck = 0 ∧
      (link t 0).wire.length = 1)) = true := by decide +kernel

theorem test_flit_fill : runs .flitFillTimeout { linkS with outbox := [{ mk 1 opData with
      dst := 3, cls := 1, tag := 7 }] } (fun t => decide (t.outbox = [] ∧
      (link t 16).wire.map (fun f => ((flitOf f.toNat).src, (flitOf f.toNat).dst, (flitOf f.toNat).payload)) =
        [(1, 3, [0x7018])])) = true := by decide +kernel

theorem witness_LinkFlits : portUp State.reset 0 = false ∧ State.reset.fab.inbox = [] ∧
    linkS.fab.inbox = [] ∧ selfId linkS ≠ 0xFFFF ∧ (flitOf inBits.toNat).dst = 3 ∧
    (flitOf inBits.toNat).hops < 15 ∧ (flitOf inBits.toNat).cls ≠ 0 ∧
    tableRoute linkS 3 (some 0) = some (16, false) ∧
    { flitOf inBits.toNat with hops := (flitOf inBits.toNat).hops + 1,
                               alt := (flitOf inBits.toNat).alt || false } = outFlit ∧
    portUp linkS 0 = true ∧ switchOn linkS = true ∧ (link linkS 0).discard = false ∧
    portUp (sentS 0) 0 = true ∧ fecBits (sentS 0) 0 clean idleBits.toNat = idleBits.toNat ∧
    lcrcOk idleBits.toNat = true ∧ fecBits linkS 0 clean inBits.toNat = inBits.toNat ∧
    (linkFieldsOf idleBits.toNat).nak = false ∧ (link (sentS 0) 0).queue = [] ∧
    (decodeFec linkS 0 broken).1 = false ∧ (decodeFec (sentS 0) 0 clean).1 = true ∧
    (link linkS 0).ctrls = [] ∧ linkS.outbox = [] ∧
    afterLseq 0 (link (sentS 0) 0).replay = some [(1, inFlit, none), (2, outFlit, none)] ∧
    (link (sentS 7) 0).resends < 8 ∧ 8 ≤ (link (sentS 8) 0).resends ∧ (link linkS 0).toAck = 0 ∧
    0 < (link (sentS 0) 0).toAck ∧ tableRoute linkS 3 none = some (16, false) ∧
    direct linkS { mk 1 opData with dst := 3, cls := 1, tag := 7 } = false := by decide +kernel

theorem witness_packed :
    CanSend linkS 16 { Flit.idle with cls := 1, vc := true, dst := 3, src := 1, payload := [0x7018] } := by
  constructor <;> decide +kernel

/-- `linkS` with port 0 in a phase of training (0: DOWN). -/
def trainS (phase fails : Nat) (nrz : Bool) : State :=
  setLink (fput linkS F.fabPstat_ST 0 (if phase = 0 then 1 else 2)) 0
    { Link.reset with phase := phase, fails := fails, nrz := nrz }
def peerInfo (ok : Bool) : TrainInfo := ⟨9, 33, true, ok, [5, 6]⟩

theorem test_training :
    runs (.trainingRetry 0) (trainS 0 0 false) (fun t => decide (fget t F.fabPstat_ST 0 = 2 ∧
      (link t 0).phase = 1)) = true ∧
    runs (.trainingPhaseDone 0 (peerInfo false)) (trainS 3 0 false) (fun t => decide (
      fget t F.fabPstat_ST 0 = 1 ∧ fget t F.fabPstat_REASON 0 = 3)) = true ∧
    runs (.trainingPhaseDone 0 (peerInfo true)) (trainS 3 0 false) (fun t => decide (
      fget t F.fabPstat_PEER 0 = 9 ∧ fget t F.fabPstat_PPORT 0 = 33 ∧ fbit t F.fabPstat_REV 0 = true ∧
      (link t 0).phase = 4)) = true ∧
    runs (.trainingPhaseDone 0 (peerInfo true)) (trainS 6 0 false) (fun t => decide (
      fget t F.fabPstat_ST 0 = 3 ∧ Tab.get 0 (link t 0).credits 1 = 6)) = true ∧
    runs (.trainingLimit 0) (trainS 4 1 false) (fun t => decide ((link t 0).phase = 6 ∧
      (link t 0).nrz = true)) = true ∧
    runs (.trainingLimit 0) (trainS 4 0 false) (fun t => decide (fget t F.fabPstat_REASON 0 = 2)) = true ∧
    runs (.noSignal 0) linkS (fun t => decide (fget t F.fabPstat_REASON 0 = 1)) = true ∧
    runs (.grefclkLoss 0) linkS (fun t => decide (fget t F.fabPstat_ST 0 = 1 ∧
      fget t F.fabPstat_ST 16 = 3)) = true ∧
    runs (.portReset 0) linkS (fun t => decide (fget t F.fabPstat_ST 0 = 2 ∧
      fget t F.fabPstat_REASON 0 = 7)) = true ∧
    runs (.portDelayMeasure 0 0x1234) linkS (fun t => decide (fget t F.tbPdly_DLY 0 = 0x91A)) = true := by
  decide +kernel

theorem witness_LinkTraining : fget linkS F.fabPstat_ST 0 ≠ 1 ∧ fget linkS F.fabPstat_ST 0 ≠ 2 ∧
    fget (trainS 0 0 false) F.fabPstat_ST 0 = 1 ∧ portExists (trainS 0 0 false) 0 = true ∧
    fget (trainS 4 1 false) F.fabPstat_ST 0 = 2 ∧ portUp (trainS 0 0 false) 0 = false ∧
    fget (trainS 0 0 false) F.fabPstat_ST 0 ≠ 2 ∧ portUp linkS 0 = true ∧ portExists linkS 1 = false ∧
    linkS.dev.ps1 = false ∧ linkS.dev.off = false ∧ (link (trainS 6 0 false) 0).phase = 6 := by
  decide +kernel

/-- `linkS` with the spare of group 0 in a state, at a position, with failed positions. -/
def laneS (sst sh spos fail : Nat) : State :=
  sets linkS [(F.fabGstat_SST, 0, sst), (F.fabGstat_SHIDX, 0, sh), (F.fabGstat_SPOS, 0, spos),
    (F.fabGstat_FAIL, 0, fail)]
/-- Port 0 and port 8 of group 0, x8 each. -/
def rotS : State := sets (laneS 0 0 0 0) [(F.fabGcfg_W, 0, 4 + 4 * 2 ^ 24), (F.fabPstat_AW, 0, 4),
  (F.fabPstat_ST, 8, 3)]

theorem test_lanes_spared :
    runs (.laneSuspect 0 5) (laneS 0 0 0 0) (fun t => decide (fget t F.fabGstat_SST 0 = 1 ∧
      fget t F.fabGstat_SHIDX 0 = 5 ∧ (link t 0).ctrls = [.shadow 5])) = true ∧
    runs (.laneSpared 0) (laneS 1 5 0 0) (fun t => decide (fget t F.fabGstat_SST 0 = 2 ∧
      fget t F.fabGstat_SPOS 0 = 5 ∧ fget t F.fabGstat_FAIL 0 = 32)) = true ∧
    runs (.laneLost 0 16) (laneS 0 0 0 0) (fun t => decide (fget t F.fabGstat_SST 0 = 3)) = true ∧
    runs (.laneLost 0 5) (laneS 1 5 0 0) (fun t => decide (fget t F.fabGstat_SST 0 = 2 ∧
      (link t 0).discard = true)) = true ∧
    runs (.laneLost 0 15) (laneS 2 5 5 32) (fun t => decide (fget t F.fabPstat_AW 0 = 4 ∧
      fget t F.fabPstat_ST 0 = 4 ∧ (link t 0).lo = 0)) = true ∧
    runs (.laneLost 0 0) (laneS 2 5 5 32) (fun t => decide (fget t F.fabPstat_AW 0 = 4 ∧
      (link t 0).lo = 8)) = true ∧
    runs (.laneLost 0 0) (fput (laneS 3 0 0 0) F.fabPstat_AW 0 1) (fun t => decide (
      fget t F.fabPstat_ST 0 = 1 ∧ fget t F.fabPstat_REASON 0 = 5)) = true ∧
    runs (.standbyRotate 0) rotS (fun t => decide (fget t F.fabGstat_SHIDX 0 = 1)) = true ∧
    runs (.ctrlFlit 0 ⟨clean, ctrlIn, .taken 5⟩) (laneS 1 5 0 0) (fun t => decide (fget t F.fabGstat_SST 0 = 2 ∧
      fget t F.fabGstat_SPOS 0 = 5)) = true ∧
    runs (.ctrlFlit 0 ⟨clean, ctrlIn, .reform 8 4⟩) (laneS 3 0 0 0) (fun t => decide (fget t F.fabPstat_AW 0 = 4 ∧
      (link t 0).lo = 8)) = true := by decide +kernel

theorem witness_LaneSparing : fget (laneS 1 5 0 0) F.fabGstat_SST 0 ≠ 0 ∧
    portAt (laneS 0 0 0 0) 0 5 = some 0 ∧ portAt (laneS 0 0 0 0) 0 15 = some 0 ∧
    portAt rotS 0 7 = some 0 ∧ portAt rotS 0 8 = some 8 ∧
    portAt (sets linkS [(F.fabGcfg_W, 0, 4)]) 0 8 = none ∧
    linkS.svc.main = [] ∧ linkS.svc.flash = [] ∧
    fget (laneS 1 5 0 0) F.fabGstat_SST 0 < 2 ∧
    (fget (laneS 2 5 5 32) F.fabGstat_SST 0 = 2 ∧ fget (laneS 2 5 5 32) F.fabGstat_SPOS 0 ≠ 15) ∧
    portUp (laneS 2 5 5 32) 0 = true ∧ 2 ≤ fget (laneS 2 5 5 32) F.fabPstat_AW 0 ∧
    healthyRun (markFail (laneS 2 5 5 32) 0 15) 0 (link (laneS 2 5 5 32) 0).lo
      (2 ^ (fget (laneS 2 5 5 32) F.fabPstat_AW 0 - 2)) = true ∧
    fget rotS F.fabGstat_SST 0 = 0 ∧ portAt rotS 0 ((fget rotS F.fabGstat_SHIDX 0 + 1) % 16) = some 0 ∧
    fget rotS F.fabPstat_ST 0 = 3 ∧ (link (laneS 3 0 0 0) 0).replay = [] ∧
    fget (laneS 3 0 0 0) F.fabPstat_AW 0 < 6 ∧ (decodeFec linkS 0 clean).1 = true ∧
    fecBits linkS 0 clean ctrlIn.toNat = ctrlIn.toNat ∧
    lcrcOk ctrlIn.toNat = true ∧ (linkFieldsOf ctrlIn.toNat).ackv = false ∧
    (linkFieldsOf ctrlIn.toNat).nak = false ∧ (linkFieldsOf ctrlIn.toNat).crn = 0 ∧
    (link linkS 0).queue = [] ∧ .delay ∉ (link linkS 0).ctrls ∧ portUp linkS 0 = true := by decide +kernel

/-- A flow with a flit queued and tokens again, and a copy that waits on port 0. -/
def tideQ : QFlit := { flit := { inFlit with cls := 0, vc := false, flow := 7 }, src := none, tide := true }
def flowS : State :=
  let s := sets linkS [(F.tideFlowb_RATE, 7, 1), (F.tideFlowb_BURST, 7, 2)]
  { s with fab := { s.fab with buckets := [(7, ⟨1920000, 0, [tideQ]⟩)] } }
def copyS : State := setLink linkS 0 { link linkS 0 with queue := [tideQ], credits := [] }
def bankS : State :=
  { sets linkS [(F.nodeRbstat_COPY, 0, 1), (F.nodeRbstat_HELD, 0, 1)] with svc := Svc.reset }

theorem test_tide_and_banks :
    runs (.tokenBucketRelease 7) flowS (fun t => decide (
      (Tab.find t.fab.buckets 7).map (fun b => (b.level, b.queue)) = some (0, []))) = true ∧
    runs (.tideCopyTimeout 7 0) copyS (fun t => decide ((link t 0).queue = [])) = true ∧
    runs .bankCopyDone bankS (fun t => decide (fbit t F.nodeRbstat_COPY 0 = false ∧
      Tab.get 0 t.fab.shadow 3 = 0x210)) = true := by decide +kernel

theorem witness_TideAndBanks : (bucketNow linkS 7).queue = [] ∧ fget linkS F.tideFlowb_RATE 7 = 0 ∧
    Tab.find flowS.fab.buckets 7 = some ⟨1920000, 0, [tideQ]⟩ ∧ 0 ≤ tbOf flowS ∧
    fget flowS F.tideFlowb_RATE 7 ≠ 0 ∧ fget flowS F.tideFlowb_BURST 7 ≠ 0 ∧
    tbOf flowS + oneFlit < 2 ^ 64 ∧
    (link linkS 0).queue.find? (fun q => q.tide && q.flit.flow == 7) = none ∧
    (link copyS 0).queue.find? (fun q => q.tide && q.flit.flow == 7) = some tideQ ∧
    fbit linkS F.nodeRbstat_COPY 0 = false ∧ fbit bankS F.nodeRbstat_COPY 0 = true ∧
    bankS.svc.main = [] ∧ bankS.svc.flash = [] := by decide +kernel

/-! Windows, vports and mailboxes. -/

/-- A staged entry (4 KiB at window address 0x5000, local 0x3000) of a vport. -/
def stageS (v : Nat) : State :=
  sets (base 0 0 0) [(F.winStg0_V, 0, 1), (F.winStg0_R, 0, 1), (F.winStg0_LOG2, 0, 12),
    (F.winStg0_WBASE, 0, 5), (F.winStg0_VPORT, 0, v), (F.winStg1_LBASE, 0, 3), (F.winStg1_SRC, 0, 9)]
/-- The same, with vport 5 of quota `q`. -/
def quotaS (q : Nat) : State :=
  { fput (stageS 5) F.vpStat_STATE 5 1 with vps := [(5, { paramOf [] with wquota := q })] }
def busyWin : State := fput (stageS 0) F.winCmd_BUSY 0 1

theorem test_windows :
    runs (.winLoad 7) (stageS 0) (fun t => decide (fget t F.winCmd_STATUS 0 = 0 ∧
      rd t .winA 7 = rd (stageS 0) .winStg0 0 ∧ rd t .winB 7 = rd (stageS 0) .winStg1 0)) = true ∧
    runs .winInsert (stageS 0) (fun t => decide (fget t F.winCmd_INDEX 0 = 0 ∧ fbit t F.winA_V 0 = true)) = true ∧
    runs (.winLoad 7) (fput (stageS 0) F.winStg0_LOG2 0 11) (fun t => decide (fget t F.winCmd_STATUS 0 = 1)) = true ∧
    runs (.winLoad 7) (stageS 5) (fun t => decide (fget t F.winCmd_STATUS 0 = 3)) = true ∧
    runs .winInsert (quotaS 0) (fun t => decide (fget t F.winCmd_STATUS 0 = 2)) = true ∧
    runs (.winInvalidate 0) fabS (fun t => decide (fbit t F.winA_V 0 = false)) = true ∧
    runs (.winInvalidateVport 0) fabS (fun t => decide (fbit t F.winA_V 0 = false)) = true ∧
    runs .winMqRead { fabS with missQ := [5, 6] } (fun t => decide (t.out.word = 5 ∧ t.missQ = [6])) = true := by
  decide +kernel

theorem witness_Windows : fbit busyWin F.winCmd_BUSY 0 = true ∧ fbit (stageS 0) F.winCmd_BUSY 0 = false ∧
    stagedOk (fput (stageS 0) F.winStg0_LOG2 0 11) = false ∧ stagedOk (stageS 5) = true ∧
    stagedOk (fput (stageS 0) F.winStg0_LOG2 0 12) = true ∧
    vpLive (stageS 5) 5 = false ∧ vpLive (stageS 0) 0 = true ∧ vpLive (quotaS 1) 5 = true ∧
    (winOf (quotaS 1) 5 (some 7)).length < quotaOf (quotaS 1) 5 ∧
    quotaOf (quotaS 0) 5 ≤ (winOf (quotaS 0) 5 (some 7)).length ∧
    (winOf (quotaS 1) 5 none).length < quotaOf (quotaS 1) 5 ∧ fbit (quotaS 1) F.winA_V 0 = false ∧
    quotaOf (quotaS 0) 5 ≤ (winOf (quotaS 0) 5 none).length ∧
    (∀ j ∈ winOf (quotaS 0) 5 none, fbit (quotaS 0) F.winA_L j = true) ∧
    fabS.missQ = [] ∧ { fabS with missQ := [5, 6] }.missQ = [5, 6] := by decide +kernel

/-- A parameter block of VM 7 with FREEZE allowed, and a mailbox at 0x1000, with one byte replaced. -/
def block (o : Nat) (x : Byte) : List Byte :=
  (((List.replicate 64 (0 : Byte)).set 0 7).set 3 1 |>.set 33 0x10).set o x
/-- A vport in a state whose VP_ARG names 0x2000, where a block stands. -/
def vpS (st o : Nat) (x : Byte) : State :=
  { sets (base 0 0 0) [(F.vpArg_ADDR, 0, 0x80), (F.vpStat_STATE, 5, st)] with
      mem := cellsAt 0x2000 (block o x), vps := if st = 0 then [] else [(5, paramOf (block o x))] }
/-- A FROZEN vport whose blob stands at 0x2000. -/
def blobS : State :=
  { vpS 2 0 7 with mem := cellsAt 0x2000 (vpBlob (sets (vpS 2 0 7) [(F.vpMdb_M2T_P, 5, 3)]) 5
      (paramOf (block 0 7))) }

theorem test_vport_commands :
    runs (.vpCreate 5) (vpS 0 0 7) (fun t => decide (fget t F.vpCmd_STATUS 0 = 0 ∧
      fget t F.vpStat_STATE 5 = 1 ∧ fget t F.vpStat_VMID 5 = 7 ∧
      (Tab.find t.vps 5).map (fun p => p.mbox) = some 0x1000)) = true ∧
    runs (.vpCreate 5) (vpS 0 2 16) (fun t => decide (fget t F.vpCmd_STATUS 0 = 2)) = true ∧
    runs (.vpCreate 6) (vpS 1 0 7) (fun t => decide (fget t F.vpCmd_STATUS 0 = 3)) = true ∧
    runs (.vpDestroy 5) (vpS 1 0 7) (fun t => decide (fget t F.vpStat_STATE 5 = 0 ∧ t.vps = [])) = true ∧
    runs (.vpFreeze 5) (vpS 1 0 7) (fun t => decide (fget t F.vpStat_STATE 5 = 2 ∧
      curByte t 0x2000 = 0x46 ∧ curByte t 0x2001 = 0x56 ∧ curByte t 0x2004 = 64)) = true ∧
    runs (.vpRestore 5) blobS (fun t => decide (fget t F.vpStat_STATE 5 = 1 ∧
      fget t F.vpMdb_M2T_P 5 = 3)) = true ∧
    runs (.vpThaw 5) (vpS 2 0 7) (fun t => decide (fget t F.vpStat_STATE 5 = 1)) = true ∧
    runs (.vpThaw 5) (vpS 3 0 7) (fun t => decide (fget t F.vpCmd_STATUS 0 = 1)) = true := by
  decide +kernel

theorem witness_VportCommands : VpRow 5 (.vpCreate 5) ∧ (5 : Fin 4096) ≠ 0 ∧
    DevReady (vpS 0 0 7) (0x2000 / 64) ∧
    (fbit (fput (vpS 1 0 7) F.vpCmd_BUSY 0 1) F.vpCmd_BUSY 0 = true ∧
      fbit (vpS 1 0 7) F.vpCmd_BUSY 0 = false ∧
      paramOk (vpS 0 2 16) (block 2 16) = false ∧ paramOk (vpS 0 2 15) (block 2 15) = true ∧
      lineBytes (curLine (vpS 0 0 7) 128) = block 0 7 ∧
      poolBusy (vpS 1 0 7) 6 (paramOf (block 0 7)) = true ∧
      poolBusy (vpS 0 0 7) 5 (paramOf (block 0 7)) = false ∧
      (chansOf (paramOf (block 0 7))).any (chanBusy (vpS 1 0 7)) = false ∧
      fbit (vpS 1 0 7) F.vpStat_REM 5 = false ∧ vpQuiet (vpS 1 0 7) 5 (paramOf (block 0 7)) = true ∧
      vpHeldLines (vpS 1 0 7) 5 = [] ∧ (∀ x ∈ (vpS 1 0 7).homeQ, x.vport ≠ 5) ∧ blobLen (vpS 1 0 7) 5 = 64 ∧ 0x2000 + 64 ≤ visTop (vpS 1 0 7) ∧
      visTop (vpS 0 0 7) < fget (fput (vpS 0 0 7) F.vpArg_ADDR 0 (2 ^ 46 - 1)) F.vpArg_ADDR 0 * 64 + 64) ∧
    (DevReady (vpS 1 0 7) 128 ∧ DevReady blobS 128) ∧
    (blobOk (lineBytes (curLine blobS 128)) 0 0 = true ∧ leAt (lineBytes (curLine blobS 128)) 8 2 = 0 ∧
      leAt (lineBytes (curLine blobS 128)) 10 1 = 0 ∧ fget blobS F.vpStat_STATE 5 = 2) :=
  ⟨.create, by decide, dev_ready _ _ (by decide +kernel), by decide +kernel,
    ⟨dev_ready _ _ (by decide +kernel), dev_ready _ _ (by decide +kernel)⟩, by decide +kernel⟩

/-- A vport with slots in use, REMOTE or not, whose peer is vport 3 of node 2. -/
def mboxS (remote : Bool) : State :=
  let b := (block 3 (if remote then 2 else 1)).set 22 2 |>.set 6 3
  { sets (base 0 0 0) [(F.vpStat_STATE, 5, 1), (F.vpStat_REM, 5, b2n remote), (F.vpMdb_T2M_P, 5, 16),
      (F.vpMdb_M2T_P, 5, 2), (F.vmid_VMID, 0, 7)] with vps := [(5, paramOf b)] }
def mboxMsg (src : Nat) : Msg := { mk src opMsg with addr := 5, data := [9, 0, 0, 0] }

theorem test_mailboxes :
    runs (.vpMdbWrite 5 0x0512) (mboxS false) (fun t => decide (fget t F.vpMdb_T2M_C 5 = 5 ∧
      fget t F.vpMdb_M2T_P 5 = 2 ∧ t.logHeld.map (fun r => (r.code, r.unit)) = [(0x62, 5)])) = true ∧
    runs (.vpMdbWrite 5 0x0010) (mboxS false) (fun t => decide (fget t F.vpMdb_M2T_P 5 = 16)) = true ∧
    runs (.vtDbWrite 0 0 0x0210) (mboxS false) (fun t => decide (fget t F.vpMdb_M2T_C 5 = 2 ∧
      fget t F.vpMdb_T2M_P 5 = 16)) = true ∧
    runs (.msg (mboxMsg 2)) (mboxS true) (fun t => decide (fget t F.vpMdb_M2T_P 5 = 3 ∧
      curByte t 0x1080 = 9)) = true ∧
    runs (.msg (mboxMsg 3)) (mboxS true) (fun t => decide (fget t F.vpMdb_M2T_P 5 = 2 ∧
      t.logHeld.map (fun r => (r.code, r.d0)) = [(0x62, 1)])) = true := by decide +kernel

theorem witness_Mailboxes : idxDiff (fget (mboxS false) F.vpMdb_T2M_P 5) 0 ≤ 16 ∧
    16 < idxDiff (fget (mboxS false) F.vpMdb_T2M_P 5) 0xFF ∧ (0xFF : Nat) ≠ fget (mboxS false) F.vpMdb_T2M_C 5 ∧
    (mboxS false).logHeld = [] ∧ fbit (mboxS false) F.vpStat_REM 5 = false ∧
    fbit (mboxS true) F.vpStat_REM 5 = true ∧ idxDiff 16 (fget (mboxS false) F.vpMdb_M2T_C 5) ≤ 16 ∧
    tenantVport (mboxS false) (fget (mboxS false) F.vmid_VMID 0) 0 = some 5 ∧
    tenantVport (mboxS false) (fget (mboxS false) F.vmid_VMID 0) 1 = none ∧
    (5 : Nat) = (mboxMsg 2).addr.toNat % 4096 ∧ pairedWith (mboxS true) 5 3 = false ∧
    pairedWith (mboxS true) 5 2 = true ∧
    (Tab.find (mboxS true).vps 5).all (fun p => decide (p.mbox + 64 * (fget (mboxS true) F.vpMdb_M2T_P 5 % 16) =
      0x1080 ∧ dirtyBit p 0x1080 = none)) = true ∧
    fget (mboxS true) F.vpMdb_M2T_P 5 = 2 ∧ (mboxS true).fab.deferred = [] ∧ Sound (mboxS false) := by decide +kernel

theorem witness_Mailboxes_home : DevReady (mboxS true) (0x1080 / 64) := dev_ready _ _ (by decide +kernel)

/-! Comet engines. -/

/-- An instruction of four words. -/
def words (w0 a b c : Nat) : List Byte := natLe w0 8 ++ natLe a 8 ++ natLe b 8 ++ natLe c 8
/-- Channel 0 in a state at address 0x1000, where an instruction stands, with other memory, a vector
of its own, and X0 = 0x10. -/
def chanS (st w0 a b c : Nat) (m : List Host.Cell) : State :=
  setChan { sets (base 0 0 0) [(F.cmtStat_STATE, 0, st), (F.cmtCtl_EN, 0, 1), (F.cmtInt_VECTOR, 0, 0x60),
      (F.cmtX_X, 0, 0x10)] with mem := m ++ cellsAt 0x1000 (words w0 a b c) }
    0 { Chan.reset with pc := 0x1000 }
/-- Data at 0x200 to 0x202, and a list of two pairs at 0x300. -/
def datM : List Host.Cell := cellsAt 0x200 [1, 2, 3] ++ cellsAt 0x300
  (natLe 0x200 8 ++ natLe 2 8 ++ natLe 0x202 8 ++ natLe 1 8)

theorem test_comet_data :
    runs (.cmtMove 0) (chanS 2 0x401 0x1F0 0x800 3 datM) (fun t => decide (
      curByte t 0x800 = 1 ∧ curByte t 0x802 = 3 ∧ (chan t 0).pc = 0x1020 ∧ chanSt t 0 = 2)) = true ∧
    runs (.cmtMove 0) (chanS 2 0x101 0x202 0x800 2 datM) (fun t => decide (
      curByte t 0x800 = 3 ∧ curByte t 0x801 = 3)) = true ∧
    runs (.cmtGather 0) (chanS 2 0x002 0x300 0x801 2 datM) (fun t => decide (
      curByte t 0x801 = 1 ∧ curByte t 0x803 = 3)) = true ∧
    runs (.cmtGather 0) (chanS 2 0x102 0x300 0x200 2 (datM ++ cellsAt 0x900 [5])) (fun t => decide (
      curByte t 0x200 = 1 ∧ curByte t 0x202 = 3)) = true ∧
    runs (.cmtSignal 0) (chanS 2 0x605 0x200 0x1FE 0 datM) (fun t => decide (
      curByte t 0x200 = 0xFF ∧ curByte t 0x201 = 3 ∧ pendBit t 0 0x60 = true)) = true ∧
    runs (.cmtMove 0) (chanS 2 0x1001 0 0 0 []) (fun t => decide (chanSt t 0 = 2)) = true ∧
    runs (.cmtMove 0) (chanS 2 0x8001 0x200 0x800 3 []) (fun t => decide (chanSt t 0 = 5 ∧
      fget t F.cmtStat_FKIND 0 = 6)) = true := by decide +kernel

theorem test_comet_flow :
    runs (.cmtLoop 0) (chanS 2 (3 + 2 ^ 32) 3 8 0 []) (fun t => decide ((chan t 0).l0 = 2 ∧
      (chan t 0).pc = 0xFE0 ∧ fget t F.cmtX_X 0 = 0x18)) = true ∧
    runs (.cmtLoop 0) (chanS 2 (3 + 2 ^ 32) 1 8 0 []) (fun t => decide ((chan t 0).l0 = 0 ∧
      (chan t 0).pc = 0x1020 ∧ fget t F.cmtX_X 0 = 0x10)) = true ∧
    runs (.cmtWait 0) (chanS 2 4 0 0 0 []) (fun t => decide (chanSt t 0 = 3)) = true ∧
    runs (.cmtWait 0) (chanS 2 0x104 7 0 0 []) (fun t => decide ((chan t 0).wait = some (.until 7))) = true ∧
    runs (.cmtWait 0) (chanS 2 0x204 0x200 1 0xFF datM) (fun t => decide ((chan t 0).pc = 0x1020)) = true ∧
    runs (.cmtEndProg 0) (chanS 2 0x10F 0 0 0 []) (fun t => decide (chanSt t 0 = 1 ∧
      fbit t F.cmtStat_DONE 0 = true ∧ pendBit t 0 0x60 = true)) = true := by decide +kernel

/-- A channel that waits. -/
def waitC (w : CWait) : State :=
  let s := chanS 3 0x204 0x200 1 0xFF datM
  setChan s 0 { Chan.reset with pc := 0x1000, wait := some w }

theorem test_comet_control :
    runs (.cmtEn 0) (chanS 0 0 0 0 0 []) (fun t => decide (t = chanS 0 0 0 0 0 [])) = true ∧
    runs (.cmtEn 1) (base 0 0 0) (fun t => decide (chanSt t 1 = 1 ∧ fbit t F.cmtCtl_EN 1 = true)) = true ∧
    runs (.cmtGo 0) (fput (chanS 1 0 0 0 0 []) F.cmtProg_ADDR 0 5) (fun t => decide (chanSt t 0 = 2 ∧
      (chan t 0).pc = 0xA0)) = true ∧
    runs (.cmtGo 0) (fput (chanS 1 0 0 0 0 []) F.cmtCtl_HOLD 0 1) (fun t => decide (chanSt t 0 = 4)) = true ∧
    runs (.cmtHold 0 false) (chanS 4 0 0 0 0 []) (fun t => decide (chanSt t 0 = 2)) = true ∧
    runs (.cmtRing 0) (fput (chanS 2 0 0 0 0 []) F.cmtStat_DBCNT 0 0xFE) (fun t => decide (
      fget t F.cmtStat_DBCNT 0 = 0xFF)) = true ∧
    runs (.cmtRing 0) (fput (chanS 2 0 0 0 0 []) F.cmtStat_DBCNT 0 0xFF) (fun t => decide (
      t.logHeld.map (fun r => (r.code, r.d1)) = [(0x61, 3)])) = true ∧
    runs (.cmtResume 0) (chanS 5 0 0 0 0 []) (fun t => decide (chanSt t 0 = 2 ∧ (chan t 0).pc = 0x1000)) = true ∧
    runs (.cmtSkip 0) (chanS 5 0 0 0 0 []) (fun t => decide (chanSt t 0 = 2 ∧ (chan t 0).pc = 0x1020)) = true ∧
    runs (.cmtWaitEnd 0) (waitC (.until 5)) (fun t => decide (chanSt t 0 = 2 ∧ tbOf t = 5)) = true ∧
    runs (.cmtWaitEnd 0) (waitC .value) (fun t => decide (chanSt t 0 = 2)) = true ∧
    runs (.holdPoint 0) (fput (waitC .value) F.cmtCtl_HOLD 0 1) (fun t => decide (chanSt t 0 = 4)) = true ∧
    runs (.quiet 0) (fput (waitC .value) F.cmtStat_QUIET 0 0) (fun t => decide (
      fbit t F.cmtStat_QUIET 0 = true)) = true ∧
    runs (.windowMissRetry 0) (setChan (waitC .value) 0 { Chan.reset with retrying := true })
      (fun t => decide ((chan t 0).retrying = false)) = true := by decide +kernel

theorem witness_CometControl : fbit (chanS 0 0 0 0 0 []) F.cmtCtl_EN 0 = true ∧
    fbit (base 0 0 0) F.cmtCtl_EN 1 = false ∧ CtlRow 1 (.cmtGo 1) ∧ chanSt (chanS 1 0 0 0 0 []) 0 = csIdle ∧
    chanSt (chanS 5 0 0 0 0 []) 0 = csHalted ∧ (chan (chanS 5 0 0 0 0 []) 0).pc + 32 < 2 ^ 64 ∧
    fget (chanS 2 0 0 0 0 []) F.cmtStat_DBCNT 0 < 0xFF ∧
    fget (fput (chanS 2 0 0 0 0 []) F.cmtStat_DBCNT 0 0xFF) F.cmtStat_DBCNT 0 = 0xFF ∧
    (fput (chanS 2 0 0 0 0 []) F.cmtStat_DBCNT 0 0xFF).logHeld = [] :=
  ⟨by decide +kernel, by decide +kernel, .go, by decide +kernel⟩

theorem calm_of (s : State) (h : s.homeQ = [] ∧ s.homeDone = [] ∧ s.lines = [] ∧
    fbit s F.memqMode_INIT 0 = true ∧ s.migrating = none ∧ s.poison = [] ∧ s.bulk = [] ∧
    Sound s) : Calm s := by
  obtain ⟨a, b, l, i, m, p, k, d, g, t, o⟩ := h
  refine ⟨a, b, fun x => ?_, i, m, g, t, o, d, fun x _ => ?_⟩
  · simp [lrec, l, Tab.get, LineRec.none]
  · simp [poisonOf, homePoison, memPoison, lrec, l, Tab.get, LineRec.none, p, k, d, Tab.find, onChan]

theorem chan_at (st w0 a b c : Nat) (m : List Host.Cell)
    (h : mustHold (chanS st w0 a b c m) 0 = false ∧ chanVport (chanS st w0 a b c m) 0 = 0 ∧
      chanSt (chanS st w0 a b c m) 0 = st ∧ (chanS st w0 a b c m).dev.halted = false ∧
      (∀ k < 32, (curLine (chanS st w0 a b c m) 64).extractLsb' (8 * k) 8 = (words w0 a b c).getD k 0) ∧
      (w0 < 2 ^ 64 ∧ a < 2 ^ 64 ∧ b < 2 ^ 64 ∧ c < 2 ^ 64) ∧
      ((chan (chanS st w0 a b c m) 0).prog = false ∧ (chan (chanS st w0 a b c m) 0).retrying = false ∧
        (chan (chanS st w0 a b c m) 0).got = [] ∧ (chan (chanS st w0 a b c m) 0).done = [] ∧
        (chan (chanS st w0 a b c m) 0).bad = none ∧ (chan (chanS st w0 a b c m) 0).pair = none) ∧
      (chan (chanS st w0 a b c m) 0).cur = none ∧
      (chan (chanS st w0 a b c m) 0).pc = 0x1000 ∧ 0x1020 ≤ visTop (chanS st w0 a b c m) ∧
      fbit (chanS st w0 a b c m) F.memqMode_INIT 0 = true) :
    ChanAt (chanS st w0 a b c m) 0 st w0 a b c := by
  obtain ⟨h1, h2, h3, h4, h5, h6, h7, hc, h8, h9, h10⟩ := h
  exact ⟨by decide, h2, h1, h3, h4, h7, .inl hc, calm_of _ ⟨rfl, rfl, rfl, h10, rfl, rfl, rfl, rfl, rfl, rfl, rfl⟩,
    by rw [show ((0 : ChanNo) : Nat) = 0 from rfl, h8], by rw [show ((0 : ChanNo) : Nat) = 0 from rfl, h8]; exact h9,
    fun k hk => by
      rw [show ((0 : ChanNo) : Nat) = 0 from rfl, h8, curByte, show (0x1000 + k) / 64 = 64 by omega,
        show (0x1000 + k) % 64 = k by omega]
      exact h5 k hk, h6⟩

theorem witness_CometData : ChanAt (chanS 2 (1 + 256 * 4) 0x1F0 0x800 3 datM) 0 csRun (1 + 256 * 4) 0x1F0 0x800 3 ∧
    (withBase (chanS 2 (1 + 256 * 4) 0x1F0 0x800 3 datM) 0 0 0x1F0 (bit 4 2) = 0x200 ∧
      apart 0x200 3 0x800 3) ∧
    ChanAt (chanS 2 (1 + 256 * 1) 0x202 0x800 2 datM) 0 csRun (1 + 256 * 1) 0x202 0x800 2 ∧
    ChanAt (chanS 2 (2 + 256 * 0) 0x300 0x801 2 datM) 0 csRun (2 + 256 * 0) 0x300 0x801 2 ∧
    (∀ i < 2, ∀ k < 16, curByte (chanS 2 (2 + 256 * 0) 0x300 0x801 2 datM) (0x300 + 16 * i + k) =
      (natLe ([(0x200, 2), (0x202, 1)].getD i (0, 0)).1 8 ++
        natLe ([(0x200, 2), (0x202, 1)].getD i (0, 0)).2 4 ++ natLe 0 4).getD k 0) ∧
    ChanAt (chanS 2 (5 + 256 * 6) 0x200 0x1FE 0 datM) 0 csRun (5 + 256 * 6) 0x200 0x1FE 0 ∧
    (bitsOf 6 1 0 ≠ 3 ∧ ∀ k < 8, (0x30201 : Word).extractLsb' (8 * k) 8 =
      curByte (chanS 2 (5 + 256 * 6) 0x200 0x1FE 0 datM) (0x200 + k)) :=
  ⟨chan_at _ _ _ _ _ _ (by decide +kernel), ⟨by decide +kernel, by unfold apart; decide⟩,
    chan_at _ _ _ _ _ _ (by decide +kernel), chan_at _ _ _ _ _ _ (by decide +kernel), by decide +kernel, chan_at _ _ _ _ _ _ (by decide +kernel),
    by decide +kernel⟩

theorem witness_CometFlow : ChanAt (chanS 2 (3 + 256 * 0 + 2 ^ 32 * 1) 1 8 0 []) 0 csRun (3 + 256 * 0 + 2 ^ 32 * 1) 1 8 0 ∧
    ChanAt (chanS 2 4 0 0 0 []) 0 csRun 4 0 0 0 ∧ ChanAt (chanS 2 (4 + 256) (2 ^ 40) 0 0 []) 0 csRun (4 + 256) (2 ^ 40) 0 0 ∧
    ChanAt (chanS 2 (4 + 512) 0x200 1 0xFF datM) 0 csRun (4 + 512) 0x200 1 0xFF ∧
    ChanAt (chanS 2 (15 + 256 * 1) 0 0 0 []) 0 csRun (15 + 256 * 1) 0 0 0 ∧
    (CometRow 0 (.cmtMove 0) 1 ∧ 0x10001 % 16 = 1 ∧ bitsOf 0x10001 31 16 ≠ 0 ∧
      ChanAt (chanS 2 0x10001 0 0 0 []) 0 csRun 0x10001 0 0 0) ∧
    (chanSt (waitC (.until 5)) 0 = csWait ∧ (chan (waitC (.until 5)) 0).retrying = false ∧
      mustHold (waitC (.until 5)) 0 = false ∧ (chan (waitC (.until 5)) 0).wait = some (.until 5) ∧
      (chan (waitC .doorbell) 0).wait = some .doorbell ∧
      fget (fput (waitC .doorbell) F.cmtStat_DBCNT 0 1) F.cmtStat_DBCNT 0 ≠ 0 ∧
      fbit (fput (waitC .value) F.cmtCtl_HOLD 0 1) F.cmtCtl_HOLD 0 = true ∧
      fbit (waitC .value) F.cmtCtl_HOLD 0 = false) ∧
    (64 ≤ (64 : ChanNo).val ∧ canonical (2 ^ 56) = false ∧
      chanSt (fput (base 0 0 0) F.cmtStat_STATE 64 2) 64 = csRun ∧
      mustHold (fput (base 0 0 0) F.cmtStat_STATE 64 2) 64 = false) :=
  ⟨chan_at _ _ _ _ _ _ (by decide +kernel), chan_at _ _ _ _ _ _ (by decide +kernel),
    chan_at _ _ _ _ _ _ (by decide +kernel), chan_at _ _ _ _ _ _ (by decide +kernel),
    chan_at _ _ _ _ _ _ (by decide +kernel),
    ⟨.move, by decide, by decide, chan_at _ _ _ _ _ _ (by decide +kernel)⟩, by decide +kernel, by decide +kernel⟩

/-! Time. -/

/-- A machine at a time. -/
def atTb (s : State) (n : Nat) : State := wr s .tbVal 0 (BitVec.ofNat 64 n)

/-- Generator 3 with period 2000 and phase 300 at TB = 2300; capture channel 0 takes falling edges of
PPS_IN, channel 1 the generator. -/
def pegS (tb : Nat) : State :=
  sets (atTb (base 0 0 0) tb) [(F.pegBase_PERIOD, 0, 1000), (F.pegCfg_EN, 3, 1),
    (F.pegCfg_MULT, 3, 2), (F.pegCfg_PHASE, 3, 300), (F.capCfg_SRC, 0, 5), (F.capCfg_EDGE, 0, 2),
    (F.capCfg_SRC, 1, 0x13), (F.toutCfg_EN, 2, 1), (F.toutCfg_PEG, 2, 3), (F.toutCfg_WIDTH, 2, 40)]
def pulseS : State :=
  let s := pegS 2300
  { s with time := { s.time with tout := [(2, (true, some 2340))], pps := some 5000 } }

theorem test_generators :
    runs (.pegEvent 3) (pegS 2300) (fun t => decide (tbOf t = 4300 ∧ caps t 1 = [(4300, false)] ∧
      Tab.find t.time.tout 2 = some (true, some 4340))) = true ∧
    runs (.pegEvent 3) (pegS 299) (fun t => decide (tbOf t = 300)) = true ∧
    runs (.pegCfgWrite none 999) (pegS 0) (fun t => decide (fget t F.pegBase_PERIOD 0 = 1000)) = true ∧
    runs (.pegCfgWrite none 1001) (pegS 0) (fun t => decide (fget t F.pegBase_PERIOD 0 = 1001)) = true ∧
    runs (.pegCfgWrite (some 3) (2 ^ 48 + 1000)) (pegS 0) (fun t => decide (fget t F.pegCfg_PHASE 3 = 300 ∧
      fget t F.pegCfg_MULT 3 = 1 ∧ fbit t F.pegCfg_EN 3 = false)) = true ∧
    runs (.pegCfgWrite (some 3) (2 ^ 48 + 999)) (pegS 0) (fun t => decide (fget t F.pegCfg_PHASE 3 = 999)) = true ∧
    runs (.stagger 0x7) (sets (pegS 0) [(F.pegCfg_MULT, 0, 1), (F.pegCfg_MULT, 1, 1), (F.pegCfg_MULT, 2, 1)])
      (fun t => decide (fget t F.pegCfg_PHASE 1 = 333 ∧ fget t F.pegCfg_PHASE 2 = 666)) = true ∧
    runs (.stagger 0xC) (pegS 0) (fun t => decide (fget t F.pegCtl_SERR 0 = 1)) = true ∧
    runs (.timeOutPulseEnd 2) pulseS (fun t => decide (Tab.find t.time.tout 2 = some (false, none) ∧
      tbOf t = 2340)) = true ∧
    runs .ppsOutFall pulseS (fun t => decide (t.time.pps = none ∧ tbOf t = 5000)) = true ∧
    runs .ppsOutRise (fput (atTb (base 0 0 0) 2300) F.tbSync_PPSO 0 1) (fun t => decide (tbOf t = 1000000000 ∧
      t.time.pps = some 1100000000)) = true := by decide +kernel

/-- Two generators whose events coincide both fire at that time, whichever event is given; a pulse ends in
between, at its time (R403, R409). -/
theorem test_coincident_generators : runs (.pegEvent 4)
      (sets (pegS 2300) [(F.pegCfg_EN, 4, 1), (F.pegCfg_MULT, 4, 2), (F.pegCfg_PHASE, 4, 300),
        (F.capCfg_SRC, 0, 0x14)] |> fun s => setDues s (fun _ => true))
    (fun t => decide (tbOf t = 4300 ∧ caps t 0 = [(4300, false)] ∧ caps t 1 = [(4300, false)])) = true ∧
    runs (.pegEvent 3) pulseS (fun t => decide (Tab.find t.time.tout 2 = some (true, some 4340))) = true := by
  decide +kernel

theorem witness_Generators : fbit (base 0 0 0) F.pegCfg_EN 3 = false ∧ fbit (pegS 2300) F.pegCfg_EN 3 = true ∧
    0 < pegPeriod (pegS 2300) 3 ∧ pegDue (pegS 2300) 3 (tbOf (pegS 2300)) < 2 ^ 64 ∧
    (upto 16).filter (fun n => (0xC : BitVec 16).getLsbD n) ≠ [] ∧
    Tab.find pulseS.time.tout 2 = some (true, some 2340) ∧ Tab.find pulseS.time.tout 1 = none ∧
    ((pegS 2300).time.sec + 1) * 1000000000 < 2 ^ 64 ∧ (pegS 2300).time.pps = none ∧
    pulseS.time.pps = some 5000 ∧ 5000 < (pulseS.time.sec + 1) * 1000000000 ∧
    fget pulseS F.toutCfg_PEG 2 = 3 ∧ 2340 < pegDue pulseS 3 (tbOf pulseS) := by decide +kernel

/-- Channel 0 with `n` captures. -/
def capS (n : Nat) : State :=
  let s := fput (pegS 2300) F.capCfg_COUNT 0 n
  { s with time := { s.time with caps := [(0, (upto n).map (fun i => (i + 1, false)))] } }

theorem test_captures :
    runs (.ppsIn false) (capS 0) (fun t => decide (caps t 0 = [(2300, false)])) = true ∧
    runs (.ppsIn false) (capS 4) (fun t => decide (caps t 0 = [(1, false), (2, false), (3, false), (4, true)] ∧
      fbit t F.capCfg_OVF 0 = true)) = true ∧
    runs (.timeIn 1 true) (sets (capS 3) [(F.capCfg_SRC, 0, 2), (F.capCfg_EDGE, 0, 1)])
      (fun t => decide ((caps t 0).length = 4 ∧ fget t F.capCfg_COUNT 0 = 4)) = true ∧
    runs (.capCfgWrite 0 0x206) (capS 2) (fun t => decide (caps t 0 = [] ∨ fget t F.capCfg_SRC 0 = 5)) = true ∧
    runs (.capCfgWrite 0 0x204) (capS 2) (fun t => decide (caps t 0 = [] ∧ fget t F.capCfg_SRC 0 = 4 ∧
      fget t F.capCfg_COUNT 0 = 0)) = true ∧
    runs (.capHeadRead 0) (capS 2) (fun t => decide (t.out.word = 1 ∧ caps t 0 = [(2, false)])) = true ∧
    runs (.capHeadRead 0) (capS 0) (fun t => decide (t.out.word = 0x8000000000000000)) = true ∧
    runs (.tbValRead none none) (pegS 0x500000007) (fun t => decide (t.out.word = 7 ∧
      Tab.get 0 t.time.latch 128 = 5)) = true := by decide +kernel

/-- A read at a full queue makes room for a capture of its own tick, and at a queue that was empty before the
tick finds nothing (R408). -/
theorem test_read_before_capture :
    runs (.capHeadRead 0) (after (.ppsIn false) (capS 4)) (fun t => decide (t.out.word = 1 ∧
      caps t 0 = [(2, false), (3, false), (4, false), (2300, false)])) = true ∧
    runs (.capHeadRead 0) (after (.ppsIn false) (capS 0)) (fun t => decide (t.out.word = 0x8000000000000000 ∧
      caps t 0 = [(2300, false)])) = true := by decide +kernel

theorem witness_Captures : Tab.find (capS 2).time.dropped 0 = none ∧ seen (capS 2) 0 ≠ [] ∧
    (Tab.find (after (.ppsIn false) (capS 4)).time.dropped 0).map (fun d => (d.1, d.2.1)) = some (2300, 1) ∧
    seen (after (.ppsIn false) (capS 4)) 0 ≠ [] ∧
    Tab.find (after (.ppsIn false) (capS 4)).time.popped 0 ≠ some 2300 ∧ EdgeRow (.ppsIn false) 5 false ∧ fget (capS 4) F.capCfg_SRC 0 = 5 ∧
    bit (fget (capS 4) F.capCfg_EDGE 0) 1 = true ∧ (caps (capS 3) 0).length < 4 ∧
    4 ≤ (caps (capS 4) 0).length ∧ (caps (capS 4) 0).getLast? = some (4, false) ∧
    ¬(fget (capS 4) F.capCfg_SRC 1 = 5) :=
  ⟨by decide +kernel, by decide +kernel, by decide +kernel, by decide +kernel, by decide +kernel, .ppsIn,
    by decide +kernel⟩

/-- A FOLLOW node of port 0, which is UP, with a number of small offsets in succession, and a TSYNC
message. -/
def syncS (tb good : Nat) : State :=
  let s := sets (atTb linkS tb) [(F.tbSync_MODE, 0, 2), (F.tbSync_PORT, 0, 0)]
  { s with time := { s.time with good := good } }
def tsyncMsg (v : Nat) : Msg := { mk 9 opTsync with data := [BitVec.ofNat 128 (v + 3 * 2 ^ 64)] }
/-- A ROOT node that PPS_IN steers, and a node with a waiting TIME_SET. -/
def rootS (tb : Nat) : State :=
  sets (atTb (base 0 0 0) tb) [(F.tbSync_MODE, 0, 1), (F.tbSync_PPSD, 0, 1)]
def setS : State :=
  let s := atTb (base 0 0 0) 2300
  { s with time := { s.time with timeSet := some (⟨.i3c, 0, 0, []⟩, 7000, 2000) } }

theorem test_discipline :
    runs (.tsync (tsyncMsg 4050)) (syncS 4000 7) (fun t => decide (tbOf t = 4000 ∧
      fbit t F.tbSync_LOCK 0 = true ∧ fget t F.tbSync_STRAT 0 = 4)) = true ∧
    runs (.tsync (tsyncMsg 4051)) (syncS 4000 7) (fun t => decide (t.time.good = 0 ∧
      fbit t F.tbSync_LOCK 0 = false)) = true ∧
    runs (.tsync (tsyncMsg 5001)) (syncS 4000 7) (fun t => decide (tbOf t = 5001 ∧ t.time.good = 0)) = true := by
  decide +kernel

theorem test_root : runs .tsyncHold (syncS 4000 7) (fun t => decide (fbit t F.tbSync_HOLD 0 = true)) = true ∧
    runs (.ppsIn true) (rootS 999998000) (fun t => decide (tbOf t = 1000000000)) = true ∧
    runs (.ppsIn true) (rootS 999999500) (fun t => decide (tbOf t = 999999500 ∧ fbit t F.tbSync_LOCK 0 = true)) = true := by
  decide +kernel

/-- A node without an ID sends no TSYNC (R241). -/
theorem test_tsync_silent : runs .tsyncInterval (fput State.reset F.tbSync_TXEN 0 1) (fun t => decide (
    t.outbox = [])) = true := by decide +kernel

theorem test_time_set : runs (.ppsIn true) setS (fun t => decide (t.time.timeSet = none ∧ tbOf t = 7000)) = true ∧
    runs .timeSetTimeout setS (fun t => decide (t.time.timeSet = none ∧ tbOf t = 2000002000)) = true := by
  decide +kernel

theorem witness_TimeDiscipline : fget (pegS 0) F.tbSync_MODE 0 ≠ 2 ∧ fget (syncS 4000 7) F.tbSync_MODE 0 = 2 ∧
    fget (syncS 4000 7) F.tbSync_PORT 0 = (tsyncMsg 5001).port.val ∧
    portUp (syncS 4000 7) (tsyncMsg 5001).port = true ∧
    bitsOf ((tsyncMsg 5001).data.getD 0 0).toNat 71 64 = 3 ∧
    fbit (pegS 0) F.tbSync_TXEN 0 = false ∧ fbit (fput (syncS 4000 7) F.tbSync_TXEN 0 1) F.tbSync_TXEN 0 = true ∧
    (rootS 999998000).time.timeSet = none ∧ fget (rootS 999998000) F.tbSync_MODE 0 = 1 ∧
    fbit (rootS 999998000) F.tbSync_PPSD 0 = true ∧ 500000000 < tbOf (rootS 999998000) % 1000000000 ∧
    tbOf (rootS 999998000) % 1000000000 < 999999000 ∧ tbOf (rootS 500000001) % 1000000000 = 500000001 ∧
    setS.time.timeSet = some (⟨.i3c, 0, 0, []⟩, 7000, 2000) ∧ fget setS F.tbSync_MODE 0 ≠ 1 ∧
    2000 + 2000000000 < 2 ^ 64 ∧ selfId (fput (syncS 4000 7) F.tbSync_TXEN 0 1) ≠ 0xFFFF ∧
    selfId (fput State.reset F.tbSync_TXEN 0 1) = 0xFFFF := by decide +kernel

/-! Memory channels, repair, logs and mailboxes. -/

/-- Group-parity mode or not, with the spare of quadrant 0 in a state for channel `ch`. -/
def memqS (par : Bool) (sp ch : Nat) : State :=
  sets (base 0 0 0) [(F.memqMode_PMODE, 0, b2n par), (F.memqStat_SPARE, 0, sp), (F.memqStat_SPCH, 0, ch)]
/-- `memqS` in which channel 3 is degraded while it is rebuilt. -/
def degS : State := { sets (memqS true 1 3) [(F.memqStat_FLCH, 0, 3), (F.memqStat_DEGR, 0, 1)] with degraded := [3] }

theorem test_dram :
    runs (.channelFailed 0 3 0) (memqS true 0 0) (fun t => decide (t.degraded = [3] ∧
      fget t F.memqStat_SPARE 0 = 1 ∧ fget t F.memqStat_SPCH 0 = 3)) = true ∧
    runs (.channelFailed 0 3 0) (memqS false 0 0) (fun t => decide (t.bulk = [3] ∧
      fget t F.memqStat_SPARE 0 = 2 ∧ t.keep.chans = [3])) = true ∧
    runs (.channelFailed 0 4 0) (memqS false 2 3) (fun t => decide (t.deadCh = [4] ∧
      fbit t F.memqStat_DEGR 0 = true)) = true ∧
    runs (.channelFailed 0 16 0) (memqS true 0 0) (fun t => decide (fget t F.memqStat_SPARE 0 = 3)) = true ∧
    runs (.rebuildFrame 0) degS (fun t => decide (fget t F.memqStat_RPTR 0 = 16)) = true ∧
    runs (.rebuildDone 0) degS (fun t => decide (fget t F.memqStat_SPARE 0 = 2 ∧ t.degraded = [] ∧
      t.keep.chans = [3] ∧ fbit t F.memqStat_DEGR 0 = false)) = true ∧
    runs .dramInitDone { State.reset with mem := [(0x100, 7)] } (fun t => decide (t.mem = [] ∧
      fbit t F.memqMode_INIT 0 = true)) = true ∧
    runs (.zqCalibration 0 3 true) (memqS true 0 0) (fun t => decide (fget t F.calMstat_ZQCNT 3 = 2)) = true ∧
    runs (.writePathUpdate 0 3 true 9) (memqS true 0 0) (fun t => decide (fget t F.calMstat_WUPD 3 = 1 ∧
      fget t F.calMstat_DRIFT 3 = 9)) = true ∧
    runs (.zqCalibration 0 3 false) (memqS true 0 0) (fun t => decide (t.calBad = [3] ∧ t.degraded = [])) = true ∧
    runs (.writePathUpdate 0 3 false 9) { memqS true 0 0 with calBad := [3] } (fun t => decide (
      t.calBad = [] ∧ t.degraded = [3])) = true ∧
    runs (.equaliserUpdate 0 5) linkS (fun t => decide ((link t 0).ctrls = [.equalise 5])) = true := by
  decide +kernel

/-- The rebuild of `degS` at its last frame; and channel 3 in check-only mode, moved to the spare. -/
def lastS : State := fput degS F.memqStat_RPTR 0 (2 ^ 26 - 16)
def rewS : State := sets (memqS false 2 3) [(F.memqStat_FLCH, 0, 3), (F.memqStat_DEGR, 0, 1)]

theorem test_rebuild_ends :
    runs (.rebuildFrame 0) lastS (fun t => decide (t.rebuilt = [0] ∧ fget t F.memqStat_RPTR 0 = 0)) = true ∧
    runs (.rebuildFrame 0) { lastS with rebuilt := [0] } (fun t => decide (
      fget t F.memqStat_RPTR 0 = 2 ^ 26 - 16)) = true ∧
    runs (.uncorrRewriteDone 0) rewS (fun t => decide (fbit t F.memqStat_DEGR 0 = false)) = true := by
  decide +kernel

theorem witness_Rebuild : degS.degraded = [16 * 0 + fget degS F.memqStat_SPCH 0] ∧ degS.bad = [] ∧
    0 ∉ degS.rebuilt ∧ 0 ∈ { lastS with rebuilt := [0] }.rebuilt ∧
    2 ^ 26 ≤ fget lastS F.memqStat_RPTR 0 + 16 ∧ fget rewS F.memqStat_SPARE 0 = 2 ∧
    fbit rewS F.memqMode_PMODE 0 = false ∧ 3 ∉ rewS.deadCh ∧
    fget rewS F.memqStat_FLCH 0 = fget rewS F.memqStat_SPCH 0 ∧
    fget (memqS false 2 3) F.memqStat_SPARE 0 ≠ 0 ∧ ownPhys (memqS false 2 3) 0 4 = true := by decide +kernel

theorem witness_DramEvents : (ownPhys (memqS true 2 3) 0 3 = false ∧ ownPhys (memqS true 0 0) 0 3 = true ∧
    fbit (memqS true 0 0) F.memqMode_PMODE 0 = true ∧ fbit (memqS false 0 0) F.memqMode_PMODE 0 = false ∧
    3 ∈ degS.degraded ∧ physIdx 0 3 ∈ { memqS true 0 0 with calBad := [3] }.calBad ∧
    fget degS F.memqStat_SPARE 0 = 1 ∧ degS.dev.ps1 = false ∧ degS.twin = [] ∧
    fget degS F.memqStat_FLCH 0 = fget degS F.memqStat_SPCH 0 ∧ fbit State.reset F.memqMode_INIT 0 = false ∧
    fbit (base 0 0 0) F.memqMode_INIT 0 = true ∧ State.reset.homeQ = [] ∧ portUp linkS 0 = true ∧
    portUp State.reset 0 = false) ∧ FailedStep 0 3 (.zqCalibration 0 3 false) ∧
    retrains (fput State.reset F.calMstat_REC (physIdx 0 3) 1) 0 3 1 :=
  ⟨by decide +kernel, .zq, by unfold retrains; decide +kernel⟩

theorem test_training_fails_once : runs (.channelFailed 0 3 1) (fput State.reset F.calMstat_REC (physIdx 0 3) 1)
      (fun t => decide (fbit t F.calMstat_REC (physIdx 0 3) = false ∧ t.deadCh = [] ∧ t.degraded = [])) = true := by
  decide +kernel

/-- The spare slice in a state; a column copy that runs; a slice array whose columns are used up; and a
live update at moon core `u`. -/
def sliceS (sst : Nat) : State := fput (base 0 0 0) F.fltSlstat_SST 0 sst
def migrS : State := { sliceS 1 with migrating := some (5, 0) }
def copyC : State := { base 0 0 0 with copying := [(0x30, 0, 1, 2)] }
def fullS (ways : List (Nat × Nat × Nat)) : State :=
  { base 0 0 0 with keep := { Keep.blank with columns := [(0x10, 5, 1, 2), (0x10, 5, 1, 3)], ways := ways } }
def moonS (u : Nat) : State :=
  let s := sets (base 0 0 0) [(F.fltMoon_UPD, 0, 2), (F.fltMoon_UCORE, 0, u), (F.fltMoon_ST, 0, 4 ^ u)]
  { s with svc := { Svc.reset with live := some (1, 2) } }

theorem test_repair :
    runs (.sliceMigration 5) (sliceS 0) (fun t => decide (t.migrating = some (5, 0) ∧
      fget t F.fltSlstat_SST 0 = 1)) = true ∧
    runs .sliceMigrated migrS (fun t => decide (t.keep.slice = some 5 ∧ fget t F.fltSlstat_SST 0 = 2)) = true ∧
    runs (.columnRepair 0x30 0 1 2 0) (base 0 0 0) (fun t => decide (t.copying = [(0x30, 0, 1, 2)])) = true ∧
    runs (.columnRepair 0x10 5 1 4 6) (fullS []) (fun t => decide (t.keep.ways = [(0x10, 5, 6)])) = true ∧
    runs (.columnRepair 0x10 5 1 4 6) (fullS [(0x10, 5, 6)]) (fun t => decide (t.migrating = some (5, 0))) = true ∧
    runs (.columnRepairDone 0x30 0 1 2) copyC (fun t => decide (t.keep.columns = [(0x30, 0, 1, 2)] ∧
      fget t F.spdStat_FREP 0 = 1)) = true ∧
    runs (.moonLost 1 true) (base 0 0 0) (fun t => decide (moonSt t 1 = 2 ∧ t.dev.halted = false)) = true ∧
    runs (.moonCoreChange true) (moonS 2) (fun t => decide (moonSt t 1 = 1 ∧ moonSt t 2 = 0)) = true ∧
    runs (.moonCoreChange true) (moonS 0) (fun t => decide (fget t F.fltMoon_UPD 0 = 3 ∧
      fget t F.fltMoon_IMGSEQ 0 = 2)) = true ∧
    runs (.moonCoreChange false) (moonS 2) (fun t => decide (fget t F.fltMoon_UPD 0 = 4)) = true := by
  decide +kernel

/-- A second slice fails while the first one moves, and finds no spare once that is in service. -/
def twoS : State := { migrS with needSpare := [6] }

theorem test_second_slice :
    runs (.sliceMigration 6) (fput migrS F.fltSlstat_MSLICE 0 5) (fun t => decide (t.needSpare = [6])) = true ∧
    runs .sliceMigrated twoS (fun t => decide (t.dev.halted = true ∧ fget t F.fltFatal_CODE 0 = 2 ∧
      fget t F.fltFatal_UNIT 0 = 6)) = true := by decide +kernel

theorem witness_SecondSlice : twoS.migrating = some (5, 0) ∧ twoS.homeQ = [] ∧ twoS.needSpare = [6] ∧
    migrS.needSpare = [] ∧ fget (fput migrS F.fltSlstat_MSLICE 0 5) F.fltSlstat_MSLICE 0 ≠ 6 := by decide +kernel

theorem test_fatal : runs (.fatal (.therm (some 3))) (base 0 0 0) (fun t => decide (t.dev.halted = true ∧
      t.dev.thermtrip = true ∧ fget t F.fltFatal_CODE 0 = 6 ∧ fget t F.fltFatal_UNIT 0 = 3)) = true := by
  decide +kernel

theorem witness_DeviceRepair : (fget (sliceS 0) F.fltSlstat_SST 0 = 0 ∧ fget (sliceS 1) F.fltSlstat_SST 0 = 1 ∧
    2 ≤ fget (sliceS 2) F.fltSlstat_SST 0 ∧ migrS.migrating = some (5, 0) ∧ migrS.homeQ = [] ∧
    secded 0x01 = false ∧ secded 0x30 = true ∧ colsUsed (base 0 0 0) 0x30 0 1 2 < 4 ∧
    colsUsed (fullS []) 0x10 5 1 4 = 2 ∧ wayFree (fullS []) 0x10 5 6 = true ∧ wayFree (base 0 0 0) 0x30 0 0 = false ∧
    arrayKind 0x10 = kSlice ∧ arrayKind 0x18 ≠ kSlice ∧ wayFree (fullS [(0x10, 5, 6)]) 0x10 5 6 = false ∧
    (0x30, 0, 1, 2) ∈ copyC.copying ∧ moonSt (moonS 0) 1 ≠ 2 ∧
    moonSt (after (.moonLost 1 true) (base 0 0 0)) 1 = 2 ∧
    fget (moonS 0) F.fltMoon_UPD 0 = 2 ∧ (moonS 0).svc.live = some (1, 2) ∧ nextMoon (moonS 2) 2 = some 1 ∧
    (moonS 2).svc.main = [] ∧ (moonS 2).svc.flash = [] ∧ (fullS []).lines = []) ∧
    FatalCode .refclk 4 kDevice 0 := ⟨by decide +kernel, .refclk⟩

/-- A log record that waits, and the log ring at 0x4000; the reply and request rings at 0x8000 and
0xC000; a key being shifted in. -/
def rec1 (n : Option Nat) : LogRec := ⟨5, n, 0x10, 1, 1, 2, 3, 1, 0x99, 0, 0, 0⟩
def logS (n : Option Nat) : State :=
  { sets (base 0 0 0) [(F.fltLogRing_BASE, 0, 4), (F.fltLogRing_EN, 0, if n = none then 0 else 1)] with
      logHeld := [rec1 n], logSeq := 8 }
def rspS : State :=
  let s := sets (base 0 0 0) [(F.svcRsp_BASE, 0, 8), (F.svcRsp_EN, 0, 1)]
  { s with svc := { Svc.reset with rspHeld := [List.replicate 256 3] } }
def reqS : State :=
  let s := sets (base 0 0 0) [(F.svcReq_BASE, 0, 12), (F.svcReq_EN, 0, 1), (F.svcReqidx_WIDX, 0, 1)]
  { s with dev := { Dev.reset with service := true } }
def keyS : State := { base 0 0 0 with svc := { Svc.reset with keyw := [1, 2, 3, 4] } }

theorem test_rings :
    runs .mergeWindowClose (logS none) (fun t => decide (t.logHeld = [rec1 (some 8)] ∧ tbOf t = 1000005)) = true ∧
    runs (.fltLogIdxWrite 0) (logS (some 8)) (fun t => decide (t.logHeld = [] ∧ fget t F.fltLogIdx_WIDX 0 = 1 ∧
      curByte t 0x4000 = 5)) = true ∧
    runs (.svcRspidxWrite 0) rspS (fun t => decide (t.svc.rspHeld = [] ∧ curByte t 0x8000 = 3 ∧
      curByte t 0x80FF = 3)) = true ∧
    runs (.svcReqidxWrite 0x100000000) reqS (fun t => decide (fget t F.svcReqidx_RIDX 0 = 1 ∧
      t.svc.rspHeld.map (fun r => fieldAt r 26 2) = [1])) = true ∧
    runs (.svcKeywWrite 5) keyS (fun t => decide (t.svc.keyw = [2, 3, 4, 5])) = true ∧
    runs .keySet keyS (fun t => decide (fbit t F.svcKey_HELD 0 = true ∧ t.keep.key = some
      (natLe 1 8 ++ natLe 2 8 ++ natLe 3 8 ++ natLe 4 8))) = true ∧
    runs .keyErase keyS (fun t => decide (fbit t F.svcKey_HELD 0 = false ∧ t.keep.key = none)) = true := by
  decide +kernel

theorem witness_RingsAndKeys : (logS none).logHeld.find? (fun r => decide (r.seq = none)) = some (rec1 none) ∧
    fbit (logS none) F.fltLogRing_EN 0 = false ∧ (∀ k < 16, fbit (logS none) F.pegCfg_EN k = false) ∧ (rec1 none).tb + 1000000 < 2 ^ 64 ∧
    logRoom (regWrite (logS (some 8)) .fltLogIdx 0 0) = true ∧
    logRoom (regWrite (logS none) .fltLogIdx 0 0) = false ∧ rspRoom (regWrite rspS .svcRspidx 0 0) = true ∧
    reqReady (regWrite reqS .svcReqidx 0 0x100000000) = true ∧ reqReady (regWrite reqS .svcReqidx 0 0) = false ∧
    fget (regWrite reqS .svcReqidx 0 0x100000000) F.svcReqidx_WIDX 0 = 1 ∧ fbit reqS F.svcRsp_EN 0 = false ∧
    keyS.svc.keyw = [1, 2, 3, 4] ∧ fbit keyS F.svcKey_HELD 0 = false ∧
    fbit (after .keySet keyS) F.svcKey_HELD 0 = true := by decide +kernel

theorem witness_RingsAndKeys_homes : DevReady (logS (some 8)) (0x4000 / 64) ∧ DevReady rspS (0x8000 / 64 + 3) ∧
    DevReady reqS (0xC000 / 64 + 0) := by
  refine ⟨dev_ready _ _ ?_, dev_ready _ _ ?_, dev_ready _ _ ?_⟩ <;> decide +kernel

/-- The I3C target with an address, two replies and interrupts raised. -/
def i3cS : State :=
  { base 0 0 0 with svc := { Svc.reset with addr := some 9, replies := [[1, 2], [3]], ibi := true, ibiRaised := some 1 } }
/-- The same with 4 requests held. -/
def fullI3c : State := { i3cS with svc := { i3cS.svc with i3cq := [[1], [2], [3], [4]] } }

theorem test_i3c :
    runs (.entdaa 9) (base 0 0 0) (fun t => decide (t.svc.addr = some 9 ∧ t.out.bytes.length = 8)) = true ∧
    runs (.setdasa 8) (base 0 0 0) (fun t => decide (t.svc.addr = some 8)) = true ∧
    runs .rstdaa i3cS (fun t => decide (t.svc.addr = none)) = true ∧
    runs .enec (base 0 0 0) (fun t => decide (t.svc.ibi = true)) = true ∧
    runs .disec i3cS (fun t => decide (t.svc.ibi = false)) = true ∧
    runs (.i3cPrivateRead true) i3cS (fun t => decide (t.out.bytes = [1, 2] ∧ t.svc.replies = [[3]] ∧
      t.svc.ibiRaised = none)) = true ∧
    runs (.i3cPrivateRead false) i3cS (fun t => decide (t = i3cS)) = true ∧
    [(Instr.getbcr, [(6 : Byte)]), (.getdcr, [0]), (.getmwl, [0, 224]), (.getmrl, [0, 224]),
     (.getpid, [0, 0, 0, 0, 0, 0])].all (fun r => runs r.1 i3cS (fun t => decide (t.out.bytes = r.2))) = true ∧
    runs .getstatus i3cS (fun t => decide (t.out.bytes.length = 2)) = true ∧
    runs (.i3cPrivateWrite (List.replicate 31 0)) i3cS (fun t => decide (t = i3cS)) = true ∧
    runs (.i3cPrivateWrite (List.replicate 32 0)) i3cS (fun t => decide (t.svc.i3cq = [List.replicate 32 0])) = true ∧
    runs (.i3cPrivateWrite (List.replicate 32 0)) fullI3c (fun t => decide (t.out.nack = true ∧
      t.svc.i3cq.length = 4)) = true := by decide +kernel

theorem witness_I3cTarget : i3cTakes i3cS = true ∧ i3cTakes fullI3c = false ∧ i3cOn fullI3c = true ∧ CccRow i3cS .getmwl [0, 224] ∧ i3cOn i3cS = true ∧ i3cOn State.reset = false ∧
    State.reset.svc.addr = none ∧ State.reset.dev.off = false ∧ (after .pwrGoodFall State.reset).dev.off = true ∧
    i3cS.svc.replies = [[1, 2], [3]] ∧ i3cOn { i3cS with svc := { i3cS.svc with replies := [] } } = true :=
  ⟨by decide +kernel, by decide +kernel, by decide +kernel, .getmwl, by decide +kernel⟩

/-! Command packets and their commands. -/

/-- The state that an accepted request leaves: what its row does once its packet has passed the checks (R382). -/
def accepted (op : Nat) (k : Command) (s : State) : State := accept s op k
def given (op : Nat) (k : Command) (s : State) (p : State → Bool) : Bool := p (accepted op k s)

/-- Requests and states with the status that each is answered with. -/
def answers (rows : List (Nat × Command × State × Nat)) : Bool :=
  rows.all (fun r => given r.1 r.2.1 r.2.2.1 (fun t => decide (st t = some r.2.2.2)))

theorem test_requests : runs (.portStatus (req [(0, 2)])) { linkS with svc := Svc.reset } (fun t => decide (st t = some 7)) = true ∧
    runs (.identify (req [])) linkS (fun t => decide (st t = some 0)) = true ∧
    runs (.portStatus (req [(0, 1)])) (cmdS []) (fun t => decide (st t = some 9 ∧
      fget t F.svcCstat_HSEQ 0 = 9)) = true ∧
    answers [(0x11, req [(1, 2)], cmdS [], 10)] = true := by decide +kernel

/-- An I3C target, and a packet that asks for PORT_STATUS with the MAC that agrees. -/
def macS : State := { cmdS [] with svc := { Svc.reset with addr := some 9 } }
def pkt (op flags seq : Nat) (mac : List Byte) : List Byte :=
  natLe 0x5645 2 ++ natLe op 2 ++ natLe 4 2 ++ natLe flags 2 ++ natLe 2 2 ++ natLe 0 2 ++ natLe seq 4 ++ mac ++ [0, 0]
def goodMac : List Byte := pktMac macS (parsePkt (pkt 0x11 0 3 (natLe 0 16)))
/-- The status of the newest reply pending at the I3C target, which takes a packet. -/
def i3cSt (s : State) (bs : List Byte) : Option Nat :=
  (pumpI3c { s with svc := { s.svc with i3cq := [bs] } }).svc.replies.getLast?.map (fun r => fieldAt r 10 2)

theorem test_packets :
    [(pkt 0x11 1 3 (natLe 0 16), macS, 1), (pkt 0x11 0 3 (natLe 0 16), macS, 3), (pkt 0x11 0 3 goodMac, macS, 0),
     (pkt 1 0 0 (natLe 0 16), macS, 0), (pkt 0x11 0 3 goodMac, fput macS F.svcCstat_HSEQ 0 3, 4),
     (pkt 0x11 0 3 goodMac, fput macS F.svcKey_HELD 0 0, 2)].all (fun r =>
      decide (i3cSt r.2.1 r.1 = some r.2.2)) = true := by decide +kernel

theorem test_cmd_message : runs (.cmd { mk 2 opCmd with data := [0] }) (cmdS []) (fun t => decide (
      t.logHeld.map (fun r => (r.code, r.d0)) = [(0x43, 3)])) = true := by decide +kernel

/-- The MAC of a packet does not depend on the MAC that it holds. -/
theorem pktMac_mac (s : State) (p : Pkt) (m : List Byte) : pktMac s { p with mac := m } = pktMac s p := rfl

theorem genuine (s : State) (op : Nat) (k : Command) (h : heard s k.origin ∧ k.params.length ≤ 192 ∧ op ≠ 1 ∧
    serving s = true ∧ (rackKey s).isSome = true) : Genuine s k.origin (pktOf s op k) :=
  ⟨h.1, ⟨rfl, rfl, rfl, h.2.1⟩, h.2.2.1, h.2.2.2.1, h.2.2.2.2, pktMac_mac ..⟩

theorem witness_PacketsAccepted : CmdRow (req [(0, 2)]) (.portStatus (req [(0, 2)])) 0x11
      ((req [(0, 2)]).params.length = 2) ∧
    CmdRow (req [(0, 1)]) (.portStatus (req [(0, 1)])) 0x11 ((req [(0, 1)]).params.length = 2) ∧
    Serves (cmdS []) (req [(0, 1)]) ∧
    PacketRow (cmdS []) (.portStatus (req [(0, 2)])) (req [(0, 2)]).origin (pktOf (cmdS []) 0x11 (req [(0, 2)])) ∧
    Genuine (cmdS []) (req [(0, 2)]).origin (pktOf (cmdS []) 0x11 (req [(0, 2)])) ∧
    PacketRow (cmdS []) (.identify (req [])) (req []).origin (pktOf (cmdS []) 1 (req [])) ∧
    (serving linkS = false ∧ (req [(0, 1)]).params.length ≠ 2 ∧ tc3Ok (cmdS []) 0 = false ∧
      serving macS = true ∧ rackKey linkS = none ∧ (cmdS []).svc.cache = [] ∧
      fget (cmdS []) F.svcCstat_HSEQ 0 < 9 ∧ outstanding (cmdS []) < 16 ∧
      { macS with svc := { macS.svc with i3cq := [[0]] } }.svc.i3cq = [[0]] ∧
      pktMac macS (parsePkt (pkt 0x11 0 3 (natLe 0 16))) ≠ natLe 0 16) :=
  ⟨.portStatus, .portStatus, served _ (by decide +kernel) _ (by decide +kernel), .row _ _ _ _ .portStatus,
    genuine _ _ _ ⟨⟨by decide +kernel, fun h => nomatch h⟩, by decide +kernel⟩, .identify _, by decide +kernel⟩

theorem test_ports_and_routes : answers
    [(0x10, (req [(0, 1), (0, 1), (4, 6)]), cmdS [], 0), (0x10, (req [(32, 1), (0, 1), (4, 6)]), cmdS [], 10),
     (0x20, (req [(7, 2), (0x210, 2), (0, 2), (0, 2)]), cmdS [], 0),
     (0x20, (req [(0xFFFF, 2), (0, 2), (0, 2), (0, 2)]), cmdS [], 10),
     (0x21, (req []), cmdS [], 0)] = true ∧
    given 0x10 (req [(0, 1), (0, 1), (4, 6)]) (cmdS []) (fun t => decide (fget t F.fabGcfg_W 0 = 4 ∧
      fget t F.fabPstat_ST 0 = 2 ∧ fget t F.fabPstat_REASON 0 = 6)) = true ∧
    given 0x20 (req [(7, 2), (0x210, 2), (5, 2), (0, 2)]) (cmdS []) (fun t => decide (
      Tab.get 0 t.fab.shadow 7 = 0x1610 ∧ fget t F.nodeRbstat_STAGED 0 = 1)) = true ∧
    given 0x21 (req []) (accepted 0x20 (req [(7, 2), (0x210, 2), (5, 2), (0, 2)]) (cmdS []))
      (fun t => decide (activeRoute t 7 = 0x1610 ∧ activeRoute t 3 = 0 ∧ fget t F.nodeRbstat_RTEPOCH 0 = 1 ∧
        fbit t F.nodeRbstat_COPY 0 = true)) = true ∧
    given 0x21 (req []) (cmdS [(F.nodeRbstat_COPY, 0, 1)]) (fun t => decide (
      t.svc.main.length = 1 ∧ fbit t F.nodeRbstat_HELD 0 = true)) = true := by decide +kernel

theorem witness_PortsAndRoutes : (∀ ps, (req ps).params.length ≤ 192 → Serves (cmdS []) (req ps)) ∧
    (gcfgOk 4 = true ∧ gcfgOk 6 = false ∧ (req [(31, 1), (3, 1), (4, 6)]).params.length = 8 ∧
      pAt (req [(31, 1), (3, 1), (4, 6)]) 0 1 = 31 ∧ portExists (cmdS []) 0 = true ∧ portExists (cmdS []) 1 = false ∧
      (cmdS []).dev.ps1 = false ∧ recOk (natLe 0xFFFE 2 ++ natLe 0xFFF 2 ++ natLe 0x3FF 2 ++ natLe 0 2) = true ∧
      recOk (natLe 0xFFFF 2 ++ natLe 0 6) = false ∧ fbit (cmdS []) F.nodeRbstat_COPY 0 = false ∧
      fbit (cmdS [(F.nodeRbstat_COPY, 0, 1)]) F.nodeRbstat_COPY 0 = true ∧ (req []).params = []) :=
  ⟨served _ (by decide +kernel), by decide +kernel⟩

/-- A flow of node 2 pinned to ports 0 and 16, which lead to node 9; one that ends here; a reach. -/
def admitK (f role a b rate burst : Nat) : Command :=
  req [(f, 2), (role, 1), (5, 1), (2, 2), (3, 2), (a, 2), (b, 2), (rate, 4), (burst, 1)]
def peerS (l : List (FRef × Nat × Nat)) : State :=
  cmdS ([(F.fabPstat_PEER, 0, 9), (F.fabPstat_PEER, 16, 9)] ++ l)
def grantK (n : Nat) : Command :=
  req [(n, 2), (0, 6), (2 ^ 63 + 21 * 2 ^ 51, 8), (9 * 2 ^ 48, 8), (0, 8)]

theorem test_flows : answers
    [(0x30, (admitK 7 1 0 16 100 5), peerS [], 0), (0x30, (admitK 7 3 0 0 100 5), cmdS [], 0),
     (0x30, (admitK 7 0 0 16 100 5), peerS [], 10), (0x30, (admitK 7 1 0 0 100 5), peerS [], 0x12),
     (0x30, (admitK 7 1 0 16 476161 5), peerS [], 0x13), (0x30, (admitK 7 1 0 16 476160 94), peerS [], 0),
     (0x30, (admitK 7 1 0 16 100 94), peerS [(F.tidePres_BSUM, 16, 1)], 0x14),
     (0x30, (admitK 7 1 0 16 100 5), peerS [(F.tideFlowa_ROLE, 7, 3)], 0x10),
     (0x31, (req [(7, 2)]), cmdS [], 0x11), (0x31, (req [(7, 2)]), cmdS [(F.tideFlowa_ROLE, 7, 3)], 0),
     (0x40, (grantK 5), cmdS [], 0), (0x40, (grantK 4096), cmdS [], 10),
     (0x40, (grantK 5), cmdS [(F.reachA_V, 5, 1)], 0x18), (0x41, (req [(5, 2)]), cmdS [], 0x19),
     (0x41, (req [(5, 2)]), cmdS [(F.reachA_V, 5, 1)], 0),
     (0x50, (req [(1, 2)]), cmdS [], 10), (0x50, (req [(3, 2)]), cmdS [(F.nodeEnt_LIVE, 3, 3)], 0)] = true ∧
    given 0x30 (admitK 7 1 0 16 100 5) (peerS []) (fun t => decide (fget t F.tidePres_RSUM 16 = 100 ∧
      fget t F.tidePres_BSUM 0 = 5 ∧ fget t F.tideFlowa_PINB 7 = 16)) = true ∧
    given 0x31 (req [(7, 2)]) (accepted 0x30 (admitK 7 1 0 16 100 5) (peerS [])) (fun t => decide (
      fget t F.tidePres_RSUM 16 = 0 ∧ fget t F.tideFlowa_ROLE 7 = 0)) = true ∧
    given 0x50 (req [(3, 2)]) (cmdS []) (fun t => decide (fget t F.nodeEnt_LIVE 3 = 3 ∧
      t.svc.main.length = 1 ∧ fbit t F.fltRclStat_BUSY 0 = true)) = true := by decide +kernel

theorem witness_FlowsAndReaches : (∀ ps, (req ps).params.length ≤ 192 → Serves (peerS []) (req ps)) ∧
    (pAt (admitK 4095 3 0 0 1 94) 0 2 = 4095 ∧ pAt (admitK 4095 3 0 0 1 94) 16 1 = 94 ∧
      (admitK 7 1 0 16 100 5).params.length = 17 ∧ fget (peerS []) F.tideFlowa_ROLE 7 = 0 ∧
      flowCount (peerS []) < 4096 ∧ pinOk (peerS []) 0 16 = true ∧ pinOk (peerS []) 0 0 = false ∧
      rateCap (widthCode (peerS []) 0) = 476160 ∧ burstCap (widthCode (peerS []) 16) = 94 ∧
      (peerS []).dev.ps1 = false ∧ fget (cmdS [(F.tideFlowa_ROLE, 7, 3)]) F.tideFlowa_ROLE 7 = 3 ∧
      (link (peerS []) 16).queue = [] ∧ Tab.find (peerS []).fab.buckets 7 = none ∧
      grantOk (cmdS []) (2 ^ 63 + 21 * 2 ^ 51) (9 * 2 ^ 48) 0 = true ∧
      grantOk (cmdS []) (2 ^ 63 + 20 * 2 ^ 51) (9 * 2 ^ 48) 0 = false ∧ (grantK 5).params.length = 32 ∧
      pAt (grantK 5) 2 6 = 0 ∧ fbit (cmdS [(F.reachA_V, 5, 1)]) F.reachA_V 5 = true ∧
      reachBusy (cmdS [(F.reachA_V, 5, 1)]) 5 = false ∧ reachLines (cmdS [(F.reachA_V, 5, 1)]) 5 = [] ∧
      reachBusy { fabS with txs := [⟨4, .load 0, 2 ^ 51 + 64, 0, mk 1 opRdCur, false⟩] } 0 = true ∧
      selfId (cmdS []) = 1 ∧ (cmdS []).reclaims = [] ∧ fget (cmdS []) F.nodeEnt_LIVE 3 ≠ 3) :=
  ⟨served _ (by decide +kernel), by decide +kernel⟩

/-- The boot state of a trial of slot 0, and a slot that is being staged. -/
def trialS (tb : Nat) : State :=
  let s := sets (cmdS []) [(F.bootStat_TRIAL, 0, 1), (F.bootStat_SEQ, 0, 5)]
  wr s .tbVal 0 (BitVec.ofNat 64 tb)
def stageF (b : Bool) : State := { cmdS [] with svc := { Svc.reset with staging := b } }

theorem test_flash : answers
    [(0x60, (req [(0, 1), (1, 1)]), cmdS [], 10), (0x61, (req [(1, 1), (32, 1)]), cmdS [], 10),
     (0x70, (req [(0, 4), (16, 2), (0, 2), (0, 16)]), stageF false, 11),
     (0x70, (req [(0, 4), (16, 2), (1, 2), (0x1234, 16)]), stageF false, 0),
     (0x70, (req [(0, 4), (8, 2), (1, 2), (0, 8)]), stageF false, 10),
     (0x70, (req [(0xFFF000, 4), (16, 2), (1, 2), (0, 16)]), stageF false, 10),
     (0x70, (req [(0, 4), (16, 2), (1, 2), (0, 16)]), trialS 0, 0x24),
     (0x71, (req [(2, 1)]), stageF true, 10), (0x71, (req [(0, 1)]), stageF false, 11),
     (0x71, (req [(0, 1)]), stageF true, 0x21), (0x72, (req []), cmdS [], 0x22),
     (0x72, (req []), trialS trialNs, 0x23), (0x72, (req []), trialS (trialNs - 1), 0)] = true ∧
    given 0x70 (req [(0x20, 4), (16, 2), (1, 2), (0x1234, 16)]) (stageF false) (fun t => decide (
      flashRead t 0x2000020 3 = [0x34, 0x12, 0] ∧ t.svc.staging = true)) = true ∧
    given 0x72 (req []) (trialS 0) (fun t => decide ((newestStatus t).1.confa = 5 ∧
      (newestStatus t).1.tslot = 0xFF ∧ fbit t F.bootStat_TRIAL 0 = false)) = true := by decide +kernel

theorem test_calibration :
    given 0x60 (req [(2, 1), (1, 1)]) (cmdS []) (fun t => decide (t.keep.cal0.map (fun c =>
      (c.gen, Tab.get (false, false) c.ents (calChan 1 3))) = some (1, (true, false)))) = true ∧
    given 0x61 (req [(2, 1), (1, 1)]) (cmdS []) (fun t => decide (t.keep.cal0.map (fun c =>
      Tab.get (false, false) c.ents (calChan 1 3)) = some (false, true) ∧
      fbit t F.calMstat_STALE 20 = true)) = true := by decide +kernel

/-- The same device with the flash sectors of both calibration copies failed, and the first of slot B. -/
def brokenF : State :=
  { stageF true with keep := { keyed with flashBad := [calAt 0 / 4096, calAt 1 / 4096, slotBase 1 / 4096] } }

theorem test_flash_fails : answers
    [(0x60, (req [(0, 1), (0, 1)]), brokenF, stFlashError),
     (0x61, (req [(0, 1), (0, 1)]), brokenF, stFlashError),
     (0x70, (req [(0, 4), (16, 2), (1, 2), (0, 16)]), brokenF, stFlashError)] = true := by decide +kernel

theorem witness_FlashFails : (∀ ps, (req ps).params.length ≤ 192 → Serves brokenF (req ps)) ∧ (brokenF.memOk ∧
    (∀ c < 2, flashFails brokenF (calAt c) calSize = true) ∧
    flashFails brokenF (slotBase (otherSlot brokenF) + 0) 16 = true ∧
    flashFails (stageF true) (slotBase 1 + 16) 16 = false ∧ (stageF true).keep.flashBad = [] ∧
    (trialS 0).keep.flashBad = []) :=
  ⟨served _ (by decide +kernel), by decide +kernel⟩

theorem test_service_commands : answers
    [(0x80, (req [(1, 1), (0, 1), (5, 2), (0, 1)]), cmdS [(F.fltClspare_SST, 0, 2)], 0x28),
     (0x80, (req [(5, 1), (0, 1), (5, 2), (0, 1)]), cmdS [], 10),
     (0x80, (req [(4, 1), (0, 1), (5, 2), (0, 1)]), cmdS [(F.memqMode_PMODE, 0, 0)], 11),
     (0x80, (req [(4, 1), (1, 1), (5, 2), (0, 1)]), cmdS [(F.memqMode_PMODE, 0, 0)], 0),
     (0x81, (req []), cmdS [], 0), (0x90, (req [(63, 1), (2, 1)]), cmdS [], 10),
     (0x90, (req [(62, 1), (2, 1)]), cmdS [], 0), (0xA0, (req [(9, 8), (0, 1)]), cmdS [], 0),
     (0xA0, (req [(9, 8), (2, 1)]), cmdS [], 10), (0xA0, (req [(9, 8), (0, 1)]), trialS 10, 0x2A),
     (0xB0, (req [(6, 1), (0, 31)]), cmdS [], 10), (0xB0, (req [(0, 1), (0, 31)]), cmdS [], 11),
     (0xB0, (req [(3, 1), (0, 31)]), cmdS [], 0x29), (0xB0, (req [(2, 1), (0, 31)]), cmdS [], 0)] = true ∧
    given 0x80 (req [(3, 1), (0, 1), (5, 2), (0, 1)]) (cmdS []) (fun t => decide (
      t.migrating = some (5, 0) ∧ t.svc.main.length = 1)) = true ∧
    given 0x80 (req [(6, 1), (0, 1), (0, 2), (5, 1)]) (cmdS []) (fun t => decide (
      fget t F.fabGstat_SHIDX 0 = 5 ∧ t.svc.main.length = 1)) = true ∧
    given 0x90 (req [(3, 1), (2, 1)]) (wr (cmdS []) .monCnt 4 77) (fun t => decide (par t 8 8 = some 77)) = true ∧
    given 0xA0 (req [(9, 8), (0, 1)]) (cmdS []) (fun t => decide (tbOf t = 9)) = true ∧
    given 0xA0 (req [(9, 8), (1, 1)]) (cmdS []) (fun t => decide (t.time.timeSet.isSome = true)) = true ∧
    given 0xB0 (req [(2, 1), (0, 31)]) (cmdS []) (fun t => decide (fusedLc t = 2 ∧ t.dev.lcTarget = some 2)) = true := by
  decide +kernel

/-- A device that has booted version 5 with a floor of 3, which a burn is raising to 4. -/
def floorS (n : Option Nat) : State :=
  { cmdS [(F.bootFloor_FLOOR, 0, 3), (F.bootStat_SEQ, 0, 5 * 2 ^ 24)] with dev := { Dev.reset with floorTarget := n } }

theorem test_floor :
    runs (.bootFloorWrite 5) (floorS none) (fun t => decide (t.dev.floorTarget = some 5 ∧
      fbit t F.bootFloor_BUSY 0 = true)) = true ∧
    runs (.bootFloorWrite 6) (floorS none) (fun t => decide (t.dev.floorTarget = none)) = true ∧
    runs (.bootFloorWrite 3) (floorS none) (fun t => decide (t.dev.floorTarget = none)) = true ∧
    runs .fuseBurnDone (floorS (some 4)) (fun t => decide (fget t F.bootFloor_FLOOR 0 = 4 ∧ fusedFloor t = 4 ∧
      t.dev.floorTarget = none)) = true ∧
    runs .lcAdvanceReset (floorS none) (fun t => decide (t = floorS none)) = true := by decide +kernel

theorem witness_ServiceCommands : (∀ ps, (req ps).params.length ≤ 192 → Serves (cmdS []) (req ps)) ∧
    (spareReady (cmdS [(F.fltClspare_SST, 0, 2)]) 5 = false ∧ spareReady (cmdS []) 127 = true ∧
      Tab.find (cmdS []).moves 127 = none ∧ fget (cmdS []) F.fltSlstat_SST 0 = 0 ∧
      fget (cmdS []) F.memqStat_SPARE 3 = 0 ∧ fbit (cmdS [(F.memqMode_PMODE, 0, 1)]) F.memqMode_PMODE 0 = true ∧
      63 ∉ (cmdS []).degraded ∧ 63 ∉ (cmdS []).deadCh ∧ fget (cmdS []) F.fabGstat_SST 0 = 0 ∧
      (portAt (cmdS []) 0 15).isSome = true ∧ (req [(6, 1), (1, 1), (0, 2), (15, 1)]).params.length = 5 ∧
      pAt (req [(42, 1), (22, 1)]) 0 1 + pAt (req [(42, 1), (22, 1)]) 1 1 = 64 ∧
      (req [(9, 8), (1, 1)]).params.length = 9 ∧ (cmdS []).time.timeSet = none ∧
      tbOf (trialS 10) = 10 ∧ (req [(5, 1), (0, 31)]).params.length = 32 ∧
      zeroAt (req [(5, 1), (0, 31)]).params 1 15 = true ∧
      (req [(5, 1), (0, 31)]).params.drop 16 = devId (cmdS []) ∧ fusedLc (cmdS []) = 0 ∧
      (∀ x < 4, unfused (rkh (cmdS []) x) = true) ∧ leNat (fuse (cmdS []) 0xC4 4) = 2 ^ fusedLc (cmdS []) - 1 ∧
      (cmdS []).memOk ∧ (floorS none).dev.floorTarget = none ∧ (floorS (some 4)).dev.floorTarget = some 4) :=
  ⟨served _ (by decide +kernel), by decide +kernel⟩

theorem witness_FlashCommands : (∀ ps, (req ps).params.length ≤ 192 → Serves (stageF true) (req ps)) ∧ (∀ ps, (req ps).params.length ≤ 192 → Serves (trialS 0) (req ps)) ∧
    ((cmdS []).memOk ∧ calScope 0 0 = some (upto 612) ∧ calScope 1 31 ≠ none ∧ calScope 1 32 = none ∧
      calScope 2 3 ≠ none ∧ calScope 2 4 = none ∧ (stageF true).memOk ∧ (trialS 0).memOk ∧
      slotWhy (stageF true) 1 false ≠ 0 ∧ fbit (trialS 0) F.bootStat_TRIAL 0 = true ∧
      (trialS trialNs).dev.since + trialNs ≤ tbOf (trialS trialNs) ∧
      tbOf (trialS (trialNs - 1)) < (trialS (trialNs - 1)).dev.since + trialNs ∧
      flashRead (stageF true) (slotBase (otherSlot (stageF true)) + 16) 16 = List.replicate 16 0xFF#8 ∧
      fbit (stageF true) F.bootStat_TRIAL 0 = false ∧ 16 + 176 ≤ commitAt) :=
  ⟨served _ (by decide +kernel), served _ (by decide +kernel), by decide +kernel⟩

/-! Resets, power, boot and the debug TAP. -/

/-- A P-384 public key, made outside the model, with the hash of it and of no bytes, and its signatures
of the headers below and of a nonce. -/
def pubKey : List Byte :=
  natBe 0x04e86b995e350e4d312a95a6b7d5d8cdcdb4682f588800a1cd6c972e1dcb2a5a 32 ++
    natBe 0xc38d90046951b03ccb3b179a89fda88b1b485b9f2c1f44b0dd41ce6e3c3a690b 32 ++
    natBe 0xbfaabec1e1ff4aefb2461fdda6629becbd43cf74c13d8c1a1625612243f00461 32 ++
    natBe 0x48 1
/-- SHA-384 of the key. -/
def pubHash : List Byte :=
  natBe 0x2b893d76e46a74adda946a7cbe33c77119dcf216197f612279e2c210b0d1a4d7 32 ++
    natBe 0xa527df930810918248ae5e6496ab2e11 16
/-- SHA-384 of no bytes. -/
def noHash : List Byte :=
  natBe 0x38b060a751ac96384cd9327eb1b1e36a21fdb71114be07434c0cc7bf63f6e1da 32 ++
    natBe 0x274edebfe76f65fbd51ad2f14898b95b 16
/-- The signature of the header with FLAGS 0. -/
def sig0 : List Byte :=
  natBe 0x572c77284c06125140282034d3c7530d1627b131a7fc852418a79cf5a7b7861f 32 ++
    natBe 0x637702db11da4e8d44fc208560e035fd0edfdd51a4bf1e0feb15fe729920e50c 32 ++
    natBe 0x2f3817d1c07b4c5182add3d95857bd5121db607dca5817e1b5dae95563404150 32
/-- The signature of the header with FLAGS 1. -/
def sig1 : List Byte :=
  natBe 0x572c77284c06125140282034d3c7530d1627b131a7fc852418a79cf5a7b7861f 32 ++
    natBe 0x637702db11da4e8d44fc208560e035fd6b1c74eaa4ed2a75abf6813483ac04f9 32 ++
    natBe 0x16b708555406eeb30f49b3d38bd20d72ac69cee93c36868deba5dd228f711847 32
/-- The signature of the unlock. -/
def sigUnlock : List Byte :=
  natBe 0x572c77284c06125140282034d3c7530d1627b131a7fc852418a79cf5a7b7861f 32 ++
    natBe 0x637702db11da4e8d44fc208560e035fdfd7d296b159a8c5369bd0ec191142d83 32 ++
    natBe 0x58e2e7284fba90e8fb5573babb0e7adc65eee4052e093546cdcee3461348ce14 32

/-- A header with SEQ 5 and an empty SERVICE and MONITOR image, the latter with ENTRY 0x40. -/
def header (flags crc : Nat) (sig : List Byte) : List Byte :=
  let ent (t e : Nat) : List Byte := natLe t 12 ++ natLe e 4 ++ natLe 0 16 ++ noHash
  natLe 0x42544C55 4 ++ natLe 1 2 ++ natLe 2 2 ++ natLe 5 4 ++ natLe flags 4 ++ natLe 0 16 ++ pubKey ++
    natLe 0 127 ++ ent 1 0 ++ ent 2 0x40 ++ natLe 0 480 ++ sig ++ natLe 0 28 ++ natLe crc 4

/-- A PRODUCTION device with the rack key, whose fuses hold the hash of the key as root key 0 and as the unlock key. -/
def prodKeep (flash : Memory) : Keep :=
  { keyed with fuses := cellsAt 0 pubHash ++ [(0xC4, 7)] ++ cellsAt 0xF0 pubHash, flash := flash }
def prodFuses : State := { fput (fput State.reset F.svcKey_HELD 0 1) F.lcState_STATE 0 3 with keep := prodKeep [] }

/-- Flash with bytes programmed at one place, and at a second. -/
def flash2 (a : Nat) (x : List Byte) (b : Nat) (y : List Byte) : Memory :=
  Memory.writeBytes (Memory.writeBytes [] a (x.map (fun v => ~~~v))) b (y.map (fun v => ~~~v))

theorem compl2 (x : List Byte) : (x.map (fun v => ~~~v)).map (fun v => ~~~v) = x := by
  simp [List.map_map, Function.comp_def]

theorem flash2_first (s : State) {a b n : Nat} {x y : List Byte} (hs : s.keep.flash = flash2 a x b y)
    (hx : x.length = n) (ap : a + n ≤ b) : flashRead s a n = x := by
  subst hx
  have h := Memory.readBytes_writeBytes_apart (y.map (fun v => ~~~v))
    (Memory.writeBytes [] a (x.map (fun v => ~~~v))) b (Memory.writeBytes_wf _ _ _ rfl) x.length a (.inl ap)
  have e := Memory.readBytes_writeBytes (x.map (fun v => ~~~v)) [] a rfl
  rw [List.length_map] at e
  rw [flashRead, hs, flash2, h, e, compl2]

theorem flash2_second (s : State) {a b n : Nat} {x y : List Byte} (hs : s.keep.flash = flash2 a x b y)
    (hy : y.length = n) : flashRead s b n = y := by
  subst hy
  have e := Memory.readBytes_writeBytes (y.map (fun v => ~~~v)) (Memory.writeBytes [] a (x.map (fun v => ~~~v))) b
    (Memory.writeBytes_wf _ _ _ rfl)
  rw [List.length_map] at e
  rw [flashRead, hs, flash2, e, compl2]

theorem flash2_apart (s : State) {a b n c : Nat} {x y : List Byte} (hs : s.keep.flash = flash2 a x b y)
    (ha : c + n ≤ a ∨ a + x.length ≤ c) (hb : c + n ≤ b ∨ b + y.length ≤ c) :
    flashRead s c n = List.replicate n 0xFF#8 := by
  rw [flashRead, hs, flash2, Memory.readBytes_writeBytes_apart _ _ _ (Memory.writeBytes_wf _ _ _ rfl) n c
    (by rw [List.length_map]; exact hb), Memory.readBytes_writeBytes_apart _ _ _ rfl n c
    (by rw [List.length_map]; exact ha), Memory.readBytes_nil]
  simp

@[irreducible] def hdr0 : List Byte := header 0 1069897894 sig0
@[irreducible] def hdr1 : List Byte := header 1 2911462969 sig1

theorem hdr_length : hdr0.length = 1024 ∧ hdr1.length = 1024 ∧ (commitWord hdr0).length = 16 := by decide +kernel

/-- The CRC of R355, with each step evaluated before the next. -/
def forced (c : Nat) (f : Nat → Nat) : Nat :=
  match c with
  | 0 => f 0
  | n + 1 => f (n + 1)
def crcF : List Byte → Nat → Nat
  | [], c => c
  | b :: bs, c => forced (crcBits 0xEDB88320 (c ^^^ b.toNat) 8) (crcF bs)
theorem crcF_eq (bs : List Byte) : ∀ c, crcF bs c = bs.foldl (fun c b => crcBits 0xEDB88320 (c ^^^ b.toNat) 8) c := by
  have e : ∀ c f, forced c f = f c := fun c f => by cases c <;> rfl
  induction bs with
  | nil => exact fun _ => rfl
  | cons b bs ih => exact fun c => by rw [crcF, e, ih, List.foldl_cons]
theorem crc_forced (bs : List Byte) : crc32 bs = crcF bs 0xFFFFFFFF ^^^ 0xFFFFFFFF := by rw [crcF_eq]; rfl

theorem hdr_crc : hdrCrc hdr0 = crc32 (hdr0.take 0x3FC) ∧ hdrCrc hdr1 = crc32 (hdr1.take 0x3FC) := by
  rw [crc_forced, crc_forced]; decide +kernel

/-- The checks of a header do not read flash. -/
theorem hdr_form : hdrOk prodFuses hdr0 = true ∧ hdrOk prodFuses hdr1 = true ∧
    hdrOk prodFuses (List.replicate 1024 0xFF#8) = false := by
  refine ⟨?_, ?_, by decide +kernel⟩
  · simp only [hdrOk, ← hdr_crc.1]; decide +kernel
  · simp only [hdrOk, ← hdr_crc.2]; decide +kernel
theorem hdr_signed : keyOk prodFuses hdr0 = true ∧ sigOk hdr0 = true ∧ keyOk prodFuses hdr1 = true ∧ sigOk hdr1 = true ∧
    fusedFloor prodFuses = 0 := by decide +kernel

/-- The device with given flash. -/
def withFlash (m : Memory) (d : Dev) (v : Svc) : State :=
  { prodFuses with keep := { prodFuses.keep with flash := m }, dev := d, svc := v }

theorem flash_free (m : Memory) (d : Dev) (v : Svc) (h : List Byte) :
    hdrOk (withFlash m d v) h = hdrOk prodFuses h ∧ keyOk (withFlash m d v) h = keyOk prodFuses h ∧
    fusedFloor (withFlash m d v) = fusedFloor prodFuses := ⟨rfl, rfl, rfl⟩

theorem fuses_wf : prodFuses.keep.fuses.wf = true := by decide +kernel
theorem withFlash_memOk (d : Dev) (v : Svc) (a : Nat) (x : List Byte) (b : Nat) (y : List Byte) :
    (withFlash (flash2 a x b y) d v).memOk :=
  ⟨rfl, fuses_wf, Memory.writeBytes_wf _ _ _ (Memory.writeBytes_wf _ _ _ rfl)⟩

/-- It has slot A committed, and stands before its boot flow. -/
def bootS (due : Bool) : State :=
  withFlash (flash2 0x1000000 hdr0 0x1FFF000 (commitWord hdr0)) { Dev.reset with bootDue := some due } Svc.reset

/-- It has staged an update in slot B, with or without the live flag. -/
def stagedS (live : Bool) : State :=
  withFlash (flash2 0x2000000 (if live then hdr1 else hdr0) 0x3FFFFF0 []) { Dev.reset with service := true }
    { Svc.reset with staging := true }

theorem staged_flash (b : Bool) : (stagedS b).keep.flash = flash2 0x2000000 (if b then hdr1 else hdr0) 0x3FFFFF0 [] :=
  rfl
theorem boot_flash (due : Bool) : (bootS due).keep.flash = flash2 0x1000000 hdr0 0x1FFF000 (commitWord hdr0) := rfl

theorem staged_header (b : Bool) : slotHeader (stagedS b) 1 = if b then hdr1 else hdr0 :=
  flash2_first (stagedS b) (staged_flash b) (by cases b <;> simp [hdr_length]) (by decide)

theorem boot_headers (due : Bool) : slotHeader (bootS due) 0 = hdr0 ∧
    slotHeader (bootS due) 1 = List.replicate 1024 0xFF#8 ∧
    flashRead (bootS due) (slotBase 0 + commitAt) 16 = commitWord hdr0 := by
  obtain ⟨h, -, c⟩ := hdr_length
  refine ⟨flash2_first (bootS due) (boot_flash due) h (by decide),
    flash2_apart (bootS due) (boot_flash due) (by rw [h]; decide) (by rw [c]; decide), ?_⟩
  rw [show slotBase 0 + commitAt = 0x1FFF000 by decide]
  exact flash2_second (bootS due) (boot_flash due) c

/-- Without a failed sector every flash operation works. -/
theorem flash_sound {s : State} (d : s.keep.flashBad = []) (a n : Nat) : flashFails s a n = false := by
  simp [flashFails, d]

/-- The checks of R358 on any state. -/
theorem why_staged {s : State} {i : Nat} (d : s.keep.flashBad = []) (a : hdrOk s (slotHeader s i) = true) (k : keyOk s (slotHeader s i) = true)
    (g : sigOk (slotHeader s i) = true) (f : fusedFloor s = 0) : slotWhy s i false = 0 := by
  simp [slotWhy, flash_sound d, *]
theorem why_boot {s : State} {i : Nat} (d : s.keep.flashBad = []) (a : hdrOk s (slotHeader s i) = true) (k : keyOk s (slotHeader s i) = true)
    (g : sigOk (slotHeader s i) = true) (f : fusedFloor s = 0)
    (c : flashRead s (slotBase i + commitAt) 16 = commitWord (slotHeader s i)) : slotWhy s i true = 0 := by
  simp [slotWhy, flash_sound d, *]
theorem why_form {s : State} {i : Nat} {b : Bool} (d : s.keep.flashBad = []) (a : hdrOk s (slotHeader s i) = false) : slotWhy s i b = 1 := by
  simp [slotWhy, flash_sound d, *]
theorem choose_first {s : State} {r : BootRec} (h0 : slotWhy s 0 true = 0) (h1 : slotWhy s 1 true = 1)
    (q : hdrSeq (slotHeader s 0) ≠ r.rej 0) : chooseSlot s r [] = some (0, false) := by
  simp [chooseSlot, higherSlot, *]

theorem staged_why (b : Bool) : slotWhy (stagedS b) 1 false = 0 := by
  obtain ⟨a, a1, -⟩ := hdr_form
  obtain ⟨k, g, k1, g1, f⟩ := hdr_signed
  have e : ∀ h, _ := flash_free (flash2 0x2000000 (if b then hdr1 else hdr0) 0x3FFFFF0 [])
    { Dev.reset with service := true } { Svc.reset with staging := true }
  have h := staged_header b
  cases b
  · rw [if_neg (by decide)] at h
    exact why_staged rfl (h ▸ (e hdr0).1.trans a) (h ▸ (e hdr0).2.1.trans k) (h ▸ g) ((e []).2.2.trans f)
  · rw [if_pos rfl] at h
    exact why_staged rfl (h ▸ (e hdr1).1.trans a1) (h ▸ (e hdr1).2.1.trans k1) (h ▸ g1) ((e []).2.2.trans f)

theorem boot_why (due : Bool) : slotWhy (bootS due) 0 true = 0 ∧ slotWhy (bootS due) 1 true = 1 := by
  obtain ⟨a, -, x⟩ := hdr_form
  obtain ⟨k, g, -, -, f⟩ := hdr_signed
  obtain ⟨h0, h1, c⟩ := boot_headers due
  have e : ∀ h, _ := flash_free (flash2 0x1000000 hdr0 0x1FFF000 (commitWord hdr0))
    { Dev.reset with bootDue := some due } Svc.reset
  exact ⟨why_boot rfl (h0 ▸ (e hdr0).1.trans a) (h0 ▸ (e hdr0).2.1.trans k) (h0 ▸ g) ((e []).2.2.trans f) (h0 ▸ c),
    why_form rfl (h1 ▸ (e _).1.trans x)⟩

theorem no_images : sha384 [] = noHash ∧ (imgEnts hdr1).map (fun e => (imgLen e, imgDigest e)) = [(0, noHash), (0, noHash)] ∧
    (imgEnts hdr0).map (fun e => (imgLen e, imgDigest e)) = [(0, noHash), (0, noHash)] := by decide +kernel

/-- Images without bytes match the hash of no bytes. -/
theorem empty_images (s : State) (i : Nat) (h : List Byte) (d : s.keep.flashBad = [])
    (e : (imgEnts h).map (fun e => (imgLen e, imgDigest e)) = [(0, noHash), (0, noHash)]) : imgsOk s i h = true := by
  rw [imgsOk, List.all_eq_true]
  intro x hx
  have : (imgLen x, imgDigest x) ∈ [(0, noHash), (0, noHash)] := e ▸ List.mem_map_of_mem hx
  simp only [List.mem_cons, List.not_mem_nil, or_false, or_self, Prod.mk.injEq] at this
  simp [imgGood, imgBytes, flashRead, Memory.readBytes, this, no_images.1, flash_sound d]

theorem witness_FlashCommands_commit : (∀ ps, (req ps).params.length ≤ 192 → Serves (stagedS true) (req ps)) ∧ (stagedS true).memOk ∧
    slotWhy (stagedS true) 1 false = 0 ∧ imgsOk (stagedS true) 1 (slotHeader (stagedS true) 1) = true ∧
    otherSlot (stagedS true) = 1 ∧ bit (hdrFlags (slotHeader (stagedS true) 1)) 0 = true ∧
    hdrMinLive (slotHeader (stagedS true) 1) ≤ fget (stagedS true) F.fltMoon_IMGSEQ 0 ∧
    (fget (stagedS true) F.fltMoon_UPD 0 ≠ 1 ∧ fget (stagedS true) F.fltMoon_UPD 0 ≠ 2) ∧
    flashRead (stagedS true) (slotBase 1 + commitAt) 16 = List.replicate 16 0xFF#8 ∧
    bit (hdrFlags (slotHeader (stagedS false) 1)) 0 = false ∧ slotWhy (stagedS false) 1 false = 0 := by
  have f : bit (hdrFlags hdr1) 0 = true ∧ hdrMinLive hdr1 = 0 ∧ bit (hdrFlags hdr0) 0 = false := by decide +kernel
  refine ⟨served _ (by decide +kernel), withFlash_memOk _ _ _ _ _ _, staged_why true, ?_, by decide +kernel, ?_, ?_, by decide +kernel,
    flash2_apart _ (staged_flash true) ?_ ?_, ?_, staged_why false⟩
  · rw [staged_header]; exact empty_images _ _ _ rfl no_images.2.1
  · rw [staged_header]; exact f.1
  · rw [staged_header, if_pos rfl, f.2.1]; exact Nat.zero_le _
  · rw [if_pos rfl, hdr_length.2.1]; decide
  · decide
  · rw [staged_header]; exact f.2.2

/-- The same device with nothing in flash, before a WARM boot. -/
def emptyS : State := { prodFuses with dev := { Dev.reset with bootDue := some false } }

theorem witness_BootFlow :
    ((bootS true).dev.bootDue = some true ∧ (bootS true).dev.off = false ∧ (bootS true).dev.coldLow = false ∧
      (bootS true).dev.warmLow = false ∧ (bootS true).dev.extest = false ∧
      fget (bootS true) F.lcState_STATE 0 = 3 ∧ (bootS true).dev.halted = false ∧ (bootS true).keep.flashBad = []) ∧ (bootS true).memOk ∧
    chooseSlot (bootS true) (afterTrial (newestStatus (bootS true)).1) [] = some (0, false) ∧
    imgsOk (bootS true) 0 (slotHeader (bootS true) 0) = true ∧
    ((imgEnts (slotHeader (bootS true) 0)).find? (fun x => decide (imgType x = 2))).map imgEntry = some 0x40 ∧
    chooseSlot emptyS (afterTrial (newestStatus emptyS).1) [] = none ∧
    fget (fput (bootS true) F.lcState_STATE 0 5) F.lcState_STATE 0 = 5 := by
  obtain ⟨h0, h1, -⟩ := boot_headers true
  obtain ⟨w0, w1⟩ := boot_why true
  have n : newestStatus (bootS true) = (BootRec.none, none) := by
    have e : ∀ i < 2, readStatus (bootS true) i = readStatus prodFuses i := by
      intro i hi
      have : flashRead (bootS true) (4096 * i) 64 = flashRead prodFuses (4096 * i) 64 := by
        rw [flash2_apart (bootS true) (boot_flash true) (.inl (by omega)) (.inl (by omega))]
        show _ = (Memory.readBytes [] _ _).map _
        rw [Memory.readBytes_nil]
        simp
      simp only [readStatus, this, flash_sound (s := bootS true) rfl, flash_sound (s := prodFuses) rfl]
    rw [newestStatus, e 0 (by decide), e 1 (by decide)]
    show newestStatus prodFuses = _
    decide +kernel
  refine ⟨by decide +kernel, withFlash_memOk _ _ _ _ _ _, ?_, ?_, ?_, by decide +kernel, by decide +kernel⟩
  · have : hdrSeq hdr0 = 5 := by decide +kernel
    rw [n]
    exact choose_first w0 w1 (by rw [h0, this]; decide)
  · rw [h0]; exact empty_images _ _ _ rfl no_images.2.2
  · rw [h0]; decide +kernel

theorem test_boot_waits :
    runs .bootFlowStart State.reset (fun t => decide (t.dev.bootDue = none ∧ t.dev.romHalt = false)) = true ∧
    runs .bootFlowStart (fput emptyS F.lcState_STATE 0 5) (fun t => decide (t.dev.romHalt = true)) = true ∧
    runs .bootFlowStart { emptyS with dev := { Dev.reset with bootDue := some true, coldLow := true } }
      (fun t => decide (t.dev.bootDue = some true)) = true := by decide +kernel

/-- A running device with a line in the secure part and one in DRAM. -/
def wipeS : State := { base 1 2 3 with mem := [(0x100, 7), (spdSecure, 9)], dev := Dev.reset }

theorem test_resets :
    runs (.pwrGoodRise true) wipeS (fun t => decide (t.dev.bootDue = some true ∧ t.dev.sa0 = true ∧ t.mem = [] ∧
      (coreOf t 0).run = .held)) = true ∧
    runs .pwrGoodFall wipeS (fun t => decide (t.dev.off = true)) = true ∧
    runs (.coldRstN true) wipeS (fun t => decide (t.dev.bootDue = some true ∧ t.dev.coldLow = true)) = true ∧
    runs (.coldRstN false) (after (.coldRstN true) wipeS) (fun t => decide (t.dev.coldLow = false)) = true ∧
    runs (.tamperN true) wipeS (fun t => decide (t.mem = [(0x100, 7)] ∧ fget t F.spdStat_WCNT 0 = 1 ∧
      fbit t F.spdStat_WIPING 0 = true)) = true ∧
    runs .wipeDone (after (.tamperN true) wipeS) (fun t => decide (fbit t F.spdStat_WIPING 0 = false ∧
      fget t F.spdStat_WCAUSE 0 = 1)) = true := by decide +kernel

theorem witness_ResetsAndWipes : WarmRow wipeS .warm ∧ WarmRow wipeS (.warmRstN true) ∧
    WarmRow { wipeS with dev := { Dev.reset with lcTarget := some 2 } } .lcAdvanceReset ∧
    (wipeS.dev.off = false ∧ { wipeS with dev := { Dev.reset with bootDue := none } }.dev.bootDue ≠ some true ∧
      (fabS.lines = [] ∧ { fabS with cores := [] }.cores = [] ∧ fabS.homeQ = [] ∧ fabS.dev.floorTarget = none ∧
        fbit fabS F.fltLogRing_EN 0 = false ∧ fusedLc fabS = fget fabS F.lcState_STATE 0) ∧
      fusedLc prodFuses = 3 ∧ fusedLc prodFuses ≠ fget State.reset F.lcState_STATE 0 ∧
      wipeS.dev.coldLow = false ∧ wipeS.dev.tamperLow = false ∧ fbit wipeS F.spdStat_WIPING 0 = false ∧ wipeS.memOk ∧
      fbit (fput wipeS F.spdStat_WIPING 0 1) F.spdStat_WIPING 0 = true ∧ wipeS.homeQ = []) :=
  ⟨.warm, .pin rfl, .life rfl, by decide +kernel⟩

theorem settled (s : State) (c : Nat) (h : (Tab.find s.moves c = none ∧ (coreOf s c).sb = [] ∧ (coreOf s c).cb = [] ∧
    s.lines = [] ∧ s.homeQ = [] ∧ s.snoops = []) ∧ s.txs = [] ∧ s.outbox = [] ∧ (coreOf s c).tlb = []) : Settled s c := by
  obtain ⟨⟨a, b, d, e, f, g⟩, i, j, k⟩ := h
  exact ⟨a, ⟨b, d⟩, e, ⟨f, g⟩, ⟨i, j⟩, by simp [k]⟩

/-- Interrupt 0xF5 is pending and goes to level 1, whose table has a descriptor for it. -/
def pendC6 (s : State) : State :=
  setPend { fput (fput (fput s F.pstate_PL 0 0) F.pstate_ML 0 0) F.vdtb_BASE 0 1 with
    mem := [(0x3EA1, 0x40), (0x3EA8, 0x15), (0x3EA9, 0xB9)] } 0 0xF5 true
/-- Core 0 waits in C6 with a deadline, and its cluster is off. -/
def c6S (e : Nat) : State :=
  setCore (fput (base 0 0 0) F.coreClstat_COFF 0 1) 0 { Core.reset with run := .c6, waitt := some (BitVec.ofNat 64 e, 4) }
/-- Standby is armed, and every cluster is off. -/
def armedS : State := sets State.reset ((F.corePkgctl_PSTAT, 0, 1) :: (upto 16).map (fun k => (F.coreClstat_COFF, k, 1)))
/-- Every core of cluster 1 is in C6, and CLUSTER_OFF is enabled. -/
def offS : State :=
  (upto 8).foldl (fun s k => setCore s (8 + k) { Core.reset with run := .c6 }) (fput State.reset F.coreClctl_OFFEN 1 1)

/-- Of two bytes that were being programmed when power failed, the second is as it was (R363). -/
theorem test_torn : (tearOp State.reset (.bytes 0x2000000 2 1 [(0x2000001, 7)]) 1).keep.flash =
    [(0x2000001, 7)] := by decide +kernel

theorem test_core_resets :
    runs (.coreReset 0) (base 1 2 3) (fun t => decide ((coreOf t 0).run = .held ∧ getG t 0 1 = 0 ∧ plOf t 0 = 3)) = true ∧
    runs (.clusterReset 0) (base 1 2 3) (fun t => decide ((coreOf t 0).run = .held ∧ t.resets = [])) = true ∧
    runs (.rel 5 0x1004) State.reset (fun t => decide ((coreOf t 5).run = .run ∧ (coreOf t 5).pc = 0x1004 ∧
      fget t F.pstate_ML 5 = 15)) = true ∧
    runs (.rel 0 0x1004) (base 0 0 0) (fun t => decide ((coreOf t 0).pc = 0)) = true ∧
    runs (.clusterOff 1) offS (fun t => decide (fbit t F.coreClstat_COFF 1 = true)) = true ∧
    runs (.clusterOff 0) offS (fun t => decide (fbit t F.coreClstat_COFF 0 = false)) = true ∧
    runs (.c6Wake 0) (c6S 0) (fun t => decide ((coreOf t 0).run = .run ∧ getG t 0 4 = 0)) = true := by decide +kernel

theorem test_standby :
    runs .ps1 State.reset (fun t => decide (fget t F.corePkgctl_PSTAT 0 = 1)) = true ∧
    runs .ps1 fabS (fun t => decide (fget t F.corePkgctl_PSTAT 0 = 1)) = true ∧
    runs .ps1 (fput State.reset F.tideFlowa_ROLE 7 3) (fun t => decide (fget t F.corePkgctl_PSTAT 0 = 3)) = true ∧
    runs .cancel armedS (fun t => decide (fget t F.corePkgctl_PSTAT 0 = 7)) = true ∧
    runs .ps1Entry (fput armedS F.tideFlowa_ROLE 7 3) (fun t => decide (fget t F.corePkgctl_PSTAT 0 = 3)) = true ∧
    runs .ps1Exit armedS (fun t => decide (t = armedS)) = true := by decide +kernel

/-- Cluster 3 runs at step 0x10 of 0x20. -/
def freqS : State := sets State.reset [(F.coreClctl_FREQ, 3, 0x20), (F.coreClstat_FACT, 3, 0x10)]

theorem test_frequency :
    runs (.frequencyDownStep 3 110) freqS (fun t => decide (fget t F.coreClstat_FACT 3 = 0xF ∧
      fget t F.coreClstat_TEMP 3 = 110 ∧ fbit t F.coreClstat_THR 3 = true)) = true ∧
    runs (.frequencyDownStep 3 125) freqS (fun t => decide (t.dev.thermtrip = true ∧ t.dev.halted = true ∧
      fget t F.fltFatal_UNIT 0 = 3)) = true ∧
    runs (.frequencyUpStep 3 94) freqS (fun t => decide (fget t F.coreClstat_FACT 3 = 0x11)) = true ∧
    runs (.frequencyUpStep 3 105) freqS (fun t => decide (fget t F.coreClstat_FACT 3 = 0x10)) = true ∧
    runs (.frequencyUpStep 3 95) (fput freqS F.coreClstat_FACT 3 0x1F) (fun t => decide (
      fget t F.coreClstat_FACT 3 = 0x1D)) = true := by decide +kernel

theorem witness_PowerStates : Settled (base 1 2 3) 0 ∧
    (∀ k < 8, Settled State.reset (8 * 15 + k)) ∧
    (Tab.find { base 0 0 0 with moves := [(0, 0, 0)] }.moves 0 ≠ none ∧ (coreOf State.reset 127).run = .held ∧
      State.reset.resets = [] ∧ (coreOf (base 0 0 0) 0).run ≠ .held ∧ fbit State.reset F.coreClctl_OFFEN 15 = false ∧
      fbit offS F.coreClctl_OFFEN 1 = true ∧ (∀ k < 8, (coreOf offS (8 * 1 + k)).run = .c6) ∧
      (coreOf (c6S 0) 0).run = .c6 ∧ (c6S 0).dev.ps1 = false ∧
      (match eligible 0 (c6S 0) with | .ok v _ => v.isNone | .error _ _ => false) = true ∧
      deadlinePast (c6S 0) 0 = true ∧ (coreOf (c6S 0) 0).waitt = some (0, 4) ∧
      (match eligible 0 (pendC6 (c6S 0)) with | .ok v _ => v.isSome | .error _ _ => false) = true ∧ (coreOf (pendC6 (c6S 0)) 0).run = .c6) ∧
    (fget armedS F.corePkgctl_PSTAT 0 = 1 ∧ armedS.dev.ps1 = false ∧ ps1Why armedS = 0 ∧
      ps1Why (fput armedS F.tideFlowa_ROLE 7 3) ≠ 0 ∧ (∀ k < 16, fbit armedS F.coreClstat_COFF k = true) ∧
      armedS.txs = [] ∧ storesOut armedS = false ∧ armedS.lines = [] ∧ fbit armedS F.fltLogRing_EN 0 = false ∧ armedS.svc.portSets = [] ∧
      { armedS with dev := { Dev.reset with ps1 := true, off := false } }.dev.ps1 = true ∧
      fget freqS F.coreClstat_FACT 3 < fget freqS F.coreClctl_FREQ 3 ∧
      8 < fget freqS F.coreClstat_FACT 3) :=
  ⟨settled _ _ (by decide +kernel), fun k h => settled _ _ (by
      have : ∀ k < 8, (Tab.find State.reset.moves (8 * 15 + k) = none ∧ (coreOf State.reset (8 * 15 + k)).sb = [] ∧
        (coreOf State.reset (8 * 15 + k)).cb = [] ∧ State.reset.lines = [] ∧ State.reset.homeQ = [] ∧
        State.reset.snoops = []) ∧ State.reset.txs = [] ∧ State.reset.outbox = [] ∧
        (coreOf State.reset (8 * 15 + k)).tlb = [] := by decide +kernel
      exact this k h), by decide +kernel, by decide +kernel⟩

/-- The TAP is open on a device whose core 0 runs. -/
def tapS (tap : Nat) (r : RunState) : State :=
  let s := setCore (fput (base 7 2 3) F.lcState_TAP 0 tap) 0 { coreOf (base 7 2 3) 0 with run := r, pc := 0x40 }
  { s with dev := { Dev.reset with tlr := false }, mem := [(0x100, 7)] }
/-- A locked PRODUCTION device that has given a nonce. -/
def prodS (fails : Nat) : State :=
  let s := { prodFuses with free := 0 }
  { s with dev := { Dev.reset with tlr := false, nonce := some (natBe 5 48), unlockFails := fails } }
def keyNat : Nat := leNat pubKey.reverse
def sigNat : Nat := leNat sigUnlock.reverse

theorem test_tap :
    runs .idcode (tapS 0 .run) (fun t => decide (t.dev.tdo = 0x196127EB)) = true ∧
    runs (.bypass true) (tapS 0 .run) (fun t => decide (t.dev.tdo = 2)) = true ∧
    runs (.samplePreload 5) (tapS 0 .run) (fun t => decide (t.dev.boundary = 5)) = true ∧
    runs (.extest 5) (tapS 0 .run) (fun t => decide (t.dev.extest = true ∧ t.dev.bootDue = some true)) = true ∧
    runs (.trstN true) (tapS 0 .run) (fun t => decide (t.dev.tlr = true)) = true ∧
    runs .idcode (after (.trstN true) (tapS 0 .run)) (fun t => decide (t.dev.tdo = 0)) = true ∧
    runs .unlockChal (prodS 0) (fun t => t.dev.nonce.isSome) = true ∧
    runs (.unlockResp keyNat sigNat) (prodS 2) (fun t => decide (fbit t F.lcState_UNLK 0 = true ∧
      fget t F.lcState_TAP 0 = 1 ∧ t.dev.nonce = none)) = true ∧
    runs (.unlockResp keyNat (sigNat + 1)) (prodS 2) (fun t => decide (fbit t F.lcState_UNLK 0 = false ∧
      t.dev.unlockFails = 3)) = true ∧
    runs (.unlockResp keyNat sigNat) (prodS 3) (fun t => decide (fbit t F.lcState_UNLK 0 = false)) = true := by
  decide +kernel

theorem test_debug_cores :
    runs (.dbgHalt 0) (tapS 1 .run) (fun t => decide ((coreOf t 0).run = .halted ∧ t.dev.tdo = 5)) = true ∧
    runs (.dbgHalt 0) (tapS 0 .run) (fun t => decide ((coreOf t 0).run = .run ∧ t.dev.tdo = 2 ^ 31)) = true ∧
    runs (.dbgHalt 0) (tapS 1 .c1) (fun t => decide ((coreOf t 0).pc = 0x3C)) = true ∧
    runs (.dbgResume 0) (tapS 1 .halted) (fun t => decide ((coreOf t 0).run = .run)) = true ∧
    runs (.dbgStep 0) (tapS 1 .halted) (fun t => decide ((coreOf t 0).run = .stepping)) = true ∧
    runs (.dbgReg 0 0x101 false 0) (tapS 1 .halted) (fun t => decide (t.dev.tdo = 7)) = true ∧
    runs (.dbgReg 0 0x102 true 9) (tapS 1 .halted) (fun t => decide (getG t 0 2 = 9 ∧ getG t 0 1 = 7)) = true ∧
    runs (.dbgReg 0 0x000 true 0) (tapS 1 .halted) (fun t => decide (plOf t 0 = 3 ∧ mlOf t 0 = 0)) = true ∧
    runs (.dbgReg 0 0x120 false 0) (tapS 1 .halted) (fun t => decide (t.dev.tdo = 0x40)) = true ∧
    runs (.dbgReg 0 0x120 false 0) (tapS 1 .run) (fun t => decide (t.dev.dbgStatus = 2)) = true ∧
    runs (.dbgMem false 0x100 0) (tapS 1 .run) (fun t => decide (t.dev.tdo = 7 ∧ t.dev.dbgStatus = 0)) = true ∧
    runs (.dbgMem true 0x100 0x1234) (tapS 1 .run) (fun t => decide ((upto 3).map (fun i => curByte t (0x100 + i)) =
      [0x34, 0x12, 0])) = true ∧
    runs (.dbgMem true 0x104 0x1234) (tapS 1 .run) (fun t => decide (t.dev.dbgStatus = 2)) = true ∧
    runs (.dbgMem false (BitVec.ofNat 64 spdSecure) 0) (tapS 1 .run) (fun t => decide (t.dev.dbgStatus = 3)) = true ∧
    runs (.dbgPort false 4 0) (tapS 1 .run) (fun t => decide (t.dev.dbgStatus = 2)) = true := by decide +kernel

theorem witness_DebugTap : OpenRow .idcode ∧ GatedRow (.dbgHalt 0) (1 * 2 ^ 30 + 0 * 2 ^ 16) ∧
    DevReady (tapS 1 .run) (0x100 / 64) ∧
    (tapOn (tapS 0 .run) = true ∧ tapOn (after (.trstN true) (tapS 0 .run)) = false ∧
      fget (prodS 0) F.lcState_STATE 0 = 3 ∧ fget (tapS 0 .run) F.lcState_TAP 0 = 0 ∧
      fget (tapS 1 .run) F.lcState_TAP 0 ≠ 0 ∧ (prodS 2).dev.unlockFails < 3 ∧ 3 ≤ (prodS 3).dev.unlockFails ∧
      undiscardable (tapS 1 .run) 0 = false ∧ (coreOf (tapS 1 .stepping) 0).run = .stepping ∧
      (coreOf (tapS 1 .stopped) 0).run = .stopped ∧ (coreOf (tapS 1 .c6) 0).run ≠ .halted) ∧
    (unlockOk (prodS 2) (natBe keyNat 97) (natBe sigNat 96) = true ∧
      unlockOk (prodS 2) (natBe keyNat 97) (natBe (sigNat + 1) 96) = false) ∧
    ({ tapS 1 .run with dev := { Dev.reset with tlr := false, dbg := some (true, 0, 0) } }.dev.dbg.isSome = true ∧
      (tapS 1 .run).dev.dbg = none ∧ region (tapS 1 .run) 0x100 = .dram ∧
      region (tapS 1 .run) (2 ^ 44) = .absent) :=
  ⟨.idcode, .halt 0, dev_ready _ _ (by decide +kernel), by decide +kernel, by decide +kernel, by decide +kernel⟩

/-! Words of instructions: the worked encodings of the spec, and words that raise ILLEGAL_INSTR. -/

theorem test_words : [
    (decodeYalic 0 0x4CBF0001 0x00012340, some (.ldD 0 5 (.dispX 31 0x12340))),
    (decodeYalic 0 0x0864FFF0 0, some (.addi 0 3 4 (.short 0x7FF8))),
    (decodeYalic 0 0xA0E84806 0, some (.aadd 0 7 8 9 true true)),
    (decodeYalic 0 0xC10FFFE0 0, some (.bc 0 2 1 (.short 0x3FFF0))),
    (decodeYalic 0 0xED228001 0x00700010, some (.pout 0 9 2 false (.long 0x00700010))),
    (decodeYalic 0 0xE8600010 0, some (.mfs 0 3 1)),
    (decodeYalic 0 0xF0000002 0, some (.sync 0))].all (fun r => decide (r.1 = r.2)) = true ∧
    (lengthOf 0x4CBF0001, lengthOf 0x0864FFF0) = (8, 4) := by decide +kernel

theorem test_illegal_words : [0, 0x04640801, 0x08640003, 0x24600000, 0x5C630000, 0x70630000, 0xC2700000,
    0xF0000010, 0xFC000000].all (fun w => decide (decodeYalic 0 w 0 = none)) = true := by decide +kernel

end Sys2Proof.Tests
end

section
/-! Laws of bit fields: the bits of a field that is read or replaced (R6), and what a register's fields
read after one of them is written. -/

namespace Sys2Proof.Machine

@[simp] theorem testBit_bitsOf (n hi lo i : Nat) :
    (bitsOf n hi lo).testBit i = (decide (i < hi + 1 - lo) && n.testBit (lo + i)) := by
  simp [bitsOf, Nat.testBit_mod_two_pow]

/-- A replaced field has the bits of the new value, and every bit outside it is as before. -/
theorem testBit_setBitsOf (n v i : Nat) {hi lo : Nat} (h : lo ≤ hi) :
    (setBitsOf n hi lo v).testBit i =
      if lo ≤ i ∧ i ≤ hi then v.testBit (i - lo) else n.testBit i := by
  have width : hi + 1 = lo + (hi + 1 - lo) := by omega
  have low : n % 2 ^ lo < 2 ^ lo := Nat.mod_lt _ (Nat.two_pow_pos _)
  have mid : v % 2 ^ (hi + 1 - lo) < 2 ^ (hi + 1 - lo) := Nat.mod_lt _ (Nat.two_pow_pos _)
  have split : setBitsOf n hi lo v = 2 ^ lo * (2 ^ (hi + 1 - lo) * (n >>> (hi + 1)) +
      v % 2 ^ (hi + 1 - lo)) + n % 2 ^ lo := by
    have pow : 2 ^ (hi + 1) = 2 ^ lo * 2 ^ (hi + 1 - lo) := by rw [← Nat.pow_add, ← width]
    simp only [setBitsOf, pow, Nat.mul_add, Nat.mul_comm, Nat.mul_left_comm, Nat.add_comm,
      Nat.add_left_comm]
  rw [split, Nat.testBit_two_pow_mul_add _ low, Nat.testBit_two_pow_mul_add _ mid]
  rcases Nat.lt_or_ge i lo with below | above
  · simp [below, Nat.testBit_mod_two_pow, Nat.not_le.mpr below]
  · rcases Nat.lt_or_ge hi i with beyond | inside
    · have at_i : hi + 1 + (i - lo - (hi + 1 - lo)) = i := by omega
      simp [Nat.not_lt.mpr above, show ¬ i - lo < hi + 1 - lo by omega, Nat.not_le.mpr beyond, at_i]
    · simp [Nat.not_lt.mpr above, show i - lo < hi + 1 - lo by omega, above, inside,
        Nat.testBit_mod_two_pow]

/-- Bit `i` of a register after its field `f` was written: 64 bits are kept. -/
theorem testBit_rd_fput (s : State) {f : FRef} (h : f.lo ≤ f.hi) (n v i : Nat) :
    (rd (fput s f n v) f.reg n).toNat.testBit i =
      (decide (i < 64) && if f.lo ≤ i ∧ i ≤ f.hi then v.testBit (i - f.lo)
        else (rd s f.reg n).toNat.testBit i) := by
  rw [fput, rd_wr_same, BitVec.toNat_ofNat, Nat.testBit_mod_two_pow, testBit_setBitsOf _ _ _ h]

/-- A field that is written reads what was written, as far as the field has room for it. -/
theorem fget_fput_same (s : State) {f : FRef} (h : f.lo ≤ f.hi) (top : f.hi < 64) (n v : Nat) :
    fget (fput s f n v) f n = v % 2 ^ (f.hi + 1 - f.lo) := by
  refine Nat.eq_of_testBit_eq fun i => ?_
  rw [fget, testBit_bitsOf, testBit_rd_fput s h, Nat.testBit_mod_two_pow]
  by_cases inside : i < f.hi + 1 - f.lo
  · simp [inside, show f.lo + i < 64 by omega, show f.lo + i ≤ f.hi by omega]
  · simp [inside]

/-- Writing a field leaves a field of the same register that shares no bit with it. -/
theorem fget_fput_apart (s : State) (f g : FRef) (h : f.lo ≤ f.hi) (reg : g.reg = f.reg)
    (apart : g.hi < f.lo ∨ f.hi < g.lo) (n v : Nat) : fget (fput s f n v) g n = fget s g n := by
  refine Nat.eq_of_testBit_eq fun i => ?_
  rw [fget, fget, reg, testBit_bitsOf, testBit_bitsOf, testBit_rd_fput s h]
  by_cases inside : i < g.hi + 1 - g.lo
  · by_cases room : g.lo + i < 64
    · simp [inside, room, show ¬ (f.lo ≤ g.lo + i ∧ g.lo + i ≤ f.hi) by omega]
    · simp [room, BitVec.testBit_toNat, BitVec.getLsbD_of_ge _ _ (Nat.le_of_not_lt room)]
  · simp [inside]

/-- One bit of a value, taken as a number and read as a Boolean. -/
theorem n2b_bitsOf_bit (n i : Nat) : n2b (bitsOf n i i) = n.testBit i := by
  simp [n2b, bitsOf, Nat.testBit_eq_decide_div_mod_eq, Nat.shiftRight_eq_div_pow]

/-- A one-bit field that is given bit `i` of a value reads as that bit. -/
theorem fbit_fput_bit (s : State) {f : FRef} (one : f.lo = f.hi) (top : f.hi < 64) (n v i : Nat) :
    fbit (fput s f n (bitsOf v i i)) f n = v.testBit i := by
  have fits : bitsOf v i i % 2 ^ (f.hi + 1 - f.lo) = bitsOf v i i := by
    simp [one, bitsOf]
  rw [fbit, fget_fput_same s (Nat.le_of_eq one) top, fits, n2b_bitsOf_bit]

/-- Retiring leaves every field but those of the counters. -/
theorem Retired.keeps_field {x t : State} {c : CoreNo} (h : Retired x t c) {f : FRef} (n : Nat)
    (counter : f.reg ≠ .pmc) (select : f.reg ≠ .pmsel) : fget t f n = fget x f n := by
  rw [fget, h.regs _ n counter select, fget]

end Sys2Proof.Machine
end

section
/-! The condition codes (R33). -/

namespace Sys2Proof.Machine

/-- The flags of a condition register are the four bits that `mkFlags` packs. -/
theorem testBit_mkFlags (z n b u : Bool) :
    (mkFlags z n b u).testBit 0 = z ∧ (mkFlags z n b u).testBit 1 = n ∧
    (mkFlags z n b u).testBit 2 = b ∧ (mkFlags z n b u).testBit 3 = u := by
  revert z n b u
  decide

/-- After an unordered comparison no ordering code holds. -/
theorem condHolds_unordered {f : Nat} (u : f.testBit 3 = true) {k : BitVec 4} (lo : 2 ≤ k.toNat)
    (hi : k.toNat ≤ 9) : condHolds f k = false := by
  unfold condHolds
  generalize k.toNat = m at lo hi
  obtain rfl | rfl | rfl | rfl | rfl | rfl | rfl | rfl :
      m = 2 ∨ m = 3 ∨ m = 4 ∨ m = 5 ∨ m = 6 ∨ m = 7 ∨ m = 8 ∨ m = 9 := by omega
  all_goals simp only [u, Bool.not_true, Bool.and_false]

/-- The reserved codes are not well formed. -/
theorem condOk_reserved {k : BitVec 4} (lo : 12 ≤ k.toNat) (hi : k.toNat ≤ 14) : condOk k = false := by
  simp [condOk, lo, hi]

theorem exec_csel (c : CoreNo) (d a b : GReg) (cr : CReg) (k : BitVec 4) (s : State) :
    exec (.csel c d a b cr k) s = execCsel c d a b cr k s := rfl

theorem exec_bc (c : CoreNo) (cr : CReg) (k : BitVec 4) (disp : BDisp) (s : State) :
    exec (.bc c cr k disp) s = execBc c cr k disp s := rfl

end Sys2Proof.Machine

namespace Sys2Proof.Claims

open Sys2Proof.Machine

/-- A select with a reserved code takes ILLEGAL_INSTR. -/
theorem csel_reserved_traps {s u : State} {c : CoreNo} {k : BitVec 4} (bad : condOk k = false)
    (d a b : GReg) (cr : CReg) (run : Runs s c 4 0 u) :
    Traps (.csel c d a b cr k) s c u { code := 0x01 } := by
  rw [Traps, exec_csel, execCsel, bad]
  exact issue_ill run

/-- A branch with a reserved code takes ILLEGAL_INSTR. -/
theorem bc_reserved_traps {s u : State} {c : CoreNo} {k : BitVec 4} (bad : condOk k = false)
    (cr : CReg) (disp : BDisp) (run : Runs s c (bLen disp) 0 u) :
    Traps (.bc c cr k disp) s c u { code := 0x01 } := by
  rw [Traps, exec_bc, execBc, bad]
  exact issue_ill run

end Sys2Proof.Claims

namespace Sys2Proof.Proofs

open Sys2Proof.Machine Sys2Proof.Claims

/-- Settles O10: each code is read off the four flags, U makes every ordering code false, and an
instruction whose code is reserved is ill-formed. -/
theorem conditionCodes : Obligations.ConditionCodes := by
  refine ⟨?_, fun s u c d a b cr k disp lo hi => ?_⟩
  · rintro z n b u f rfl
    obtain ⟨hz, hn, hb, hu⟩ := testBit_mkFlags z n b u
    refine ⟨?_, ?_, ?_, fun unordered k => condHolds_unordered (hu.trans unordered), ?_, ?_, rfl⟩
    · exact hz
    · simp [condHolds, hz]
    · rintro rfl
      simp [condHolds, hz, hn, hb, hu]
    · exact hu
    · simp [condHolds, hu]
  · have bad := condOk_reserved lo hi
    exact ⟨csel_reserved_traps bad d a b cr, bc_reserved_traps bad cr disp⟩

end Sys2Proof.Proofs
end

section
/-! Writing and reading PSTATE (R38). -/

namespace Sys2Proof.Machine

/-- The highest mask level that a level may write (R38). -/
def mlCeiling (pl : Nat) : Nat := if pl = 1 then 11 else if pl = 2 then 13 else 15

theorem mlCeiling_lt (pl : Nat) : mlCeiling pl < 16 := by
  unfold mlCeiling
  split
  · decide
  · split <;> decide

/-- What a write of PSTATE puts into ML and BIP, before TE. -/
def putMlBip (s : State) (c : CoreNo) (v : Nat) : State :=
  fput (fput s F.pstate_ML c (min (bitsOf v 7 4) (mlCeiling (plOf s c)))) F.pstate_BIP c (bitsOf v 8 8)

/-- PL1 writes ML and BIP alone, PL2 and PL3 also TE. -/
theorem writePstate_eq (s : State) (c : CoreNo) (v : Nat) :
    writePstate s c v = if 2 ≤ plOf s c then fput (putMlBip s c v) F.pstate_TE c (bitsOf v 9 9)
      else putMlBip s c v := rfl

/-- PL and TE lie outside what `putMlBip` writes. -/
theorem fget_putMlBip_apart (s : State) (c : CoreNo) (v : Nat) (g : FRef) (reg : g.reg = .pstate)
    (apart : g.hi < 4 ∨ 8 < g.lo) : fget (putMlBip s c v) g c = fget s g c := by
  rw [putMlBip, fget_fput_apart _ F.pstate_BIP g (by decide) reg (by dsimp only; omega),
    fget_fput_apart _ F.pstate_ML g (by decide) reg (by dsimp only; omega)]

/-- The fields of PSTATE below TE do not depend on whether TE is written. -/
theorem fget_writePstate_below_te (s : State) (c : CoreNo) (v : Nat) (g : FRef) (reg : g.reg = .pstate)
    (below : g.hi < 9) : fget (writePstate s c v) g c = fget (putMlBip s c v) g c := by
  rw [writePstate_eq]
  split
  · exact fget_fput_apart _ F.pstate_TE g (by decide) reg (.inl below) ..
  · rfl

@[simp] theorem plOf_writePstate (s : State) (c : CoreNo) (v : Nat) :
    plOf (writePstate s c v) c = plOf s c :=
  (fget_writePstate_below_te s c v F.pstate_PL rfl (by decide)).trans
    (fget_putMlBip_apart s c v F.pstate_PL rfl (by decide))

theorem mlOf_writePstate (s : State) (c : CoreNo) (v : Nat) :
    mlOf (writePstate s c v) c = min (bitsOf v 7 4) (mlCeiling (plOf s c)) := by
  have fits : min (bitsOf v 7 4) (mlCeiling (plOf s c)) < 2 ^ (7 + 1 - 4) :=
    Nat.lt_of_le_of_lt (Nat.min_le_right ..) (mlCeiling_lt _)
  rw [mlOf, fget_writePstate_below_te s c v F.pstate_ML rfl (by decide), putMlBip,
    fget_fput_apart _ F.pstate_BIP F.pstate_ML (by decide) rfl (by decide),
    fget_fput_same _ (by decide) (by decide), Nat.mod_eq_of_lt fits]

theorem bip_writePstate (s : State) (c : CoreNo) (v : Nat) :
    fbit (writePstate s c v) F.pstate_BIP c = v.testBit 8 := by
  rw [fbit, fget_writePstate_below_te s c v F.pstate_BIP rfl (by decide)]
  exact fbit_fput_bit _ rfl (by decide) ..

theorem te_writePstate (s : State) (c : CoreNo) (v : Nat) :
    fbit (writePstate s c v) F.pstate_TE c =
      if 2 ≤ plOf s c then v.testBit 9 else fbit s F.pstate_TE c := by
  rw [writePstate_eq]
  split
  · exact fbit_fput_bit _ rfl (by decide) ..
  · rw [fbit, fget_putMlBip_apart s c v F.pstate_TE rfl (by decide), fbit]

/-- A write of PSTATE does not move the pc. -/
@[simp] theorem getPc_writePstate (s : State) (c : CoreNo) (v : Nat) :
    getPc (writePstate s c v) c = getPc s c := by
  rw [writePstate_eq]
  split <;> rfl

/-- System register 0 is PSTATE, read from PL0 and written from PL1 (R40). -/
theorem sysRegOf_pstate : sysRegOf 0x000 = some ⟨.pstate, 0, 0, 1⟩ := rfl

/-- At PL0 the body of an MTS to PSTATE raises PRIV_INSTR and changes nothing. -/
theorem mtsBody_pstate_denied {s : State} {c : CoreNo} (pl : plOf s c = 0) (v : Word) :
    mtsBody c 0x000 v s = .error (.exc { code := 0x02 }) s := by
  rw [mtsBody, CpuM.get_bind]
  simp only [sysRegOf_pstate, pl]
  rfl

/-- Above PL0 the body of an MTS to PSTATE writes it. -/
theorem mtsBody_pstate {s : State} {c : CoreNo} (pl : 1 ≤ plOf s c) (v : Word) :
    mtsBody c 0x000 v s = .ok () (writePstate s c v.toNat) := by
  rw [mtsBody, CpuM.get_bind]
  simp only [sysRegOf_pstate, Nat.not_lt.mpr pl]
  rfl

theorem exec_mtsPstate (c : CoreNo) (d : GReg) (s : State) :
    exec (.mtsPstate c d) s = issue c (.mtsPstate c d) 4 0 true [] (mtsBody c 0x000 (getG s c d)) s := rfl

theorem exec_mfs (c : CoreNo) (d : GReg) (n : BitVec 12) (s : State) :
    exec (.mfs c d n) s = execMfs c d n s := rfl

@[simp] theorem plOf_past (s u : State) (c : CoreNo) (len : Nat) : plOf (past s u c len) c = plOf u c := rfl

@[simp] theorem fbit_past (s u : State) (c : CoreNo) (len : Nat) (f : FRef) (n : Nat) :
    fbit (past s u c len) f n = fbit u f n := rfl

end Sys2Proof.Machine

namespace Sys2Proof.Claims

open Sys2Proof.Machine

/-- At PL0 an MTS to PSTATE takes PRIV_INSTR. -/
theorem mtsPstate_traps_at_pl0 {s u : State} {c : CoreNo} (d : GReg) (run : Runs s c 4 0 u)
    (pl : plOf u c = 0) : Traps (.mtsPstate c d) s c (past s u c 4) { code := 0x02 } := by
  rw [Traps, exec_mtsPstate]
  exact issue_raises run (mtsBody_pstate_denied (s := past s u c 4) pl _)

/-- Above PL0 an MTS to PSTATE completes with `writePstate`. -/
theorem mtsPstate_completes {s u : State} {c : CoreNo} (d : GReg) (run : Runs s c 4 0 u)
    (pl : 1 ≤ plOf u c) :
    Completes (.mtsPstate c d) s c (writePstate (past s u c 4) c (getG s c d).toNat) := by
  rw [Completes, exec_mtsPstate]
  refine issue_retires run (mtsBody_pstate (s := past s u c 4) pl _) ?_
  rw [getPc_writePstate]
  exact run.past_aligned (by decide)

/-- An MFS of PSTATE completes at every level, with its value in gD. -/
theorem mfs_pstate_completes {s u : State} {c : CoreNo} (d : GReg) (run : Runs s c 4 0 u) :
    Completes (.mfs c d 0) s c (setG (past s u c 4) c d (sysRead u c ⟨.pstate, 0, 0, 1⟩)) := by
  rw [Completes, exec_mfs, execMfs]
  refine issue_retires run ?_ ?_
  · rw [CpuM.get_bind]
    have number : sysRegOf (0 : BitVec 12).toNat = some ⟨.pstate, 0, 0, 1⟩ := sysRegOf_pstate
    have open_at_pl0 : pl0Reads (past s u c 4) c ⟨.pstate, 0, 0, 1⟩ = true := rfl
    simp only [number, Nat.not_lt_zero, open_at_pl0, Bool.not_true, Bool.false_eq_true, and_false,
      or_false, if_false]
    rfl
  · rw [getPc_setG]
    exact run.past_aligned (by decide)

end Sys2Proof.Claims

namespace Sys2Proof.Proofs

open Sys2Proof.Machine Sys2Proof.Claims

/-- Settles O12: at PL0 the body raises PRIV_INSTR, and above it the fields are those that
`writePstate` leaves, which retiring keeps. -/
theorem writePstate : Obligations.WritePstate := by
  rintro s u c d v run rfl
  refine ⟨mtsPstate_traps_at_pl0 d run, fun pl => ?_, mfs_pstate_completes d run⟩
  obtain ⟨t, next, ret⟩ := mtsPstate_completes d run pl
  have keeps : ∀ f : FRef, f.reg = .pstate → fget t f c =
      fget (Machine.writePstate (past s u c 4) c (getG s c d).toNat) f c :=
    fun f reg => ret.keeps_field c (by simp [reg]) (by simp [reg])
  refine ⟨t, next, ?_, ?_, ?_, ?_⟩
  · exact (keeps _ rfl).trans (plOf_writePstate ..)
  · exact (keeps _ rfl).trans (mlOf_writePstate ..)
  · rw [fbit, keeps _ rfl]
    exact bip_writePstate ..
  · rw [fbit, keeps _ rfl]
    refine (te_writePstate ..).trans ?_
    by_cases one : plOf u c = 1
    · rw [plOf_past, if_pos one, if_neg (by omega), fbit_past]
    · rw [plOf_past, if_neg one, if_pos (by omega), BitVec.testBit_toNat]

end Sys2Proof.Proofs
end

section
/-! Division and remainder (R66). -/

namespace Sys2Proof.Machine

/-! The model's division is the bit vectors' own, whose laws the library has. -/

theorem divU_eq_udiv (x y : Word) : divU x y = x / y := BitVec.udiv_def.symm

theorem remU_eq_umod (x y : Word) : remU x y = x % y := BitVec.umod_def.symm

theorem divS_eq_sdiv (x y : Word) : divS x y = x.sdiv y := by
  unfold divS
  split
  case isTrue zero => rw [zero]; exact BitVec.sdiv_zero.symm
  case isFalse => exact BitVec.eq_of_toInt_eq (by rw [BitVec.toInt_ofInt, BitVec.toInt_sdiv])

theorem remS_eq_srem (x y : Word) : remS x y = x.srem y := by
  unfold remS
  split
  case isTrue zero => rw [zero]; exact BitVec.srem_zero.symm
  case isFalse => rw [← BitVec.toInt_srem, BitVec.ofInt_toInt]

/-! What the four operations give. -/

theorem division_by_zero (x : Word) : divS x 0 = 0 ∧ divU x 0 = 0 ∧ remS x 0 = x ∧ remU x 0 = x := by
  rw [divS_eq_sdiv, divU_eq_udiv, remS_eq_srem, remU_eq_umod]
  exact ⟨BitVec.sdiv_zero, BitVec.udiv_zero, BitVec.srem_zero, BitVec.umod_zero⟩

theorem toNat_divU_remU (x y : Word) :
    (divU x y).toNat = x.toNat / y.toNat ∧ (remU x y).toNat = x.toNat % y.toNat := by
  rw [divU_eq_udiv, remU_eq_umod]
  exact ⟨BitVec.toNat_udiv, BitVec.toNat_umod⟩

/-- The quotient 2^63 does not fit, and wraps. -/
theorem division_overflow : divS (BitVec.intMin 64) (-1) = BitVec.intMin 64 ∧
    remS (BitVec.intMin 64) (-1) = 0 := by
  rw [divS_eq_sdiv, remS_eq_srem]
  exact ⟨BitVec.intMin_sdiv_neg_one, by decide⟩

theorem toInt_divS_remS {x y : Word} (fits : ¬(x = BitVec.intMin 64 ∧ y = -1)) :
    (divS x y).toInt = x.toInt.tdiv y.toInt ∧ (remS x y).toInt = x.toInt.tmod y.toInt := by
  rw [divS_eq_sdiv, remS_eq_srem]
  exact ⟨BitVec.toInt_sdiv_of_ne_or_ne x y (Decidable.not_and_iff_not_or_not.mp fits),
    BitVec.toInt_srem x y⟩

theorem exec_div (c : CoreNo) (d a b : GReg) (s : State) :
    exec (.div c d a b) s = aluOp c (.div c d a b) d a b divS s := rfl

theorem exec_divu (c : CoreNo) (d a b : GReg) (s : State) :
    exec (.divu c d a b) s = aluOp c (.divu c d a b) d a b divU s := rfl

theorem exec_rem (c : CoreNo) (d a b : GReg) (s : State) :
    exec (.rem c d a b) s = aluOp c (.rem c d a b) d a b remS s := rfl

theorem exec_remu (c : CoreNo) (d a b : GReg) (s : State) :
    exec (.remu c d a b) s = aluOp c (.remu c d a b) d a b remU s := rfl

end Sys2Proof.Machine

namespace Sys2Proof.Claims

open Sys2Proof.Machine

/-- A command whose execution is `aluOp` completes, with the value of its operands in gD. -/
theorem aluOp_completes {s u : State} {c : CoreNo} {i : Instr} {d a b : GReg}
    {f : Word → Word → Word} (run : Runs s c 4 0 u) (arm : exec i s = aluOp c i d a b f s) :
    Completes i s c (setG (past s u c 4) c d (f (getG u c a) (getG u c b))) := by
  rw [Completes, arm, aluOp, ← getG_past s u c c 4 a, ← getG_past s u c c 4 b]
  exact issue_modify (fun w => setG w c d (f (getG w c a) (getG w c b))) run (by decide)
    (getPc_setG ..)

end Sys2Proof.Claims

namespace Sys2Proof.Proofs

open Sys2Proof.Machine Sys2Proof.Claims

/-- Settles O8: the four commands are `aluOp` of the model's quotients and remainders, which never
raise; by zero and for −2^63 by −1 these are the values that R66 names. -/
theorem divisionResults : Obligations.DivisionResults := by
  rintro s u c d a b x y run rfl rfl
  refine ⟨divS _ _, divU _ _, remS _ _, remU _ _, aluOp_completes run (exec_div ..),
    aluOp_completes run (exec_divu ..), aluOp_completes run (exec_rem ..),
    aluOp_completes run (exec_remu ..), fun zero => ?_, fun _ => toNat_divU_remU ..,
    fun isMin isNegOne => ?_, fun _ fits => toInt_divS_remS fits⟩
  · rw [zero]
    exact division_by_zero _
  · rw [isMin, isNegOne]
    exact division_overflow

end Sys2Proof.Proofs
end
